-- ==== Sys2Proof/Word.lean ====
section
/-! DEFINITION. The word types of the TN9 and the plain operand types that commands carry. -/
namespace Sys2Proof

/-- A 64-bit word (spec 00, Notation). -/
abbrev Word := BitVec 64

/-- A 4-bit tag code (R88). -/
abbrev Tag := BitVec 4

/-- A tagged word: 64 data bits and a tag (R88). -/
structure TWord where
  data : Word
  tag : Tag
  deriving DecidableEq, Repr, Inhabited

/-- A sparse table from numbers to values. Canonical form: keys strictly rising, and no entry equal
to what an unlisted key reads as (`Tbl.wf`). -/
abbrev Tbl (α : Type) := List (Nat × α)

/-- The engines that run Ndoat: the tile sequencer of a logical tile, and postmasters A and B (spec 03). -/
inductive EngineId where
  | tile (t : Nat)
  | pmA
  | pmB
  deriving DecidableEq, Repr, Inhabited

/-- The short operations of R113 (minor opcodes), as halves of a pair word. Operand fields are the
raw fields of forms N4, I9 and SH. -/
inductive ShortOp where
  | nop | dup | drop | swap | over | rot | nip
  | pick (n : BitVec 4)
  | slit (imm : BitVec 9)
  | saddi (imm : BitVec 9)
  | add | adc | sub | sbc | and | or | xor | not | neg | cmp | tst | clz | popc
  | shl (count : BitVec 6) | shr (count : BitVec 6) | sar (count : BitVec 6) | rol (count : BitVec 6)
  | tox | toy | fromx | fromy
  | xadd (imm : BitVec 9) | yadd (imm : BitVec 9) | xcmp (imm : BitVec 9) | ycmp (imm : BitVec 9)
  | aadd | aoff | aseg | adiff
  | toint | toraw | toflt | tagof | dset | dstep
  deriving DecidableEq, Repr, Inhabited

/-- Memory operand of form M (R104): segment, base selector and signed word count. -/
structure MForm where
  seg : BitVec 12
  b : Bool
  imm : BitVec 11
  deriving DecidableEq, Repr, Inhabited

/-- Operand of form BR: ANNUL, HINT and the signed word displacement. -/
structure BrForm where
  annul : Bool
  hint : Bool
  disp : BitVec 22
  deriving DecidableEq, Repr, Inhabited

/-- The function from which an SPDM or PCIe request comes: the PF, or the VF of a tenant (R402). -/
inductive Fn where
  | pf
  | vf (n : Nat)
  deriving DecidableEq, Repr, Inhabited

/-- The place an envelope comes from: a tenant mailbag, a PF mailbag or the ESEND queue of a logical
tile (R453, R480). -/
inductive Place where
  | tenantBag (n m : Nat)
  | pfBag (m : Nat)
  | esend (t : Nat)
  deriving DecidableEq, Repr, Inhabited

/-- A matrix master (spec 13, Masters). -/
inductive Master where
  | pmA | pmB
  | pcie (f : Fn)
  | loader
  | debug
  | tilePort (t : Nat)
  deriving DecidableEq, Repr, Inhabited

/-- A message of fabric letters: the fields of its head (R515) and its body letters. VC and CLASS come with its cell descriptors, and `stamp`
and `atSclk` with the frame in which it arrived: fabric time in 1/16 ticks, and SCLK, both 0 but in a TIME letter (R543). `reservedBad`: a reserved
bit of the head is 1, or LEN is not the number of body letters that came (R517). -/
structure Letter where
  ports : BitVec 40
  hops : BitVec 4
  hop : BitVec 4
  dest : BitVec 14
  src : BitVec 14
  tenant : BitVec 10
  op : BitVec 8
  xtag : BitVec 16
  addr : Word
  args : BitVec 192
  keytag : BitVec 128
  vc : BitVec 2
  cls : BitVec 3
  stamp : Nat
  atSclk : Nat
  reservedBad : Bool
  body : List (BitVec 512)
  deriving DecidableEq, Repr, Inhabited

/-- What a host read returns: data words, or a PCIe error after some lines (R470, R492). -/
inductive HostData where
  | ok (words : List Word)
  | err (goodLines : Nat) (words : List Word)
  deriving DecidableEq, Repr, Inhabited

/-- The upsets that one strip meets, carried by the commands that run strips (spec 08: faults that reflection sees): for each pass the
exclusive-or that its first result takes, a comparator that errs, so that the two disagree (R382), and an uncorrectable error in the strip
buffer of a reflected strip (R372). -/
structure Upset where
  pass0 : Word
  pass1 : Word
  pass2 : Word
  cmp : Bool
  buf : Bool
  deriving DecidableEq, Repr, Inhabited

/-- No upset: every pass computes correctly. -/
def Upset.none : Upset := ⟨0, 0, 0, false, false⟩

/-- Keys, as names of what they were drawn or derived from: distinct names are distinct keys (log 6). -/
inductive Key where
  /-- no key: the line is stored as the controller formed it (unwritten state, POISON) -/
  | raw
  /-- a cipher context never bound -/
  | unbound
  /-- the n-th draw of the DRBG (R426) -/
  | draw (n : Nat)
  /-- XTS pair of the root drawn n-th, KEYIDX i, generation g (R428) -/
  | hbm (n i g : Nat)
  /-- a postmaster context (R427) -/
  | pm (c : Nat)
  /-- franking key of an SPDM session, from its secret (R431) -/
  | franking (secret : Nat)
  | deviceId
  /-- the Alias private key generated from a seed (R414) -/
  | aliasOf (seed : BitVec 384)
  | storage
  /-- key of a direction of a link: salt, shared secret, whether the second end transmits in it (R437) -/
  | link (salt secret : BitVec 384) (second : Bool)
  /-- a key programmed through IDE_KM -/
  | ide (n : Nat)
  deriving DecidableEq, Repr, Inhabited

/-- What a NEGOTIATE_ALGORITHMS request offers, as the bit masks of DSP0274 (R417): measurement specification, signature, hash, key exchange and
AEAD. -/
structure SpdmAlgs where
  meas : BitVec 8
  sig : BitVec 32
  hash : BitVec 32
  dhe : BitVec 16
  aead : BitVec 16
  deriving DecidableEq, Repr, Inhabited

/-- A frame on a link (R503): its 15 cells as they are sent, encrypted or, before the link has keys, in clear; bytes 960 to 975, the cell
descriptors; the control word; and the tag. Of a received one, `failing` gives the lane of each failing symbol (R504), whose correction the
other fields show, and `idle` the frames before it, since the last one received, that carried nothing and are not shown (R502, R505). -/
structure Frame where
  failing : List Nat
  idle : Nat
  cells : List (BitVec 512)
  desc : BitVec 128
  control : Word
  tag : BitVec 128
  deriving DecidableEq, Repr, Inhabited

end Sys2Proof
end

