-- ==== Sys2Proof/Syntax.lean ====
section
/-! DEFINITION. The commands of the block: one constructor for each row of spec/opcode_table.json, in the table's order.
Operands are the row's own fields (instruction fields as raw bits), the engine, tile, stack, port, mailbag or function that acts,
and what the outside world supplies (write data, letters, samples). -/
namespace Sys2Proof

/-- One command or event of the TN9. Each docstring cites the rule that owns the row. -/
inductive Instr where
  /-- LIT (R112): Pushes the sign-extended 24-bit immediate as an INT word. -/
  | lit (e : EngineId) (imm : BitVec 24)
  /-- LITR (R112): Pushes the zero-extended 24-bit immediate as a RAW word. -/
  | litr (e : EngineId) (imm : BitVec 24)
  /-- LITS (R112): Replaces T with (T << 24) OR IMM and keeps T's tag, which must be INT or RAW. -/
  | lits (e : EngineId) (imm : BitVec 24)
  /-- SEGREF (R94): Pushes an ADDR for segment SEG at eight times the word offset, faulting F_SEGMENT when the offset is out of range or the descriptor is invalid. -/
  | segref (e : EngineId) (seg : BitVec 12) (off : BitVec 12)
  /-- AADDI (R94): Adds an immediate byte count to the offset of the ADDR at T, under the range rule. -/
  | aaddi (e : EngineId) (imm : BitVec 24)
  /-- LD (R158): Loads a word from segment + X, or from segment + Y + 8 × IMM, after the access check, with its tag carried unchanged. -/
  | ld (e : EngineId) (m : MForm)
  /-- ST (R158): Stores T into the tile store at the M address by way of the store buffer. -/
  | st (e : EngineId) (m : MForm)
  /-- LDX (R89): Loads an INT or RAW word into X. -/
  | ldx (e : EngineId) (m : MForm)
  /-- LDY (R89): Loads an INT or RAW word into Y. -/
  | ldy (e : EngineId) (m : MForm)
  /-- STX (R112): Stores X as an INT word at the M address. -/
  | stx (e : EngineId) (m : MForm)
  /-- STY (R112): Stores Y as an INT word at the M address. -/
  | sty (e : EngineId) (m : MForm)
  /-- LDA (R112): Loads the word at ADDR a + 8 × IMM. -/
  | lda (e : EngineId) (imm : BitVec 24)
  /-- STA (R112): Stores w at ADDR a + 8 × IMM. -/
  | sta (e : EngineId) (imm : BitVec 24)
  /-- RDSR (R99): Pushes the special register that the selector names. -/
  | rdsr (e : EngineId) (sel : BitVec 8)
  /-- WRSR (R99): Writes the special register that the selector names; spill pointers are written under the checks of R98. -/
  | wrsr (e : EngineId) (sel : BitVec 8)
  /-- ADDI (R111): Adds an immediate to T and sets the add flags. -/
  | addi (e : EngineId) (imm : BitVec 24)
  /-- ANDI (R111): ANDs an immediate into T and sets the logic flags. -/
  | andi (e : EngineId) (imm : BitVec 24)
  /-- ORI (R111): ORs an immediate into T and sets the logic flags. -/
  | ori (e : EngineId) (imm : BitVec 24)
  /-- XORI (R111): XORs an immediate into T and sets the logic flags. -/
  | xori (e : EngineId) (imm : BitVec 24)
  /-- CMPI (R111): Sets the flags from T − IMM. -/
  | cmpi (e : EngineId) (imm : BitVec 24)
  /-- MUL (R112): Replaces S1 and T with the low 64 bits of their product. -/
  | mul (e : EngineId)
  /-- MULHU (R112): Replaces S1 and T with the high 64 bits of their unsigned product. -/
  | mulhu (e : EngineId)
  /-- MULHS (R112): Replaces S1 and T with the high 64 bits of their signed product. -/
  | mulhs (e : EngineId)
  /-- EXTI (R117): Extracts an immediate-described bit field of T. -/
  | exti (e : EngineId) (sx : Bool) (pos : BitVec 6) (wm1 : BitVec 6)
  /-- INSI (R118): Inserts the low bits of T into S1 at an immediate-described field. -/
  | insi (e : EngineId) (sx : Bool) (pos : BitVec 6) (wm1 : BitVec 6)
  /-- EXT (R119): Extracts a bit field from S1 under control word T. -/
  | ext (e : EngineId)
  /-- INS (R119): Inserts S1 into S2 under control word T. -/
  | ins (e : EngineId)
  /-- BPERM (R120): Permutes the bytes of S1 and S2 under the control nibbles of T. -/
  | bperm (e : EngineId)
  /-- MOVW (R125): Copies X words between two ADDR operands, one word per step and resumable. -/
  | movw (e : EngineId) (dir : Bool)
  /-- FILLW (R125): Stores a value into X words at a destination, one word per step and resumable. -/
  | fillw (e : EngineId) (dir : Bool)
  /-- VWAIT (R134): Waits, interruptibly, until no ID in IDMASK is outstanding. -/
  | vwait (e : EngineId) (mask : BitVec 16)
  /-- VFENCE (R246): Waits until no instruction that is not parked is outstanding. -/
  | vfence (e : EngineId)
  /-- RLOAD (R131): Copies a round sheet into a sheet-memory slot, validates it and pushes a SHEET handle or a status. -/
  | rload (e : EngineId)
  /-- RCALL (R132): Starts the round named by a SHEET handle for n iterations, or refuses with a status. -/
  | rcall (e : EngineId)
  /-- RWAIT (R134): Waits until no round runs on the tile. -/
  | rwait (e : EngineId)
  /-- VMAKE (R197): Writes a stream-table entry, advances its generation and pushes a VDESC. -/
  | vmake (e : EngineId)
  /-- VSETL (R198): Replaces the length of a VDESC word. -/
  | vsetl (e : EngineId)
  /-- ESEND (R135): Reads an envelope image into the tile's ESEND queue, and names a receipt slot for its receipt. -/
  | esend (e : EngineId)
  /-- BR (R146): Branches always, after its delay slot. -/
  | br (e : EngineId) (f : BrForm)
  /-- BZ (R146): Branches when Z is 1. -/
  | bz (e : EngineId) (f : BrForm)
  /-- BNZ (R146): Branches when Z is 0. -/
  | bnz (e : EngineId) (f : BrForm)
  /-- BN (R146): Branches when N is 1. -/
  | bn (e : EngineId) (f : BrForm)
  /-- BNN (R146): Branches when N is 0. -/
  | bnn (e : EngineId) (f : BrForm)
  /-- BC (R146): Branches when C is 1. -/
  | bc (e : EngineId) (f : BrForm)
  /-- BNC (R146): Branches when C is 0. -/
  | bnc (e : EngineId) (f : BrForm)
  /-- BV (R146): Branches when V is 1. -/
  | bv (e : EngineId) (f : BrForm)
  /-- BNV (R146): Branches when V is 0. -/
  | bnv (e : EngineId) (f : BrForm)
  /-- BGT (R146): Branches when Z is 0 and N equals V. -/
  | bgt (e : EngineId) (f : BrForm)
  /-- BLE (R146): Branches when Z is 1 or N differs from V. -/
  | ble (e : EngineId) (f : BrForm)
  /-- BGE (R146): Branches when N equals V. -/
  | bge (e : EngineId) (f : BrForm)
  /-- BLT (R146): Branches when N differs from V. -/
  | blt (e : EngineId) (f : BrForm)
  /-- BHI (R146): Branches when C is 1 and Z is 0. -/
  | bhi (e : EngineId) (f : BrForm)
  /-- BLS (R146): Branches when C is 0 or Z is 1. -/
  | bls (e : EngineId) (f : BrForm)
  /-- BXNZ (R146): Decrements X and branches when the result is not zero. -/
  | bxnz (e : EngineId) (f : BrForm)
  /-- CALL (R147): Pushes a CODE return address past the delay slot and branches. -/
  | call (e : EngineId) (f : BrForm)
  /-- CALLA (R150): Pushes a CODE return address and branches to the ADDR at T. -/
  | calla (e : EngineId)
  /-- RET (R153): Pops a CODE word from the return stack and branches to it. -/
  | ret (e : EngineId)
  /-- TRAP (R167): Raises F_TRAP carrying the 16-bit code. -/
  | trap (e : EngineId) (code : BitVec 16)
  /-- FRET (R177): Checks and pops the handler frame, restores the flags and resumes at PC or NPC. -/
  | fret (e : EngineId)
  /-- SEAL (R178): Seals the running handler and starts the seal counter. -/
  | seal (e : EngineId)
  /-- UNSEAL (R180): Ends the seal. -/
  | unseal (e : EngineId)
  /-- HALT (R166): Drains the store buffer and stops the engine. -/
  | halt (e : EngineId)
  /-- MXRD (R138): Makes a privileged control-matrix read and pushes the data as INT. -/
  | mxrd (e : EngineId)
  /-- MXWR (R138): Makes a privileged control-matrix write. -/
  | mxwr (e : EngineId)
  /-- MXLOCK (R593): Begins a locked sequence on a matrix target. -/
  | mxlock (e : EngineId)
  /-- MXUNLK (R593): Ends a locked sequence on a matrix target. -/
  | mxunlk (e : EngineId)
  /-- KREF (R424): Pushes a KEYREF for a key-store slot. -/
  | kref (e : EngineId) (slot : BitVec 16)
  /-- KZERO (R139): Zeroises a key and advances the generation of its slot. -/
  | kzero (e : EngineId)
  /-- KBIND (R139): Binds a key to a cipher context. -/
  | kbind (e : EngineId)
  /-- INSTRUCTION_PAIR (R107): Executes two short operations in one word, applying A's writes and then B's. -/
  | instructionPair (e : EngineId) (a : ShortOp) (b : ShortOp)
  /-- NOP (R113): Does nothing for 2 cycles. -/
  | nop (e : EngineId)
  /-- DUP (R113): Copies T. -/
  | dup (e : EngineId)
  /-- DROP (R113): Discards T. -/
  | drop (e : EngineId)
  /-- SWAP (R113): Exchanges T and S1. -/
  | swap (e : EngineId)
  /-- OVER (R113): Pushes a copy of S1. -/
  | over (e : EngineId)
  /-- ROT (R113): Rotates the top three entries. -/
  | rot (e : EngineId)
  /-- NIP (R113): Discards S1. -/
  | nip (e : EngineId)
  /-- PICK (R113): Pushes a copy of the entry n below T. -/
  | pick (e : EngineId) (n : BitVec 4)
  /-- SLIT (R113): Pushes a 9-bit immediate as INT. -/
  | slit (e : EngineId) (imm : BitVec 9)
  /-- SADDI (R111): Adds a 9-bit immediate to T. -/
  | saddi (e : EngineId) (imm : BitVec 9)
  /-- ADD (R111): Replaces S1 and T with S1 + T and sets the add flags. -/
  | add (e : EngineId)
  /-- ADC (R111): Replaces S1 and T with S1 + T + C. -/
  | adc (e : EngineId)
  /-- SUB (R111): Replaces S1 and T with S1 − T and sets the subtract flags. -/
  | sub (e : EngineId)
  /-- SBC (R111): Replaces S1 and T with S1 + NOT T + C. -/
  | sbc (e : EngineId)
  /-- AND (R111): Replaces S1 and T with their bitwise AND. -/
  | and (e : EngineId)
  /-- OR (R111): Replaces S1 and T with their bitwise OR. -/
  | or (e : EngineId)
  /-- XOR (R111): Replaces S1 and T with their bitwise XOR. -/
  | xor (e : EngineId)
  /-- NOT (R111): Complements T. -/
  | not (e : EngineId)
  /-- NEG (R111): Replaces T with 0 − T. -/
  | neg (e : EngineId)
  /-- CMP (R111): Sets the flags from S1 − T. -/
  | cmp (e : EngineId)
  /-- TST (R111): Sets the flags from T. -/
  | tst (e : EngineId)
  /-- CLZ (R113): Replaces T with its count of leading zero bits, as INT. -/
  | clz (e : EngineId)
  /-- POPC (R113): Replaces T with its count of one bits, as INT. -/
  | popc (e : EngineId)
  /-- SHL (R116): Shifts T left by an immediate count. -/
  | shl (e : EngineId) (count : BitVec 6)
  /-- SHR (R116): Shifts T right logically, filling with zeros. -/
  | shr (e : EngineId) (count : BitVec 6)
  /-- SAR (R116): Shifts T right arithmetically, filling with copies of bit 63. -/
  | sar (e : EngineId) (count : BitVec 6)
  /-- ROL (R111): Rotates T left. -/
  | rol (e : EngineId) (count : BitVec 6)
  /-- TOX (R89): Pops T into X. -/
  | tox (e : EngineId)
  /-- TOY (R89): Pops T into Y. -/
  | toy (e : EngineId)
  /-- FROMX (R113): Pushes X as INT. -/
  | fromx (e : EngineId)
  /-- FROMY (R113): Pushes Y as INT. -/
  | fromy (e : EngineId)
  /-- XADD (R113): Adds a 9-bit immediate to X. -/
  | xadd (e : EngineId) (imm : BitVec 9)
  /-- YADD (R113): Adds a 9-bit immediate to Y. -/
  | yadd (e : EngineId) (imm : BitVec 9)
  /-- XCMP (R111): Sets the flags from X − IMM. -/
  | xcmp (e : EngineId) (imm : BitVec 9)
  /-- YCMP (R111): Sets the flags from Y − IMM. -/
  | ycmp (e : EngineId) (imm : BitVec 9)
  /-- AADD (R94): Adds T bytes to the offset of an ADDR, under the range rule. -/
  | aadd (e : EngineId)
  /-- AOFF (R113): Replaces an ADDR with its OFFSET as INT. -/
  | aoff (e : EngineId)
  /-- ASEG (R113): Replaces an ADDR with its SEG as INT. -/
  | aseg (e : EngineId)
  /-- ADIFF (R115): Replaces two ADDR words of one segment with the difference of their offsets. -/
  | adiff (e : EngineId)
  /-- TOINT (R114): Retags T as INT. -/
  | toint (e : EngineId)
  /-- TORAW (R114): Retags T as RAW. -/
  | toraw (e : EngineId)
  /-- TOFLT (R114): Retags T as FLT. -/
  | toflt (e : EngineId)
  /-- TAGOF (R113): Pushes the tag of T as INT. -/
  | tagof (e : EngineId)
  /-- DSET (R121): Sets up a step division of S1 by T. -/
  | dset (e : EngineId)
  /-- DSTEP (R122): Performs one step of the division. -/
  | dstep (e : EngineId)
  /-- ASYNC_FAULT_ENTRY (R170): Takes a pending F_VECTOR, F_REFLECT or F_SEAL_OVERRUN at the next instruction boundary. -/
  | asyncFaultEntry (e : EngineId)
  /-- SEAL_OVERRUN (R180): When the seal counter reaches its limit, clears SEALED and raises F_SEAL_OVERRUN. -/
  | sealOverrun (e : EngineId)
  /-- ENGINE_HALT (R170): Halts the engine at the boundary where a pending HALT_REQ is taken. -/
  | engineHalt (e : EngineId)
  /-- STORE_BUFFER_DRAIN (R163): Drains one store-buffer entry when the port and the bank are free. -/
  | storeBufferDrain (e : EngineId)
  /-- DESCRIPTOR_INVALIDATE (R162): Invalidates cached descriptors at the next instruction boundary and clears TX_DINV.GO. -/
  | descriptorInvalidate (t : Nat)
  /-- VADD (R212): Vector add. -/
  | vadd (e : EngineId) (id : BitVec 4) (md : BitVec 12)
  /-- VSUB (R212): Vector subtract. -/
  | vsub (e : EngineId) (id : BitVec 4) (md : BitVec 12)
  /-- VMUL (R212): Vector multiply. -/
  | vmul (e : EngineId) (id : BitVec 4) (md : BitVec 12)
  /-- VFMA (R212): Vector fused multiply-add, a × b + c, with one rounding. -/
  | vfma (e : EngineId) (id : BitVec 4) (md : BitVec 12)
  /-- VFMS (R212): Vector fused a × b − c. -/
  | vfms (e : EngineId) (id : BitVec 4) (md : BitVec 12)
  /-- VFNMA (R212): Vector fused −(a × b) + c. -/
  | vfnma (e : EngineId) (id : BitVec 4) (md : BitVec 12)
  /-- VFNMS (R212): Vector fused −(a × b) − c. -/
  | vfnms (e : EngineId) (id : BitVec 4) (md : BitVec 12)
  /-- VMIN (R226): Vector minimum. -/
  | vmin (e : EngineId) (id : BitVec 4) (md : BitVec 12)
  /-- VMAX (R226): Vector maximum. -/
  | vmax (e : EngineId) (id : BitVec 4) (md : BitVec 12)
  /-- VABS (R226): Vector absolute value. -/
  | vabs (e : EngineId) (id : BitVec 4) (md : BitVec 12)
  /-- VNEG (R226): Vector negation. -/
  | vneg (e : EngineId) (id : BitVec 4) (md : BitVec 12)
  /-- VCMP (R230): Vector compare under SUB into a MASK stream. -/
  | vcmp (e : EngineId) (id : BitVec 4) (md : BitVec 12)
  /-- VCVT (R231): Vector conversion to the destination's type. -/
  | vcvt (e : EngineId) (id : BitVec 4) (md : BitVec 12)
  /-- VRCPE (R232): Vector reciprocal estimate. -/
  | vrcpe (e : EngineId) (id : BitVec 4) (md : BitVec 12)
  /-- VRSQE (R232): Vector reciprocal square-root estimate. -/
  | vrsqe (e : EngineId) (id : BitVec 4) (md : BitVec 12)
  /-- VRCPS (R233): Vector reciprocal Newton step, 2 − a × b. -/
  | vrcps (e : EngineId) (id : BitVec 4) (md : BitVec 12)
  /-- VRSQS (R233): Vector reciprocal square-root Newton step, (3 − a × b) / 2. -/
  | vrsqs (e : EngineId) (id : BitVec 4) (md : BitVec 12)
  /-- VAND (R216): Vector bitwise AND. -/
  | vand (e : EngineId) (id : BitVec 4) (md : BitVec 12)
  /-- VOR (R216): Vector bitwise OR. -/
  | vor (e : EngineId) (id : BitVec 4) (md : BitVec 12)
  /-- VXOR (R216): Vector bitwise XOR. -/
  | vxor (e : EngineId) (id : BitVec 4) (md : BitVec 12)
  /-- VNOT (R216): Vector bitwise NOT. -/
  | vnot (e : EngineId) (id : BitVec 4) (md : BitVec 12)
  /-- VSHL (R215): Vector shift left. -/
  | vshl (e : EngineId) (id : BitVec 4) (md : BitVec 12)
  /-- VSHR (R215): Vector logical shift right. -/
  | vshr (e : EngineId) (id : BitVec 4) (md : BitVec 12)
  /-- VSAR (R215): Vector arithmetic shift right. -/
  | vsar (e : EngineId) (id : BitVec 4) (md : BitVec 12)
  /-- VSEL (R212): Vector select, m ? a : b. -/
  | vsel (e : EngineId) (id : BitVec 4) (md : BitVec 12)
  /-- VCOPY (R239): Vector copy with the source tags kept. -/
  | vcopy (e : EngineId) (id : BitVec 4) (md : BitVec 12)
  /-- VGATHER (R217): Gathers table elements by index. -/
  | vgather (e : EngineId) (id : BitVec 4) (md : BitVec 12)
  /-- VSCATTER (R218): Scatters elements by index. -/
  | vscatter (e : EngineId) (id : BitVec 4) (md : BitVec 12)
  /-- VCOMPRESS (R219): Packs the selected elements and writes their count. -/
  | vcompress (e : EngineId) (id : BitVec 4) (md : BitVec 12)
  /-- VEXPAND (R219): Expands elements under a mask. -/
  | vexpand (e : EngineId) (id : BitVec 4) (md : BitVec 12)
  /-- VSCAN (R220): Prefix scan under SUB. -/
  | vscan (e : EngineId) (id : BitVec 4) (md : BitVec 12)
  /-- VRED (R221): Tree reduction into d[0]. -/
  | vred (e : EngineId) (id : BitVec 4) (md : BitVec 12)
  /-- VSEGRED (R221): Segmented reduction, one result per segment, with the segment count. -/
  | vsegred (e : EngineId) (id : BitVec 4) (md : BitVec 12)
  /-- VPERMB (R216): Byte permute of each element. -/
  | vpermb (e : EngineId) (id : BitVec 4) (md : BitVec 12)
  /-- VPERME (R212): Element permute within 16-element groups. -/
  | vperme (e : EngineId) (id : BitVec 4) (md : BitVec 12)
  /-- VTRANS (R222): Transposes each 16 × 16 block. -/
  | vtrans (e : EngineId) (id : BitVec 4) (md : BitVec 12)
  /-- VLOAD (R223): Courier load from tile store, HBM or a remote device into the tile store. -/
  | vload (e : EngineId) (id : BitVec 4) (md : BitVec 12)
  /-- VSTORE (R224): Courier store of whole lines to HBM or a remote device. -/
  | vstore (e : EngineId) (id : BitVec 4) (md : BitVec 12)
  /-- VECTOR_START (R258): Starts an accepted instruction, in issue order, on a pipe or pipe set once one is free. -/
  | vectorStart (t : Nat)
  /-- STRIP_COMMIT (R237): A pipe or courier commits a strip; an instruction whose last strip commits completes. -/
  | stripCommit (t : Nat) (id : BitVec 4) (u : Upset)
  /-- THIRD_PASS (R386): Recomputes a disputed PAIR strip on a third pipe once that pipe is free. -/
  | thirdPass (t : Nat) (id : BitVec 4) (w : Word)
  /-- CHARGE_WINDOW_CLOSE (R390): Closes a pipe's charge window when STRIPS reaches 2^20. -/
  | chargeWindowClose (t : Nat) (pipe : Nat)
  /-- DEFERRED_CAUSE_ACT (R245): Acts on a held deferrable cause once the last in-place instruction ends, parking re-runnable units. -/
  | deferredCauseAct (t : Nat)
  /-- PIPE_WAKE_DONE (R254): A sleeping pipe finishes its 1,024-TCLK wake. -/
  | pipeWakeDone (t : Nat) (pipe : Nat)
  /-- PIPE_SLEEP (R255): A pipe whose idle count expires goes to sleep. -/
  | pipeSleep (t : Nat) (pipe : Nat)
  /-- ROUND_WINDOW0_START (R306): Starts window 0 of an accepted round once its pipes, couriers, fetches and alignment are ready. -/
  | roundWindow0Start (t : Nat) (ups : List (Nat × Nat × Upset))
  /-- ROUND_WINDOW_START (R307): Starts the next window of a round every period, or defers it until its tokens are set. -/
  | roundWindowStart (t : Nat) (ups : List (Nat × Nat × Upset))
  /-- POSTBOX_FETCH_DONE (R297): Sets the arrival token of a copy when every line of its fetch has been written. -/
  | postboxFetchDone (t : Nat) (token : BitVec 4)
  /-- ROUND_END (R308): Ends a round after its last window and write runs, setting DONE and raising its chute. -/
  | roundEnd (t : Nat)
  /-- POST_CYCLE_BOUNDARY (R270): Begins a new post cycle on all 1,024 pseudo-channels. -/
  | postCycleBoundary 
  /-- COUNTER_SLOT (R278): Grants a counter slot of a pseudo-channel to the next requester with a request pending. -/
  | counterSlot (pc : Nat) (pos : Nat)
  /-- ATOMIC_LINE_WRITE (R356): Writes an atomic's modified line in the next counter slot after its read. -/
  | atomicLineWrite (pc : Nat)
  /-- HBM_REFRESH (R322): Issues refresh in a refresh position. -/
  | hbmRefresh (pc : Nat) (pos : Nat)
  /-- HBM_SCRUB_POSITION (R347): Scrubs one line per used scrub position and advances the cursor. -/
  | hbmScrubPosition (stack : Nat) (pos : Nat)
  /-- HBM_CORRECTION_WRITEBACK (R339): Writes a corrected line back in the next maintenance position. -/
  | hbmCorrectionWriteback (pc : Nat)
  /-- HBM_POISON_REWRITE (R348): Rewrites an uncorrectable scrubbed line as a POISON line in the next maintenance position. -/
  | hbmPoisonRewrite (pc : Nat)
  /-- HBM_REPAIR_DONE (R351): Switches a copied repair unit's mapping at the post-cycle boundary after its last write. -/
  | hbmRepairDone (stack : Nat)
  /-- STACK_TEMP_READ (R319): Reads the stack temperature once every 1,024 post cycles. -/
  | stackTempRead (stack : Nat) (temp : BitVec 8)
  /-- TILE_SCRUB_ATTEMPT (R64): The tile patrol scrubber attempts one row every INTERVAL × 64 TCLK. -/
  | tileScrubAttempt (t : Nat)
  /-- TS_CORRECTION_WRITEBACK (R56): Writes corrected words back in the first TCLK in which no master addresses the bank. -/
  | tsCorrectionWriteback (t : Nat) (bank : Nat)
  /-- TILE_ROW_REPAIR (R69): Repairs a tile-store row at the tile's next data-face boundary. -/
  | tileRowRepair (t : Nat)
  /-- FILL_DONE (R53): A zero-INT fill of the tile store ends after 1,024 TCLK. -/
  | fillDone (t : Nat)
  /-- TS_FILL_GO (R54): A write of 1 to TS_FILL.GO starts a fill on a halted tile. -/
  | tsFillGo (m : Master) (t : Nat)
  /-- TS_REPAIR_GO (R69): A write of 1 to TS_REPAIR.GO requests a row repair. -/
  | tsRepairGo (m : Master) (t : Nat) (bank : BitVec 4) (row : BitVec 10)
  /-- TS_CLOG_CLEAR (R58): A write of 1 to TS_CLOG_HEAD.CLEAR clears the correction log. -/
  | tsClogClear (m : Master) (t : Nat)
  /-- TS_INJECT_ARM (R81): Arms tile-store error injection for the next write to the target word. -/
  | tsInjectArm (m : Master) (t : Nat) (bank : BitVec 4) (row : BitVec 10) (word : BitVec 5)
  /-- TS_UE_SEEN_CLEAR (R63): Clearing UE_SEEN also clears TS_UE_ADDR.VALID. -/
  | tsUeSeenClear (m : Master) (t : Nat)
  /-- TX_START (R191): A write of 1 to TX_CTRL.START starts or resumes the engine, or is refused. -/
  | txStart (m : Master) (t : Nat) (haltReq : Bool)
  /-- TX_HALT_REQ (R192): A write of 1 to TX_CTRL.HALT_REQ requests a halt at the next instruction boundary. -/
  | txHaltReq (m : Master) (t : Nat)
  /-- TX_DINV_GO (R162): A write of 1 to TX_DINV.GO requests a descriptor-cache invalidation. -/
  | txDinvGo (m : Master) (t : Nat) (all : Bool) (seg : BitVec 12)
  /-- TV_ABORTED_CLEAR (R267): Clearing TV_STATUS.ABORTED also clears the abort record's VALID. -/
  | tvAbortedClear (m : Master) (t : Nat)
  /-- TR_SHEETS_FREE (R318): A write of 1 to a FREE bit frees a sheet slot and advances its generation. -/
  | trSheetsFree (m : Master) (t : Nat) (free : BitVec 8)
  /-- TF_CTRL_WRITE (R396): Sets FLOOR and CAP, which take effect at the next hand-over point. -/
  | tfCtrlWrite (m : Master) (t : Nat) (data : BitVec 32)
  /-- TF_LOG_CLEAR (R400): A write of 1 to TF_LOG_HEAD.CLEAR clears the tile event log. -/
  | tfLogClear (m : Master) (t : Nat)
  /-- HC_REPAIR_GO (R351): A write of 1 to HC_REPAIR.GO requests an HBM unit repair. -/
  | hcRepairGo (m : Master) (stack : Nat) (pc : BitVec 6) (unit : BitVec 20)
  /-- HC_CLOG_CLEAR (R341): A write of 1 to HC_CLOG_HEAD.CLEAR clears the HBM correction log. -/
  | hcClogClear (m : Master) (stack : Nat)
  /-- HC_INJECT_ARM (R360): Arms HBM symbol injection for the next write to the target line. -/
  | hcInjectArm (m : Master) (stack : Nat) (pc : BitVec 6) (line : BitVec 24)
  /-- HC_UE_SEEN_CLEAR (R345): Clearing HC_STATUS.UE_SEEN also clears HC_UE_A.VALID. -/
  | hcUeSeenClear (m : Master) (stack : Nat)
  /-- MB_LETTERBOX (R461): A write to the letterbox posts one envelope, or is dropped or rejected. -/
  | mbLetterbox (f : Fn) (bag : Nat) (data : BitVec 32)
  /-- MB_CFG_WRITE (R468): Enables a mailbag, resetting its counts, or disables it. -/
  | mbCfgWrite (f : Fn) (bag : Nat) (data : BitVec 32)
  /-- MB_TRAY_HEAD_WRITE (R469): Software records the receipts it has consumed. -/
  | mbTrayHeadWrite (f : Fn) (bag : Nat) (data : BitVec 32)
  /-- PAIR_LO_READ (R587): A read of the LO half of a hardware-updated pair captures the HI half. -/
  | pairLoRead (m : Master) (addr : BitVec 32)
  /-- ATOMIC_FETCH_ADD (R537): TA_CMD.GO with SUB fetch-add sends an atomic fetch-add. -/
  | atomicFetchAdd (m : Master) (t : Nat) (data : BitVec 32)
  /-- ATOMIC_COMPARE_SWAP (R537): TA_CMD.GO with SUB compare-swap sends an atomic compare-swap. -/
  | atomicCompareSwap (m : Master) (t : Nat) (data : BitVec 32)
  /-- ATOMIC_SWAP (R537): TA_CMD.GO with SUB swap sends an atomic swap. -/
  | atomicSwap (m : Master) (t : Nat) (data : BitVec 32)
  /-- FP_RETRAIN (R510): A write of 1 to FP_CTRL.RETRAIN retrains the dropped lanes of a port. -/
  | fpRetrain (m : Master) (port : Nat)
  /-- FX_WAKE_GO (R542): A write of 1 to FX_WAKE.GO sends a WAKE letter to a device. -/
  | fxWakeGo (m : Master) (device : BitVec 14)
  /-- CH_OWNER_WRITE (R558): Changes a chute's owner, resetting its configuration and clearing PENDING. -/
  | chOwnerWrite (m : Master) (c : Nat) (data : BitVec 32)
  /-- CH_SIGNAL (R553): A write of 1 to CH_STATE.SIGNAL raises one event of a chute. -/
  | chSignal (m : Master) (c : Nat)
  /-- CH_PENDING_CLEAR (R553): A write of 1 to PENDING clears a chute's pending event. -/
  | chPendingClear (m : Master) (c : Nat)
  /-- CH_CFG_WRITE (R574): Writes a chute's configuration; a mask is in force for selection three MCLK later. -/
  | chCfgWrite (m : Master) (c : Nat) (data : BitVec 32)
  /-- IC_FILTER_WRITE (R563): A write to LENGTH restarts the filter count. -/
  | icFilterWrite (m : Master) (input : Nat) (data : BitVec 32)
  /-- VC_COAL_WRITE (R582): Sets a vector's coalescing COUNT and TIME for its next decision. -/
  | vcCoalWrite (f : Fn) (v : Nat) (data : BitVec 32)
  /-- MSIX_VECTOR_UNMASK (R572): Unmasking a vector whose Pending Bit is set sends one message. -/
  | msixVectorUnmask (f : Fn) (v : Nat)
  /-- FC_COMMIT_GO (R641): Burns the SVN fuses up to TARGET. -/
  | fcCommitGo (m : Master) (target : BitVec 7)
  /-- FLASH_READ (R642): FL_CMD.GO with OP read reads pages from a flash device. -/
  | flashRead (m : Master) (dev : Bool) (count : BitVec 16)
  /-- FLASH_PROGRAM (R642): FL_CMD.GO with OP program programs pages of a flash device. -/
  | flashProgram (m : Master) (dev : Bool) (count : BitVec 16)
  /-- FLASH_ERASE (R642): FL_CMD.GO with OP erase erases 64 KiB sectors. -/
  | flashErase (m : Master) (dev : Bool) (count : BitVec 16)
  /-- PM_FENCE_GO (R660): A write of 1 to PM_PAIR.FENCE_GO engages the fence. -/
  | pmFenceGo (m : Master)
  /-- CM_TIMEOUT_CLEAR (R601): Clearing CM_STATUS.TIMEOUT also clears CM_TOUT_INFO.VALID. -/
  | cmTimeoutClear (m : Master)
  /-- REGISTER_WRITE (R603): A write to any other register field, with the reserved-value and field-kind rules. -/
  | registerWrite (m : Master) (addr : BitVec 32) (data : BitVec 32)
  /-- SY_RESET_REQ_TILE (R628): SY_RESET_REQ.GO with KIND tile resets one tile. -/
  | syResetReqTile (m : Master) (t : BitVec 7)
  /-- SY_RESET_REQ_POSTMASTER (R628): SY_RESET_REQ.GO with KIND postmaster resets the other postmaster. -/
  | syResetReqPostmaster (m : Master) (pm : Bool)
  /-- SY_RESET_REQ_WARM (R629): SY_RESET_REQ.GO with KIND warm takes a warm device reset. -/
  | syResetReqWarm (m : Master)
  /-- SY_RESET_REQ_COLD (R628): SY_RESET_REQ.GO with KIND cold takes a cold reset. -/
  | syResetReqCold (m : Master)
  /-- RESET_CAP_WARM (R629): A write of 1 to WARM in the reset capability takes a warm device reset. -/
  | resetCapWarm (f : Fn)
  /-- RESET_CAP_COLD (R639): A write of 1 to COLD in the reset capability takes a cold reset. -/
  | resetCapCold (f : Fn) (warm : Bool)
  /-- MATRIX_HANG_TIMEOUT (R601): A master's hang timer reaches its limit and the request is abandoned. -/
  | matrixHangTimeout (m : Master)
  /-- LOCK_AGE_LIMIT (R594): A lock whose AGE reaches 256 MCLK is broken. -/
  | lockAgeLimit (target : BitVec 8)
  /-- ENVELOPE_FETCH (R470): The postmaster fetches a queued envelope from the selected mailbag or ESEND queue. -/
  | envelopeFetch 
  /-- SEQUENCE_WAIT_MET (R475): A held envelope's sequence wait is met, and it proceeds toward execution. -/
  | sequenceWaitMet (p : Place)
  /-- DELIVER_AT_REACHED (R478): The postmark reaches DELIVER_AT and the held envelope becomes ready. -/
  | deliverAtReached (p : Place)
  /-- UNSOLICITED_RECEIPT_FLUSH (R501): Writes waiting unsolicited receipts and S_EVT_LOST once tray space appears. -/
  | unsolicitedReceiptFlush (f : Fn)
  /-- ESEND_RECEIPT_ARRIVAL (R481): Writes an ESEND receipt into the tile's receipt slot, or into its saved context, and raises the tile chute. -/
  | esendReceiptArrival (n : Nat) (idx : Nat)
  /-- JOURNAL_COMMIT (R654): Commits a journal record once it is written in both private stores and in HBM. -/
  | journalCommit 
  /-- ENVELOPE_NOP (R491): Envelope NOP; does nothing. -/
  | envelopeNop (p : Place)
  /-- FPFLAGS_READ (R499): Returns the tenant's floating-point flag word and optionally clears it. -/
  | fpflagsRead (p : Place)
  /-- MB_CANCEL (R476): Cancels the held envelope of another mailbag or of an ESEND queue. -/
  | mbCancel (p : Place)
  /-- BUF_ALLOC (R486): Allocates and zeroes a payload buffer. -/
  | bufAlloc (p : Place)
  /-- BUF_RETURN (R487): Returns a payload buffer, after its checks. -/
  | bufReturn (p : Place)
  /-- BUF_WRITE (R491): Copies the payload into a buffer. -/
  | bufWrite (p : Place)
  /-- DMA_IN (R492): Moves host memory into a segment or buffer. -/
  | dmaIn (p : Place)
  /-- DMA_OUT (R492): Moves a segment or buffer into host memory. -/
  | dmaOut (p : Place)
  /-- SEG_ALLOC (R493): Allocates a segment from a descriptor, with an optional fill. -/
  | segAlloc (p : Place)
  /-- SEG_FREE (R494): Frees a segment and invalidates its descriptor on every tile of the tenant. -/
  | segFree (p : Place)
  /-- TILE_WRITE (R495): Writes words into the tile stores of halted tiles. -/
  | tileWrite (p : Place)
  /-- TILE_READ (R491): Copies tile-store words of a halted tile into a buffer. -/
  | tileRead (p : Place)
  /-- ROUND_LOAD (R496): Validates a sheet into a slot on each named tile. -/
  | roundLoad (p : Place)
  /-- ROUND_LAUNCH (R497): Launches a loaded round on each named tile. -/
  | roundLaunch (p : Place)
  /-- TILE_VECTOR (R498): Runs one vector instruction on each named halted tile. -/
  | tileVector (p : Place)
  /-- TILE_START (R491): Starts the engine on each named tile. -/
  | tileStart (p : Place)
  /-- TILE_STOP (R491): Raises a deferrable tile stop and waits until every named tile halts. -/
  | tileStop (p : Place)
  /-- REMOTE_SEND (R482): Delivers an inner envelope to a remote tenant's mailbag 63. -/
  | remoteSend (p : Place)
  /-- TENANT_CONTRACT (R443): Checks and installs a tenant contract. -/
  | tenantContract (p : Place)
  /-- TENANT_RESET (R448): Runs the tenant reset sequence at the PF's request. -/
  | tenantReset (p : Place)
  /-- PLAN_LOAD (R717): Checks a post-cycle plan and switches it in at a boundary. -/
  | planLoad (p : Place)
  /-- BOOK_LOAD (R522): Loads an address book locally, or sends it to its target device. -/
  | bookLoad (p : Place)
  /-- KEY_ROTATE (R429): Starts rotating one KEYIDX of a tenant to the next generation. -/
  | keyRotate (p : Place)
  /-- KEY_ROTATION_DONE (R429): When every cursor has passed the last stripe, destroys the old key pair and writes the receipt. -/
  | keyRotationDone 
  /-- FW_UPDATE (R441): Writes the inactive firmware image. -/
  | fwUpdate (p : Place)
  /-- FW_COMMIT (R440): Raises the fused SVN to that of the running image. -/
  | fwCommit (p : Place)
  /-- FW_HANDOVER (R669): Hands the primary role to the standby running the new firmware image. -/
  | fwHandover (p : Place)
  /-- MAINT_TS_REPAIR (R662): MAINT activity requesting a tile-store row repair. -/
  | maintTsRepair (p : Place)
  /-- MAINT_HBM_REPAIR (R662): MAINT activity requesting an HBM unit repair. -/
  | maintHbmRepair (p : Place)
  /-- MAINT_TILE_SUBSTITUTE (R662): MAINT activity requesting substitution of a logical tile. -/
  | maintTileSubstitute (p : Place)
  /-- MAINT_LANE_RETRAIN (R662): MAINT activity retraining the lanes of a port. -/
  | maintLaneRetrain (p : Place)
  /-- MAINT_TS_SCRUB (R662): MAINT activity setting tile-store scrub. -/
  | maintTsScrub (p : Place)
  /-- MAINT_HBM_SCRUB (R662): MAINT activity setting the HBM scrub rate. -/
  | maintHbmScrub (p : Place)
  /-- MAINT_FABRIC_RECORD (R662): MAINT activity writing the fabric record in flash. -/
  | maintFabricRecord (p : Place)
  /-- MAINT_DUMP_NOW (R662): MAINT activity forcing a fatal dump and the fence. -/
  | maintDumpNow (p : Place)
  /-- MAINT_DUMP_CLEAR (R677): MAINT activity clearing both dumps' COMPLETE words. -/
  | maintDumpClear (p : Place)
  /-- DUMP_READ (R677): Copies the fatal dump into host memory. -/
  | dumpRead (p : Place)
  /-- DEVICE_SLEEP (R619): Latches a DOZE request and runs DOZE entry. -/
  | deviceSleep (p : Place)
  /-- DOZE_ENTRY_COMPLETE (R624): Entry reaches step D7 and the device is in DOZE. -/
  | dozeEntryComplete 
  /-- WAKE_CAUSE_LATCH (R623): An enabled wake cause is latched, aborting entry or ending DOZE. -/
  | wakeCauseLatch (c : BitVec 3)
  /-- DOZE_EXIT (R626): Leaves DOZE, restores state and writes the DEVICE_SLEEP receipt. -/
  | dozeExit 
  /-- WAKE_TIMER (R621): SY_WAKE_TIMER expires, giving wake cause W_TIMER. -/
  | wakeTimer 
  /-- SLICE_BOUNDARY (R408): Grants pool tiles to shared tenants by credit at each slice boundary. -/
  | sliceBoundary 
  /-- TILE_SWITCH (R409): Once units have parked and the engine has halted, saves a shared tenant's tile context. -/
  | tileSwitch (t : Nat)
  /-- TILE_ASSIGN (R412): Fills a tile, restores a tenant's context, raises its chute and starts the engine. -/
  | tileAssign (t : Nat)
  /-- TILE_SUBSTITUTION (R648): Moves a logical tile and its context to the die's spare tile. -/
  | tileSubstitution (t : Nat)
  /-- VF_ENABLE (R404): Enabling a VF puts its tenant in RESIDENT with the default contract. -/
  | vfEnable (n : Nat)
  /-- VF_DISABLE (R405): Disabling a VF resets its tenant and discards the contract. -/
  | vfDisable (n : Nat)
  /-- VF_FLR (R448): A Function Level Reset of a VF starts its tenant reset. -/
  | vfFlr (n : Nat)
  /-- TENANT_KEY_ERASE (R448): Once granted requests have completed, zeroises the tenant's keys and returns its segments to the pool. -/
  | tenantKeyErase (n : Nat)
  /-- POOL_REWRITE_DONE (R336): Freed stripes finish their unwritten-state rewrite and become allocatable. -/
  | poolRewriteDone 
  /-- PF_FLR (R630): A PF Function Level Reset resets every tenant, clears VF Enable and ends the PF sessions. -/
  | pfFlr 
  /-- DEVICE_RING_WINDOW (R610): A PCIe access to a device-ring window reads or writes an HBM ring. -/
  | deviceRingWindow (f : Fn) (off : BitVec 32) (wr : Option (List Word))
  /-- TDI_NON_TEE_REQUEST (R421): A request to the BAR of a TDI in RUN without the TEE bit completes with Unsupported Request. -/
  | tdiNonTeeRequest (n : Nat) (off : BitVec 32) (wr : Option (List Word))
  /-- GET_VERSION (R417): SPDM GET_VERSION request. -/
  | getVersion (f : Fn)
  /-- GET_CAPABILITIES (R417): SPDM GET_CAPABILITIES request. -/
  | getCapabilities (f : Fn)
  /-- NEGOTIATE_ALGORITHMS (R417): SPDM NEGOTIATE_ALGORITHMS request. -/
  | negotiateAlgorithms (f : Fn) (offer : SpdmAlgs)
  /-- GET_DIGESTS (R417): SPDM GET_DIGESTS request. -/
  | getDigests (f : Fn)
  /-- GET_CERTIFICATE (R416): SPDM GET_CERTIFICATE request, for slot 0. -/
  | getCertificate (f : Fn) (slot : Nat) (off : Nat) (len : Nat)
  /-- CHALLENGE (R417): SPDM CHALLENGE request. -/
  | challenge (f : Fn) (slot : Nat)
  /-- GET_MEASUREMENTS (R419): Reports the measurement indices, sampled at one instant. -/
  | getMeasurements (f : Fn) (idx : Nat)
  /-- KEY_EXCHANGE (R418): SPDM key exchange, which binds or checks the tenant's requester key. -/
  | keyExchange (f : Fn) (key : BitVec 384) (secret : Nat)
  /-- FINISH (R436): Completes a session, installs its franking key and resets the counters. -/
  | finish (f : Fn) (ok : Bool)
  /-- HEARTBEAT (R417): SPDM session heartbeat. -/
  | heartbeat (f : Fn)
  /-- KEY_UPDATE (R431): Updates the session keys, leaving the franking key unchanged. -/
  | keyUpdate (f : Fn)
  /-- END_SESSION (R436): Ends a session and destroys its franking key once its receipts are written. -/
  | endSession (f : Fn)
  /-- CHUNK_SEND (R417): SPDM CHUNK_SEND request. -/
  | chunkSend (f : Fn) (last : Bool) (words : List Word)
  /-- CHUNK_GET (R417): SPDM CHUNK_GET request. -/
  | chunkGet (f : Fn) (seq : Nat)
  /-- SPDM_UNSUPPORTED_REQUEST (R417): Any other SPDM request receives ERROR UnsupportedRequest. -/
  | spdmUnsupportedRequest (f : Fn) (code : BitVec 8)
  /-- SPDM_HEARTBEAT_TIMEOUT (R436): A session lost by heartbeat timeout ends, and its franking key is destroyed. -/
  | spdmHeartbeatTimeout (f : Fn)
  /-- GET_TDISP_VERSION (R420): TDISP version request. -/
  | getTdispVersion (n : Nat)
  /-- GET_TDISP_CAPABILITIES (R420): TDISP capabilities request. -/
  | getTdispCapabilities (n : Nat)
  /-- LOCK_INTERFACE_REQUEST (R420): Locks a TDI's configuration. -/
  | lockInterfaceRequest (n : Nat) (stream : Nat)
  /-- GET_DEVICE_INTERFACE_REPORT (R420): Returns the TDI's interface report. -/
  | getDeviceInterfaceReport (n : Nat)
  /-- GET_DEVICE_INTERFACE_STATE (R420): Returns the TDI's state. -/
  | getDeviceInterfaceState (n : Nat)
  /-- START_INTERFACE_REQUEST (R420): Moves a locked TDI to RUN. -/
  | startInterfaceRequest (n : Nat)
  /-- STOP_INTERFACE_REQUEST (R422): Stops a TDI, leaving ERROR. -/
  | stopInterfaceRequest (n : Nat)
  /-- QUERY (R420): IDE_KM QUERY. -/
  | query (stream : Nat)
  /-- KEY_PROG (R424): IDE_KM programming of an IDE key slot. -/
  | keyProg (stream : Nat) (sub : Nat) (kset : Bool) (key : Nat)
  /-- K_SET_GO (R420): IDE_KM activation of a key set. -/
  | kSetGo (stream : Nat) (sub : Nat) (kset : Bool)
  /-- K_SET_STOP (R424): IDE_KM stop of a key set, destroying its keys. -/
  | kSetStop (stream : Nat) (sub : Nat) (kset : Bool)
  /-- FRAME_RECEIVE (R507): Receives a fabric frame, accepting it in FSEQ order or setting NAK for a resend. -/
  | frameReceive (port : Nat) (fr : Frame)
  /-- FSEQ_RETRY_LIMIT (R508): After 16 failures of one FSEQ the port goes DOWN and its letters are dropped. -/
  | fseqRetryLimit (port : Nat)
  /-- LANE_DROP (R510): Drops a lane that loses lock or exceeds the corrected-symbol count. -/
  | laneDrop (port : Nat) (lane : Nat)
  /-- LANE_RETRAIN_DONE (R510): A retrained lane rejoins its port at a frame boundary. -/
  | laneRetrainDone (port : Nat)
  /-- REKEY_START (R506): At 2^31 batches, or at the key timer, starts a link new-key exchange. -/
  | rekeyStart (port : Nat)
  /-- LINK_TRAINED (R548): A link finishes training and begins keying. -/
  | linkTrained (port : Nat) (lanes : BitVec 8)
  /-- TRAINING_RETRY (R549): A port retries training when its back-off expires. -/
  | trainingRetry (port : Nat)
  /-- TRANSIT_LETTER (R527): Forwards an arriving letter on PORTS[HOP], or answers or drops it. -/
  | transitLetter (port : Nat) (l : Letter)
  /-- READ (R531): A READ request letter arriving at its destination. -/
  | read (port : Nat) (l : Letter)
  /-- READ_REPLY (R530): A READ_REPLY arriving at the requester, placed by its LINE field. -/
  | readReply (port : Nat) (l : Letter)
  /-- WRITE (R531): A WRITE request letter arriving at its destination. -/
  | write (port : Nat) (l : Letter)
  /-- WRITE_ACK (R532): A WRITE_ACK arriving at the requester. -/
  | writeAck (port : Nat) (l : Letter)
  /-- ATOMIC (R531): An ATOMIC request letter arriving at its destination. -/
  | atomic (port : Nat) (l : Letter)
  /-- ATOMIC_REPLY (R537): An ATOMIC_REPLY arriving, which completes the tile's atomic port. -/
  | atomicReply (port : Nat) (l : Letter)
  /-- ENVELOPE (R534): A remote envelope letter, appended to mailbag 63. -/
  | envelope (port : Nat) (l : Letter)
  /-- ENVELOPE_ACK (R484): An ENVELOPE_ACK arriving, which completes REMOTE_SEND. -/
  | envelopeAck (port : Nat) (l : Letter)
  /-- HELLO (R517): A LINK HELLO letter, carrying the peer's identity and flags. -/
  | hello (port : Nat) (l : Letter)
  /-- KEYSHARE (R437): A LINK KEYSHARE letter, carrying an ECDH point. -/
  | keyshare (port : Nat) (l : Letter)
  /-- CERT (R437): A LINK CERT letter, carrying the certificate chain. -/
  | cert (port : Nat) (l : Letter)
  /-- SIGN (R437): A LINK SIGN letter, carrying the transcript signature; keys are installed. -/
  | sign (port : Nat) (l : Letter)
  /-- RATE (R539): A LINK RATE letter announcing a lane-count change. -/
  | rate (port : Nat) (l : Letter)
  /-- TIME (R544): A TIME letter; the device adjusts fabric time toward its parent. -/
  | time (port : Nat) (l : Letter)
  /-- TIME_SEND (R543): Every UP port sends a TIME letter each millisecond. -/
  | timeSend 
  /-- BOOK (R523): A BOOK letter carrying part of an address book. -/
  | book (port : Nat) (l : Letter)
  /-- BOOK_ACK (R522): A BOOK_ACK reporting a remote book swap or refusal. -/
  | bookAck (port : Nat) (l : Letter)
  /-- WAKE (R541): A WAKE letter addressed to the device. -/
  | wake (port : Nat) (l : Letter)
  /-- REQUEST_TIMEOUT (R533): A remote request with no reply ends with TIMEOUT. -/
  | requestTimeout (xtag : BitVec 16)
  /-- CHUTE_EVENT (R553): A producer event sets a chute's PENDING. -/
  | chuteEvent (c : Nat)
  /-- INTERRUPT_GRANT (R566): A target accepts a presentation at a boundary, and the interrupt is delivered and entered. -/
  | interruptGrant (e : EngineId) (phase : BitVec 2)
  /-- POOL_PRESENTATION_TIMEOUT (R570): A pool presentation not accepted within 64 MCLK moves to the next target. -/
  | poolPresentationTimeout (c : Nat)
  /-- MSIX_MESSAGE (R571): A vector whose coalescing conditions are met sends its MSI-X message. -/
  | msixMessage (f : Fn) (v : Nat)
  /-- INPUT_FILTER_CHANGE (R561): A filtered input changes level after LENGTH equal samples, an assertion being one event. -/
  | inputFilterChange (input : Nat) (level : Bool)
  /-- PM_HEARTBEAT (R655): Each postmaster sends a heartbeat every 10 µs. -/
  | pmHeartbeat 
  /-- PM_FAILURE (R655): A postmaster is found failed by missing heartbeats. -/
  | pmFailure (pm : Bool)
  /-- FATAL_ERROR (R674): A fatal trigger makes the primary write the fatal dump and then fence. -/
  | fatalError (code : BitVec 8) (detail : BitVec 16)
  /-- THERMAL_SAMPLE (R701): The steward's 1 ms sensor sample sets alarms and the throttle. -/
  | thermalSample (die : Nat) (temp : BitVec 8)
  /-- THERMAL_TRIP (R704): An analog trip comparator stops the device. -/
  | thermalTrip 
  /-- PWR_GOOD_RISE (R634): PWR_GOOD rises, starting a cold reset and boot. -/
  | pwrGoodRise 
  /-- PWR_GOOD_FALL (R688): PWR_GOOD falls and the device is held in reset. -/
  | pwrGoodFall 
  /-- PERST_N_ASSERT (R689): PERST_N is asserted, holding the device in cold reset. -/
  | perstNAssert 
  /-- PERST_N_DEASSERT (R689): PERST_N is deasserted, starting boot. -/
  | perstNDeassert 
  /-- PLL_LOSS_OF_LOCK (R614): The root PLL loses lock, and the device takes a cold reset. -/
  | pllLossOfLock 
  /-- PCIE_HOT_RESET (R631): A PCIe hot reset or link-down reset takes a cold reset. -/
  | pcieHotReset 
  /-- BOOT_READY (R635): Boot completes and READY asserts. -/
  | bootReady 
  /-- RESERVED_OPCODE_WORD (R103): An instruction word with a reserved major or minor opcode, or a VISSUE naming an unassigned VOP, is decoded and faults F_ILLEGAL. -/
  | reservedOpcodeWord (e : EngineId) (w : BitVec 32)
  /-- BLOCK_LOCK_LOSS (R505): A fabric receiver loses block lock on the frame stream and the port goes DOWN. -/
  | blockLockLoss (port : Nat)
  /-- TRAINING_ATTEMPT_FAILED (R549): A port's link-training attempt fails and the port starts its back-off before the next try. -/
  | trainingAttemptFailed (port : Nat)
  /-- BATCH_COUNT_LIMIT (R506): A port's batch count reaches 2^32 before its new-key exchange ends, and the port stops sending frames until the exchange ends. -/
  | batchCountLimit (port : Nat)
  /-- IDE_INTEGRITY_FAILURE (R422): An IDE integrity failure on a TDI's bound stream puts the TDI in ERROR and starts the tenant reset. -/
  | ideIntegrityFailure (n : Nat)
  /-- FLASH_OPERATION_DONE (R642): A flash read, program or erase started by FL_CMD.GO ends, clearing GO and BUSY or setting ERROR. -/
  | flashOperationDone (ok : Bool)
  /-- FUSE_COMMIT_DONE (R641): An SVN fuse burn started by FC_COMMIT.GO ends, clearing GO and updating SVN. -/
  | fuseCommitDone 
  /-- POSTMASTER_BOOT_DONE (R658): A reset postmaster finishes booting its image, copies the journal and becomes standby, as also in firmware hand-over steps 2 and 7. -/
  | postmasterBootDone (pm : Bool)
  /-- HOST_READ_COMPLETION (R470): A PCIe completion for a device read of host memory arrives, carrying envelope or DMA_IN data or a PCIe error. -/
  | hostReadCompletion (p : Place) (d : HostData)
  deriving DecidableEq, Repr

end Sys2Proof
end

