-- ==== Sys2Proof/Machine/State.lean ====
section
/-! DEFINITION. The state of the TN9 as plain data: everything the spec gives the package, the queue of waiting
commands, and the state after a cold reset with power applied and boot complete up to READY pending. -/
namespace Sys2Proof.Machine

open Sys2Proof

/-- Raised when a command names a unit that the device does not have. -/
inductive Fault where
  /-- Raised by every command whose tile, stack, pseudo-channel, port, chute, vector or tenant number lies outside
  the device (R3, R15, R16, R402, R502, R552). Safe: the spec says that such a unit does not exist. -/
  | noSuchUnit
  deriving DecidableEq, Repr

/-- Raised where a command has no meaning. -/
inductive Refusal where
  /-- Raised by an arm of exec whose row has no meaning yet. Safe: nothing is claimed of it. -/
  | notModelled (mnemonic : String)
  deriving DecidableEq, Repr

/-! ### Words of storage -/

/-- A stored tile-store word (R48): the word last written and the bits of the 76 stored bits that are inverted
against it, check bits in [75:68], tag in [67:64], data in [63:0]. -/
structure SWord where
  data : Word
  tag : Tag
  err : BitVec 76
  deriving DecidableEq, Repr, Inhabited

/-- A zero INT word (R52). -/
def SWord.zeroInt : SWord := ⟨0, 1, 0⟩
/-- The unwritten state of a tile-store word (R50): check bits [69:68] inverted. -/
def SWord.unwritten : SWord := ⟨0, 0, BitVec.ofNat 76 (3 * 2 ^ 68)⟩

/-- A stored HBM line (R330, R331): plaintext as written, tags, inverted bits of the 38 symbols, and the key it
was encrypted under (an abstract key number). -/
structure HLine where
  data : BitVec 512
  tags : BitVec 32
  err : BitVec 608
  key : Key
  deriving DecidableEq, Repr, Inhabited

/-- A line in the unwritten state (R332): symbols 34 and 35 inverted in every bit. -/
def HLine.unwritten : HLine := ⟨0, 0, BitVec.ofNat 608 ((2 ^ 32 - 1) * 2 ^ 544), .raw⟩

/-- The tile store of one tile: what every unlisted word holds (zero INT after a fill, otherwise the unwritten
state), and the listed words by word index (byte address / 8). -/
structure TileStore where
  filled : Bool
  cells : Tbl SWord
  deriving DecidableEq, Repr

/-! ### Segments, streams and vector units -/

/-- A segment descriptor (R156). -/
structure Desc where
  base : BitVec 48
  limit : BitVec 48
  keyidx : BitVec 8
  global : Bool
  homedie : BitVec 3
  space : BitVec 2
  shareRemote : Bool
  sheet : Bool
  x : Bool
  w : Bool
  r : Bool
  valid : Bool
  gen : BitVec 32
  /-- a reserved bit of its four words is set: it grants no access (R157) -/
  reserved : Bool
  deriving DecidableEq, Repr, Inhabited

/-- A descriptor never written: VALID 0 (R156). -/
def Desc.empty : Desc := ⟨0, 0, 0, false, 0, 0, false, false, false, false, false, false, 0, false⟩

/-- A stream-table entry (R195). -/
structure StreamEntry where
  valid : Bool
  gen : BitVec 32
  seg : BitVec 12
  offset : BitVec 48
  stride : BitVec 32
  remote : Bool
  device : BitVec 14
  deriving DecidableEq, Repr, Inhabited

def StreamEntry.empty : StreamEntry := ⟨false, 0, 0, 0, 0, false, 0⟩

/-- An operand stream as an accepted instruction captured it (R210). -/
structure CStream where
  seg : BitVec 12
  offset : Int
  stride : Int
  remote : Bool
  device : BitVec 14
  ety : BitVec 3
  length : Nat
  desc : Desc
  deriving DecidableEq, Repr

/-- A vector instruction between its VISSUE and its end (R262), with what it captured at issue. -/
structure VUnit where
  id : BitVec 4
  vop : BitVec 8
  rm : BitVec 3
  pred : Bool
  merge : Bool
  sub : BitVec 4
  mode : BitVec 2
  cls : BitVec 2
  vl : Nat
  ops : List CStream
  /-- the predicate stream, deepest operand (R212) -/
  pst : Option CStream
  started : Bool
  parked : Bool
  /-- the deferrable causes that parked it and have not ended (R245) -/
  holds : List Nat
  /-- master codes of the pipe set, pass 0 first; a courier's code for courier operations -/
  pipes : List Nat
  /-- courier port taken for HBM sources (R259) -/
  courier : Option Nat
  /-- next strip to commit -/
  strip : Nat
  /-- running value entering the next strip: VSCAN, VRED, VSEGRED (R379) -/
  carry : Word
  /-- output position entering the next strip: VCOMPRESS, VEXPAND, VSEGRED (R379) -/
  outPos : Nat
  /-- a PAIR strip awaiting its third pass: pass-0 and pass-1 upsets (R386) -/
  disputed : Option (Word × Word)
  /-- remote lines still to arrive or to be acknowledged (R262) -/
  remoteLeft : Nat
  /-- a remote refusal has come back (R225, R535) -/
  refused : Bool
  /-- lines of a remote source that have arrived, by line of the segment -/
  got : Tbl (BitVec 512 × BitVec 32)
  /-- the strip buffer: the words of a disputed strip, with their check bits (R371, R372), and lines that the next strip still uses -/
  buf : Tbl (Option SWord)
  /-- lines streamed into the staging window of each HBM source, by operand (R260), and those that came uncorrectable -/
  ahead : Tbl Nat
  failed : List Nat
  deriving DecidableEq, Repr

/-! ### Rounds -/

/-- A slot of a tile's sheet memory (R300, R303). -/
structure Sheet where
  loaded : Bool
  gen : BitVec 24
  entries : List (BitVec 128)
  deriving DecidableEq, Repr, Inhabited

def Sheet.empty : Sheet := ⟨false, 0, []⟩

/-- One element's inputs: sources in operand order, tag and poison of the data it moves, whether it is active, and a
bad index. -/
structure EIn where
  k : Nat
  active : Bool
  vals : List Nat
  tag : Tag
  poison : Bool
  idxBad : Bool
  deriving DecidableEq, Repr, Inhabited

/-- A destination element: index in d, value, tag and poison, and the flags and the IDX condition that it raised (R381). -/
structure EOut where
  k : Nat
  v : Nat
  tag : Tag
  poison : Bool
  fl : BitVec 5
  idx : Bool
  deriving DecidableEq, Repr, Inhabited

/-- What one pass of a strip produces (R381): elements, flags, IDX, running result, output position, count, and fallbacks. -/
structure SOut where
  outs : List EOut
  fl : BitVec 5
  idx : Bool
  carry : Nat
  pos : Nat
  cnt : Option Nat
  fb : Nat
  deriving DecidableEq, Repr, Inhabited

/-- What a comparison at a relay write found, and when the last shadow is written (R382): the odd pass and whether all that is odd was
inherited (R385); none when the passes have no majority. -/
structure Verdict where
  due : Int
  odd : Option (Nat × Bool)
  deriving DecidableEq, Repr

/-- A strip that a pipe of a round has begun (R288). Times are relative to the start of the current window. -/
structure RStrip where
  op : Nat
  iter : Nat
  strip : Nat
  start : Int
  /-- running result and output position that entered the strip (R379) -/
  carry : Word
  pos : Nat
  /-- rounding direction and effective mode captured for it (R379) -/
  rm : BitVec 3
  mode : BitVec 2
  /-- elements consumed so far, as passes 0, 1 and 2 take them (R373) -/
  els : List EIn
  els1 : List EIn
  els2 : List EIn
  /-- next element of a that VEXPAND takes -/
  next : Nat
  /-- rows written, and words read to be merged (R722) -/
  written : Nat
  merged : List (Nat × Nat × Option TWord)
  /-- the upsets that the strip meets -/
  up : Upset
  /-- elements compared at relay writes, and what the passes agreed on over them: from there every pass goes on (R384) -/
  base : Nat × SOut
  /-- fallbacks of passes 1 and 2 over those elements (R378) -/
  fbs : Nat
  /-- comparisons whose outcome is still to be acted on -/
  verdicts : List Verdict
  /-- elements that a pass inherited odd from a latch or shadow: pass, element (R385) -/
  inh : List (Nat × Nat)
  /-- passes found odd, with whether their pipe was charged (R391) -/
  odd : List (Nat × Bool)
  /-- words that its row writes have replaced, for the case that it fails (R313) -/
  undo : List (Nat × SWord)
  committed : Bool
  deriving DecidableEq, Repr

/-- The failure that aborts a round (R313): cause, VOP, pipe, OPIDX, STRIP. -/
structure RFail where
  cause : Nat
  vop : Nat
  pipe : Nat
  op : Nat
  strip : Nat
  deriving DecidableEq, Repr

/-- A copy of a latch element that an odd pass wrote, and the agreed value that replaces it (R384): when, pass, latch element, value. -/
structure LatchFix where
  due : Int
  pass : Nat
  key : Nat
  val : Word
  deriving DecidableEq, Repr

/-- What the replay of a round keeps between windows: strips in flight, rows on their way to the row registers (R287), rows granted, and
courier rows read ahead of their slot or still to land (R292). -/
structure Replay where
  strips : List RStrip
  coming : List (Int × Nat × List (Option TWord))
  /-- accesses made for (master, port, stream, iteration) -/
  granted : List ((Nat × Nat × Nat × Nat) × Nat)
  /-- rows read for the write run of (window, entry), by row -/
  ahead : List ((Nat × Nat × Nat) × List (Option TWord))
  /-- words of read runs still to be written: time, word index -/
  land : List (Int × Nat × TWord)
  /-- running result and output position of each operation, key 64 * iteration + OPIDX -/
  carries : Tbl (Word × Nat)
  /-- copies of latch elements about to be replaced -/
  fixes : List LatchFix
  /-- the window at which the round last started or resumed: runs of grants of earlier windows have ended -/
  since : Nat
  fail : Option RFail
  /-- the TCLK, from the first post cycle on, at which the window begins to whose start the times are relative (R270, R307) -/
  begins : Nat
  deriving DecidableEq, Repr

def Replay.empty : Replay := ⟨[], [], [], [], [], [], [], 0, none, 0⟩

/-- The state of the tile's current round (R305 to R314). -/
structure Round where
  slot : Nat
  gen : BitVec 24
  iters : Nat
  /-- 1 waiting to start, 2 running, 3 stalled, 4 parked: the code of TR_STATE.STATE -/
  st : BitVec 3
  /-- the current window, or the next while waiting, stalled or parked (TR_WINDOW) -/
  window : Nat
  /-- arrival tokens set, as (token, copy) (R297) -/
  tokens : List (Nat × Nat)
  /-- post-box fetches in flight: token, iteration, lines still to come (R296) -/
  fetches : List (Nat × Nat × Nat)
  /-- iteration whose post-box fetches are issued next -/
  nextFetch : Nat
  /-- a period or more has passed since the end of the last window (R701) -/
  spaced : Bool
  /-- the deferrable causes that parked it and have not ended (R245, R309) -/
  holds : List Nat
  /-- which of the rounds that the tile has accepted it is -/
  no : Nat
  replay : Replay
  deriving DecidableEq, Repr

/-! ### The Ndoat engine -/

/-- The flags N, Z, C, V (spec 03). -/
structure Flags where
  n : Bool
  z : Bool
  c : Bool
  v : Bool
  deriving DecidableEq, Repr, Inhabited

/-- An asynchronous fault held for the next instruction boundary (R170). -/
inductive Async where
  | sealOverrun (faddr : Word)
  | reflect (faddr : Word)
  | vector (faddr : Word)
  deriving DecidableEq, Repr

/-- A fetch line: one row of the store (R142), with the cycle from which its words are there (R143), the stored words as the row read found
them, and the instruction words that the sequencer has taken from it (R711). -/
structure FLine where
  row : Nat
  ready : Word
  cells : List SWord
  taken : List Nat
  deriving DecidableEq, Repr

/-- The programmer-visible and architectural state of one Ndoat engine (spec 03, 04). Stacks list the top first. -/
structure Engine where
  /-- 0 not started since reset, 1 running, 2 halted (TX_STATE.RUNSTATE) -/
  runstate : BitVec 2
  /-- resident data-stack entries, T first (R95) -/
  ds : List TWord
  /-- data-stack entries in the spill area -/
  dSpilled : Nat
  /-- resident return-stack entries: CODE bits, top first -/
  rs : List Word
  rSpilled : Nat
  x : Word
  y : Word
  flags : Flags
  /-- CODE layout of the next word to execute -/
  pc : Word
  /-- CODE layout of the word after it (R173) -/
  npc : Word
  /-- the word at pc is a delay slot (R145, R720) -/
  dslot : Bool
  /-- the word at pc is an annulled delay slot (R148) -/
  annulled : Bool
  status : BitVec 32
  dspill : Option Word
  rspill : Option Word
  cycles : Word
  resume : Bool
  isSealed : Bool
  dfault : Bool
  hlevel : Nat
  sealLevel : Nat
  /-- CYCLES when the seal counter started (R178) -/
  sealStart : Word
  /-- CODE address of the SEAL word, for F_SEAL_OVERRUN's FADDR (R175) -/
  sealPc : Word
  /-- store buffer, oldest first: byte address in the store and word (R163) -/
  sb : List (Nat × TWord)
  /-- descriptor cache, most recently used first (R160) -/
  dcache : List (BitVec 12 × Desc)
  pending : List Async
  /-- the word at pc is a block operation or a wait under way (R127, R134) -/
  mid : Bool
  /-- repair stall still to come before the word after the delay slot (R143) -/
  stall : Nat
  waiting : Bool
  /-- the word at pc has begun and waits at a point that is no instruction boundary: RCALL for a running round, a matrix request (R132, R170) -/
  busy : Bool
  /-- CYCLES in the cycle in which the address of the next word off the line became known (R143) -/
  known : Word
  lastCode : BitVec 8
  /-- for each handler level, innermost first, the priority of the interrupt that entered it, or none (R569) -/
  svc : List (Option Nat)
  /-- the chute granted by an entry whose handler has run no word yet (R576) -/
  entering : Option Nat
  /-- the two fetch lines, the one being executed first (R142) -/
  lines : List FLine
  /-- shadow return stack (R153), newest first -/
  shadow : List Word
  /-- a control-matrix request that waits: address, write (R591, R600) -/
  mxWait : Option (BitVec 32 × Bool)
  /-- how a request that had to wait was answered: 0 with the data, or the cause of an error completion -/
  mxAnswer : Option (Nat × BitVec 32)
  /-- units are parked by an interrupt entry under INT_STOP and resume at level 0 (R245) -/
  intParked : Bool
  /-- the interrupt entry that raised a deferrable cause has been acted on (R245) -/
  intActed : Bool
  deriving DecidableEq, Repr

/-- An envelope image in a tile's ESEND queue, with its receipt slot address (R135, R480). -/
structure EsendItem where
  image : List Word
  receiptAt : Nat
  /-- it had been held when its tile was switched out (R476, R480) -/
  wasHeld : Bool
  deriving DecidableEq, Repr

/-- A tile context saved while its tenant tile index holds no tile (R410). -/
structure SavedCtx where
  eng : Engine
  streams : Tbl StreamEntry
  sheets : Tbl Sheet
  units : List VUnit
  round : Option Round
  sheetOwners : Option (BitVec 64)
  esendq : List EsendItem
  /-- causes other than the switch that held the tile -/
  stops : List Nat
  regs : Tbl (BitVec 32)
  mask : BitVec 16
  deriving DecidableEq, Repr

/-- One physical tile (position p of die n is tile 17 n + p). -/
structure Tile where
  eng : Engine
  store : TileStore
  /-- stored registers of offsets 0x000 to 0x6FF, by byte offset -/
  regs : Tbl (BitVec 32)
  streams : Tbl StreamEntry
  units : List VUnit
  sheets : Tbl Sheet
  round : Option Round
  /-- pipes that are waking (R254) -/
  waking : List Nat
  /-- per-bank rotating pointer (R42) -/
  bankPtr : Tbl Nat
  /-- row registers of the pipes' read ports (R287), key 8 * master + 2 * port + row mod 2; relay latches (R290) and their shadows of passes
  1 and 2 (R373), key 256 * latch + element: each keeps what it holds from round to round -/
  rowRegs : Tbl (List (Option TWord))
  latches : Tbl Word
  shadows1 : Tbl Word
  shadows2 : Tbl Word
  /-- the owners of the sheet of the round that runs, while they are the active owners (R41) -/
  sheetOwners : Option (BitVec 64)
  /-- TS_OWNER_STANDING and TS_SCRUB as the work in progress goes on with them, where they have been written since it began (R23) -/
  setup : Option (BitVec 64 × BitVec 32)
  /-- rounds accepted on the tile -/
  roundNo : Nat
  /-- words corrected and not yet written back: word index (R56) -/
  writeBacks : List Nat
  /-- spare rows used or retired in each bank (R71) -/
  sparesUsed : Tbl Nat
  /-- rows held by a spare: bank * 1024 + row -/
  spared : List Nat
  /-- next row of the patrol scrubber, bank * 1024 + row (R64) -/
  scrubRow : Nat
  esendq : List EsendItem
  /-- tenant and tenant tile index the tile is assigned to -/
  owner : Option (Nat × Nat)
  /-- deferrable causes held: 0 preemption, 1 tile stop, 2 interrupt entry, 3 DOZE entry, 4 substitution (R244) -/
  stops : List Nat
  /-- its engine ran when the postmaster set HALT_REQ to move its context, and is started again (R409, R648, R619) -/
  switchRan : Bool
  poweredDown : Bool
  /-- requester message counter (R526) -/
  msgCtr : BitVec 32
  /-- TF_CTRL value in force, which a write changes at the next hand-over point (R396) -/
  tfInForce : BitVec 32
  /-- retirements that take effect when the unit in which they arose ends: pipe, and ID of the instruction or 16 for the round (R393) -/
  retiring : List (Nat × Nat)
  /-- pipes whose STRIPS has reached 2^20 and whose charge window is about to close (R390, R392) -/
  closing : List Nat
  /-- TS_CONFLICT_n for the 13 master codes, and TS_CONFLICT_WRAP (R44, R45) -/
  conflicts : List (BitVec 32)
  conflictWrap : BitVec 32
  deriving DecidableEq, Repr

/-! ### Postmasters -/

/-- A postmaster: engine, private store (R188), descriptor table, and the image it runs. -/
structure Postmaster where
  eng : Engine
  store : TileStore
  /-- envelopes that ESEND has sent from the postmaster, with the receipt slot of each (R135; log 13) -/
  esent : List EsendItem
  /-- flash image it runs: false A, true B -/
  image : Bool
  failures : Nat
  heartbeatAt : Nat
  deriving DecidableEq, Repr

/-! ### HBM -/

/-- A request in a requester's queue for one pseudo-channel (R277). -/
inductive HOp where
  /-- one line of background job j (fill, pool rewrite or key rotation) -/
  | job (j : Nat)
  /-- read line i of a served remote READ -/
  | remoteRead (k : Nat) (i : Nat)
  /-- write line i of a served remote WRITE -/
  | remoteWrite (k : Nat) (i : Nat)
  /-- the read half of an atomic (R356) -/
  | atomic (k : Nat)
  deriving DecidableEq, Repr

/-- One pending counter-slot request. -/
structure HReq where
  requester : Nat
  r : Nat
  op : HOp
  deriving DecidableEq, Repr

/-- A read-modify-write between its read and its write (R356, R357, R429): the served atomic or the rotation job it belongs to,
the line index, the line it will write, its own word, the old word, and whether the line has been written. -/
structure HeldLine where
  atomic : Option Nat
  job : Option Nat
  r : Nat
  line : HLine
  word : Nat
  old : TWord
  written : Bool
  deriving DecidableEq, Repr

/-- One pseudo-channel. -/
structure PChan where
  ptr : Nat
  reqs : List HReq
  held : Option HeldLine
  /-- corrected lines to write back, by line index (R339) -/
  writeBacks : List Nat
  /-- lines to rewrite as POISON (R348) -/
  poison : List Nat
  /-- spare units used (R354) -/
  sparesUsed : Nat
  /-- units held by spares -/
  spared : List Nat
  /-- the unit being copied (R352) -/
  copying : Option Nat
  deriving DecidableEq, Repr

/-- One stack's controller: stored registers and self-refresh. -/
structure Stack where
  regs : Tbl (BitVec 32)
  /-- HC_SCRUB.RATE in force since the last start of a post cycle (R23, R24) -/
  rate : Nat
  deriving DecidableEq, Repr

/-- What a background job writes in each line. -/
inductive JobKind where
  | fill | unwritten | rotate
  deriving DecidableEq, Repr

/-- A background job of the postmaster over the lines of a segment's stripes (R335, R336, R429). `done` counts
the lines written on each pseudo-channel. -/
structure Job where
  kind : JobKind
  tenant : Nat
  seg : BitVec 12
  keyidx : Nat
  global : Bool
  die : Nat
  r0 : Nat
  stripes : Nat
  done : Tbl Nat
  deriving DecidableEq, Repr

/-! ### Tenants, envelopes, mailbags -/

/-- Tenant states (R402). -/
inductive TState where
  | disabled | resident | computing | resetting
  deriving DecidableEq, Repr

/-- TDISP states of a TDI (R420 to R422). -/
inductive TdiState where
  | configUnlocked | configLocked | run | error
  deriving DecidableEq, Repr

/-- A tenant contract (R442). -/
structure Contract where
  pinned : Bool
  tiles : Nat
  tileWeight : Nat
  fabricWeight : Nat
  serviceWeight : Nat
  intMinCount : Nat
  intMinTime : Nat
  bankMask : BitVec 16
  quota : Nat
  slots : List Nat
  image : List Word
  deriving DecidableEq, Repr

/-- An SPDM session: its franking key, and what the connection has negotiated. -/
structure Session where
  franking : Key
  deriving DecidableEq, Repr

/-- One SPDM endpoint's connection: phase (0 none, 1 version, 2 capabilities, 3 algorithms), sessions established,
a KEY_EXCHANGE awaiting FINISH (requester key and secret), and an assembled chunked message. -/
structure Spdm where
  phase : Nat
  sessions : List Session
  exchanging : Option (BitVec 384 × Nat)
  chunk : List Word
  reply : List Word
  deriving DecidableEq, Repr

def Spdm.empty : Spdm := ⟨0, [], none, [], []⟩

/-- A tenant (R402, R403). -/
structure Tenant where
  st : TState
  contract : Contract
  /-- contract terms for tiles not yet in force (R445) -/
  nextContract : Option Contract
  segs : Tbl Desc
  /-- logical tiles held, by tenant tile index -/
  tiles : List Nat
  /-- compute die chosen for each tenant tile index (R407) -/
  dies : List Nat
  saved : Tbl SavedCtx
  /-- context-area stripe run of each tenant tile index: die and first index -/
  ctxAreas : Tbl (Nat × Nat)
  credit : Int
  svcCredit : Nat
  svcPtr : Nat
  boundKey : Option (BitVec 384)
  spdm : Spdm
  faults : Nat
  fpflags : BitVec 5
  keyGens : Tbl Nat
  tdi : TdiState
  /-- IDE stream bound to the TDI -/
  stream : Option Nat
  /-- unsolicited receipts waiting: status and DETAIL (R501) -/
  unsol : List (BitVec 16 × Word)
  lost : Nat
  /-- the step of the tenant reset sequence that runs, and letters abandoned (R448) -/
  resetStep : Option Nat
  abandoned : Nat
  /-- the reset was caused by VF disable: the tenant ends DISABLED (R405) -/
  disabling : Bool
  /-- an FLR is among the causes: the TDI ends CONFIG_UNLOCKED (R422) -/
  unlockTdi : Bool
  /-- weighted-injection deficit at each port (R536) -/
  deficit : Tbl Nat
  deriving DecidableEq, Repr

/-- The registers and counts of one mailbag (R459, spec 10). -/
structure Mailbag where
  cfg : BitVec 32
  status : BitVec 32
  head : Nat
  tail : Nat
  trayHead : Nat
  trayTail : Nat
  ring : Word
  tray : Word
  doneSeq : Word
  expSeq : Word
  rcptCtr : Word
  /-- sizes in slots of the envelopes posted and not fetched -/
  posted : List Nat
  deriving DecidableEq, Repr

/-- How far an envelope has come (R472, R477). -/
inductive EnvSt where
  /-- host slots or payload asked for and not arrived -/
  | fetching
  /-- held for its sequence wait, or for its postmark alone -/
  | heldSeq | heldTime
  | executing
  /-- executed; its receipt waits for a tray entry -/
  | answered
  deriving DecidableEq, Repr

/-- How far an envelope has come on one of the tiles that it names: tenant tile index, step, and once it has ended there the logical
tile, the status and the result (R31). -/
structure TileProg where
  idx : Nat
  stage : Nat
  done : Option (Nat × Nat × Nat)
  deriving DecidableEq, Repr

/-- An envelope from its fetch to its receipt. -/
structure Env where
  /-- its number among the envelopes fetched, which tells equal ones apart -/
  no : Nat
  place : Place
  st : EnvSt
  words : List Word
  slots : Nat
  /-- logical tile index owner for an ESEND envelope: tenant and tenant tile index -/
  origin : Nat × Nat
  /-- receipt slot of an ESEND envelope -/
  receiptAt : Nat
  /-- franking key in force at the fetch (R436) -/
  franking : Key
  /-- the receipt counter of an older session, kept until the receipt is written (R436) -/
  oldCtr : Option Word
  /-- lateness in ticks (R479) -/
  late : Nat
  startedAt : Nat
  /-- its execution has begun (R456) -/
  ran : Bool
  /-- progress of a multi-step opcode -/
  phase : Nat
  /-- progress on each tile that it names -/
  prog : List TileProg
  /-- job, request or activity it waits on -/
  wait : Nat
  result : BitVec 32
  status : BitVec 16
  /-- named tiles that took a tile reset while it acted on them (R652) -/
  lost : List Nat
  deriving DecidableEq, Repr

/-- A payload buffer (R485): owner (none free; 1024 the PF; otherwise a tenant), generation, contents by 64-bit word. -/
structure Buffer where
  owner : Option Nat
  gen : BitVec 22
  words : Tbl Word
  deriving DecidableEq, Repr

def Buffer.empty : Buffer := ⟨none, 0, []⟩

/-- A fatal dump under way: the postmaster that writes it (false A, true B), its form, code and detail, and the postmark at its trigger
(R674, R675). -/
structure Dumping where
  writer : Bool
  full : Bool
  code : Nat
  detail : Nat
  mark : Word
  deriving DecidableEq, Repr

/-! ### Keys -/

/-- A key-store slot (R424): abstract key number when it holds a key, and the generation of KEYREF handles. -/
structure KeySlot where
  key : Option Key
  gen : BitVec 16
  /-- the check bits of its copy on P0, and on P1, fail (R423, R643) -/
  bad0 : Bool
  bad1 : Bool
  deriving DecidableEq, Repr

def KeySlot.empty : KeySlot := ⟨none, 0, false, false⟩

/-- A running key rotation (R429). -/
structure Rotation where
  tenant : Nat
  keyidx : Nat
  newKey : Key
  /-- its rewrite jobs, in ascending line index -/
  jobs : List Nat
  place : Place
  deriving DecidableEq, Repr

/-! ### Fabric -/

/-- A valid cell of a frame: HEAD, TAIL, VC and CLASS of its descriptor, and its letter (R503). -/
structure PortCell where
  head : Bool
  tail : Bool
  vc : BitVec 2
  cls : BitVec 3
  data : BitVec 512
  deriving DecidableEq, Repr

/-- A frame kept for resending: FSEQ, cells and credit returns (R507). -/
structure Kept where
  fseq : BitVec 16
  cells : List PortCell
  credit1 : BitVec 13
  credit2 : BitVec 13
  deriving DecidableEq, Repr

/-- A message that waits at an output port: the input it came by, a port or 32 for local injection (R514), and the cells that it still holds of
that port's buffer `key` (R509). -/
structure Waiting where
  input : Nat
  key : Nat
  hold : Nat
  msg : Letter
  deriving DecidableEq, Repr

/-- A message that an output port sends, with the cells that have not left (R513). -/
structure Going where
  input : Nat
  key : Nat
  hold : Nat
  left : List PortCell
  deriving DecidableEq, Repr

/-- No message. -/
def Going.none : Going := ⟨0, 0, 0, []⟩

/-- A fabric port (spec 11). Buffers and channels have the key 8 * VC + CLASS. -/
structure Port where
  status : BitVec 32
  peer : BitVec 32
  ctrl : BitVec 32
  retry : BitVec 32
  fec : BitVec 32
  /-- lanes that trained and have not been dropped or held out of service (R510) -/
  usable : BitVec 8
  rxFseq : BitVec 16
  nakSet : Bool
  fails : Nat
  txFseq : BitVec 16
  /-- the last 128 frames, until they are acknowledged (R507) -/
  resend : List Kept
  /-- messages that wait to leave (R514) -/
  outq : List Waiting
  /-- the message that holds a channel and class, until its tail (R513) -/
  sending : Tbl Going
  /-- for each channel, the input from which the next round-robin scan begins (R514) -/
  turn : Tbl Nat
  /-- the tenant that the deficit round robin visits (R536) -/
  visiting : Option Nat
  /-- credits held (R509) -/
  credits : Tbl Nat
  /-- cells that stand in a receive buffer, at most 64 (R509) -/
  held : Tbl Nat
  /-- cells that have left a receive buffer, whose credits are still to be returned (R509) -/
  owed : Tbl Nat
  /-- letters of the message that is arriving on a channel and class (R513) -/
  part : Tbl (List (BitVec 512))
  /-- messages received and not yet acted on -/
  rxq : List Letter
  /-- an ACK or NAK is still to be sent (R507) -/
  ackDue : Bool
  /-- frame boundaries since training, in 1/512 frames, up to the SCLK `framesAt` (R503, R505) -/
  frames : Nat
  framesAt : Nat
  /-- that count when the transmit key was installed, and the least batch number that the next frame has (R505) -/
  txBase : Nat
  txNext : Nat
  /-- the batch number of the next frame received, and that under the next key once its KEYPHASE has been seen (R505, R506) -/
  rxBatch : Nat
  rxTurn : Option Nat
  /-- the receive key that the peer's change of KEYPHASE brings in (R506) -/
  rxKey : Option Key
  keyTime : Nat
  /-- corrected symbols of the last 65,536 frames: frame number and lane (R510) -/
  laneErrs : List (Nat × Nat)
  txPhase : Bool
  rxPhase : Bool
  rekeying : Bool
  stopped : Bool
  attempts : Nat
  retryAt : Nat
  /-- bring-up exchange: bodies of the peer's HELLO, KEYSHARE and CERT letters -/
  hs : List (List (BitVec 512))
  /-- bodies of this end's HELLO and KEYSHARE letters, and the draw of its ephemeral key (R437) -/
  own : List (List (BitVec 512))
  ephemeral : Nat
  /-- stamps of the last TIME letters in 1/16 ticks: last send, last arrival and its t3 -/
  t1 : Nat
  echo1 : Nat
  echo2 : Nat
  /-- SCLK at which the next TIME letter is due (R543) -/
  timeDue : Nat
  /-- a RATE letter of this end waits for the peer's (R539) -/
  asked : Bool
  deriving DecidableEq, Repr

/-- A path entry of an address book (R520). -/
structure Path where
  valid : Bool
  hops : Nat
  ports : BitVec 40
  deriving DecidableEq, Repr, Inhabited

/-- An address book in force (R520): its image words, version, groups, time parent and peers. -/
structure Book where
  words : List Word
  version : BitVec 32
  groups : Nat
  timeParent : Option Nat
  deriving DecidableEq, Repr

/-- What a remote request of this device waits for (R533). -/
inductive ReqKind where
  | unitRead (t : Nat) (id : BitVec 4)
  | unitWrite (t : Nat) (id : BitVec 4)
  | postbox (t : Nat) (token : Nat) (iter : Nat)
  | atomic (t : Nat)
  | envelope (p : Place)
  | bookLoad (p : Place)
  /-- a request of a tenant under reset, whose reply is discarded (R448) -/
  | gone
  deriving DecidableEq, Repr

/-- An outstanding remote request: transaction tag, what it serves, first line and lines still to come, and the
SCLK at which it was sent. -/
structure RemoteReq where
  xtag : BitVec 16
  kind : ReqKind
  tenant : Nat
  base : Nat
  left : Nat
  sentAt : Nat
  deriving DecidableEq, Repr

/-- A request this device serves as destination (R531, R532): port of arrival, head letter, the segment it
reaches, lines read so far, lines still to come. -/
structure Served where
  k : Nat
  port : Nat
  letter : Letter
  desc : Desc
  lines : Tbl (BitVec 512 × BitVec 32)
  left : Nat
  localTile : Option Nat
  /-- its sender has been reset: it completes with no answer (R451) -/
  gone : Bool
  deriving DecidableEq, Repr

/-! ### Chutes, vectors, matrix -/

/-- A chute (R552, R553). -/
structure Chute where
  cfg : BitVec 32
  owner : BitVec 32
  pending : Bool
  /-- pool pointer (R570) and target of the present presentation -/
  ptr : Nat
  presented : Option Nat
  /-- MASK has been written and is not yet in force for selection (R574) -/
  masking : Bool
  deriving DecidableEq, Repr

/-- An MSI-X vector with its coalescing state (R571, R572). Times in SCLK. -/
structure Vec where
  coal : BitVec 32
  events : Nat
  first : Nat
  /-- when the last event came that the count of R571 still needed -/
  reached : Nat
  last : Option Nat
  mask : Bool
  /-- Mask has been written and is not yet in force (R575) -/
  masking : Bool
  pendingBit : Bool
  /-- 0 when no chute fed the events; otherwise 1 more than the highest priority of such a chute (R573) -/
  prio : Nat
  addr : Word
  data : BitVec 32
  deriving DecidableEq, Repr

/-- An input filter of IC1 (R561): LENGTH, the filtered level, the SCLK from which samples at the input's present level count towards a
change, 2 SCLK for the change to show included, and the level of the input itself. -/
structure Filter where
  length : BitVec 8
  level : Bool
  since : Nat
  raw : Bool
  deriving DecidableEq, Repr

/-- A lock on a matrix target (R593 to R597): owner, SCLK of the grant, BROKEN bit, former owner of a broken sequence. -/
structure Lock where
  owner : Option Master
  since : Nat
  broken : Bool
  former : Option Master
  deriving DecidableEq, Repr

def Lock.free : Lock := ⟨none, 0, false, none⟩

/-- What a request asks of its target: a read or write, the begin or end of a locked sequence (R593), an ESEND transfer (R589). -/
inductive MxOp where
  | access | lock | unlock | transfer
  deriving DecidableEq, Repr

/-- A request that is held or will never be answered: data of a write, the SCLK of its issue, the hang limit in force then (R591, R600, R601),
what it asks, and the engine whose word waits for it. -/
structure HeldReq where
  m : Master
  addr : BitVec 32
  data : Option (BitVec 32)
  since : Nat
  limit : Nat
  op : MxOp
  eng : Option EngineId
  deriving DecidableEq, Repr

/-- The control-matrix block (spec 13). -/
structure Matrix where
  regs : Tbl (BitVec 32)
  locks : Tbl Lock
  /-- requests that are held or will never be answered, oldest first -/
  hung : List HeldReq
  /-- HI halves captured by a read of a LO half: master, address of HI, value (R587) -/
  captured : List (Master × BitVec 32 × BitVec 32)
  /-- arbitration pointer of each target, over master IDs (R590) -/
  ptr : Tbl Nat
  /-- the 64 bytes in each tile's port of the ESEND inbox: the last that a transfer moved (R589) -/
  inbox : Tbl (List Word)
  deriving DecidableEq, Repr

/-! ### Whole package -/

/-- Order codes (R1 to R5). -/
inductive Order where
  | x1_128 | x2_128 | x2_112
  deriving DecidableEq, Repr

/-- The fuse map as the model needs it (R6, R8, R440, R439). -/
structure Fuses where
  order : Order
  revision : BitVec 8
  svn : BitVec 7
  revoked : BitVec 4
  /-- rows that the hard fuse map gives a spare: physical tile, bank * 1024 + row (R67) -/
  hardRows : List (Nat × Nat)
  /-- units of HBM that a hard post-package repair has mended: pseudo-channel, unit (R355, R419) -/
  hardUnits : List (Nat × Nat)
  deriving DecidableEq, Repr

/-- Fabric time (R615): units of 2^-36 tick, the following rate in units of 2^-32, and the trim in force. -/
structure FabTime where
  ft : Nat
  rate : Nat
  /-- 0 none, 1 faster (17/16), 2 slower (15/16) -/
  trim : Nat
  /-- offset still to be slewed, in the unit of `ft` -/
  slew : Int
  /-- consecutive exchanges within 1 tick (R546) -/
  good : Nat
  /-- stamps of the previous exchange: own and parent's, in 1/16 ticks (R545) -/
  lastOwn : Nat
  lastParent : Nat
  deriving DecidableEq, Repr

/-- What the package emits to the outside: posted writes, MSI-X messages, completions, letters and responses. -/
inductive Out where
  /-- posted write of words to host memory, and whether its address is a translated one (R420) -/
  | hostWrite (f : Fn) (addr : Nat) (words : List Word) (translated : Bool)
  /-- read request of host memory -/
  | hostRead (f : Fn) (addr : Nat) (len : Nat) (translated : Bool)
  | msix (f : Fn) (v : Nat)
  /-- completion of a matrix or PCIe read: master and data -/
  | completion (m : Master) (data : BitVec 32)
  | windowData (words : List Word)
  /-- error completion with its cause code (spec 13) -/
  | errorCompletion (m : Master) (cause : Nat)
  | unsupportedRequest (n : Nat)
  | completerAbort
  | configRetry
  /-- a frame that is not idle leaves on a port (R503) -/
  | frame (port : Nat) (fr : Frame)
  | spdm (f : Fn) (code : Nat) (words : List Word)
  | spdmError (f : Fn) (code : Nat)
  | aerInternalError
  | aerCompleterAbort
  /-- the request of a master was abandoned by its hang timer (R601) -/
  | abandoned (m : Master)
  deriving DecidableEq, Repr

/-- Power and boot phases (spec 14, 16). -/
inductive Phase where
  | off | held | booting | ready | tripped
  deriving DecidableEq, Repr

/-- DOZE phases (SY_STATE.STATE). -/
inductive Doze where
  | run | entering | dozing | exiting
  deriving DecidableEq, Repr

/-- A firmware image in flash as the model keeps it: its words. -/
structure Flash where
  bytes : Tbl (BitVec 8)
  deriving DecidableEq, Repr

/-- A maintenance activity running or waiting (R663): number, scope (none device, otherwise a unit number),
the envelope it belongs to, whether it runs. -/
structure Activity where
  no : Nat
  scope : Option Nat
  place : Option Place
  running : Bool
  deriving DecidableEq, Repr

/-- The post-cycle plan in force (R273): generation, image words, and the scheduled entries of each die map, key
1024 * die + allocatable index, value the tenant. Unlisted entries are counter slots (R638). -/
structure Plan where
  gen : BitVec 32
  sched : Tbl (Option Nat)
  words : List Word
  deriving DecidableEq, Repr

/-- System, fuse, flash, key-store control and pair registers and power state. -/
structure Sys where
  phase : Phase
  pwrGood : Bool
  perstN : Bool
  testMode : Bool
  ready : Bool
  fenced : Bool
  lastReset : BitVec 4
  doze : Doze
  /-- SCLK at which DOZE was entered -/
  dozeAt : Nat
  /-- the point of no return has passed (R620) -/
  pastP : Bool
  /-- causes latched and not reported (R621) -/
  latched : BitVec 6
  /-- the DEVICE_SLEEP envelope that is served -/
  sleepFor : Option Place
  /-- stored registers of the fuse controller block (FC, SY, PM_PAIR), by offset -/
  fc : Tbl (BitVec 32)
  fl : Tbl (BitVec 32)
  ks : Tbl (BitVec 32)
  /-- postmaster that started the flash operation: false A, true B -/
  flBy : Bool
  /-- flash image marked active: false A, true B; verified since FW_UPDATE -/
  active : Bool
  inactiveVerified : Bool
  /-- fabric record in force and in flash: device ID when named (R518) -/
  record : Option (BitVec 14)
  recordNext : Option (BitVec 14)
  /-- soft-fuse table: tile rows (tile, bank * 1024 + row) and HBM units (pc, unit), and failed tiles -/
  softRows : List (Nat × Nat)
  softUnits : List (Nat × Nat)
  softTiles : List Nat
  /-- postmaster roles: 0 failed or in reset, 1 standby, 2 primary -/
  stateA : BitVec 2
  stateB : BitVec 2
  /-- records written by the primary and not yet committed (R654) -/
  journal : Nat
  journalCommitted : Nat
  /-- postmaster event log: kind and detail -/
  eventLog : List (Nat × Nat)
  activities : List Activity
  /-- hand-over step in progress (R669) -/
  handover : Option Nat
  /-- fatal dump: HBM dump words, flash dump words; word 20 is COMPLETE (R674) -/
  dumpHbm : Tbl Word
  dumpFlash : Tbl Word
  /-- the fatal dump that is being written (R674, R675) -/
  dumping : Option Dumping
  /-- the last postmaster requests to CM, IC or fuse controller abandoned in a row (R673) -/
  mxAbandoned : Nat
  smbAlert : Bool
  thermAlert : Bool
  throttled : List Nat
  /-- root under which the running image verified (FC_SECURITY.ROOT) -/
  root : BitVec 2
  /-- the plan and the book image that the journal keeps through a warm device reset, until start-up restores them (R636) -/
  planKept : Option Plan
  bookKept : Option (List Word)
  deriving DecidableEq, Repr

/-- The whole machine. Tables are sparse; what an unlisted key holds is said beside each component's reset value below. -/
structure State where
  /-- commands waiting, first in first out -/
  pending : List Instr
  fuses : Fuses
  /-- SCLK periods counted since the model's start: the model's own time base -/
  sclk : Nat
  /-- the model's own counter, argument of free values -/
  free : Nat
  time : FabTime
  tiles : Tbl Tile
  /-- position of each logical tile: physical tile index (17 * die + position) (ST_MAP) -/
  tileMap : Tbl Nat
  pmA : Postmaster
  pmB : Postmaster
  hbm : Tbl HLine
  hcStacks : Tbl Stack
  chans : Tbl PChan
  jobs : List (Nat × Job)
  nextJob : Nat
  /-- post cycles begun since HBM training -/
  postCycle : Nat
  /-- lines that have moved in scheduled slots of this post cycle or a later one: slot, counted from the first post cycle on, pseudo-channel, tenant,
  tile (R294) -/
  moved : List (Nat × Nat × Nat × Nat)
  plan : Plan
  /-- a plan waiting for its boundary, with the envelope that loaded it, or none for one that start-up restored (R275, R636) -/
  nextPlan : Option (Plan × Option Place)
  tenants : Tbl Tenant
  numVfs : Nat
  vfEnable : Bool
  pfSpdm : Spdm
  pfUnsol : List (BitVec 16 × Word)
  pfLost : Nat
  pfFaults : Nat
  pfPtr : Nat
  tPtr : Nat
  bags : Tbl Mailbag
  envs : List Env
  esendReceipts : List (Nat × Nat × Nat × List Word)
  buffers : Tbl Buffer
  keys : Tbl KeySlot
  /-- cipher contexts: key number in force (R427) -/
  ctxs : Tbl Key
  rotation : Option Rotation
  /-- IDE key sets activated by K_SET_GO: stream * 6 + sub * 2 + set -/
  ideActive : List Nat
  ports : Tbl Port
  fx : Tbl (BitVec 32)
  book : Option Book
  /-- a book being assembled from BOOK letters: length, words received -/
  bookRx : Option (Nat × Tbl (BitVec 512))
  reqs : List RemoteReq
  served : List Served
  nextXtag : BitVec 16
  nextServed : Nat
  /-- the number of the next envelope fetched -/
  nextEnv : Nat
  pmMsgCtr : BitVec 32
  /-- last WAKE sent to each device, SCLK (R542) -/
  wokeAt : Tbl Nat
  chutes : Tbl Chute
  chStatus : BitVec 32
  ic0 : BitVec 32
  ic1 : BitVec 32
  filters : Tbl Filter
  vecs : Tbl Vec
  /-- function masks of MSI-X: 0 the PF, n + 1 the VF of tenant n -/
  fmask : Tbl Bool
  /-- what has been written of the configuration space: VF BAR 0 of the SR-IOV capability and MSI-X Message Control (R422, R572) -/
  cfgRegs : Tbl (BitVec 32)
  cm : Matrix
  sys : Sys
  stewards : Tbl (BitVec 32)
  flashA : Flash
  flashB : Flash
  /-- emitted to the outside, newest first -/
  out : List Out
  deriving DecidableEq, Repr

/-! ### Reset values -/

/-- A CODE word (layout of spec 03): segment and byte offset. -/
def codeWord (seg : BitVec 12) (off : BitVec 48) : Word := seg ++ (0 : BitVec 4) ++ off

/-- An engine after its reset: not started, entry at 0x110 of segment 0 (R168), both stacks empty, spill pointers unset
(R718), STATUS 0 (R100), LAST_CODE 0xFF. X, Y and the flags: DESIGN CHOICE zero (log 2). -/
def Engine.reset : Engine where
  runstate := 0
  ds := []
  dSpilled := 0
  rs := []
  rSpilled := 0
  x := 0
  y := 0
  flags := ⟨false, false, false, false⟩
  pc := codeWord 0 0x110
  npc := codeWord 0 0x114
  dslot := false
  annulled := false
  status := 0
  dspill := none
  rspill := none
  cycles := 0
  resume := false
  isSealed := false
  dfault := false
  hlevel := 0
  sealLevel := 0
  sealStart := 0
  sealPc := 0
  sb := []
  dcache := []
  pending := []
  mid := false
  stall := 0
  waiting := false
  busy := false
  known := 0
  lastCode := 0xFF
  svc := []
  entering := none
  shadow := []
  lines := []
  mxWait := none
  mxAnswer := none
  intParked := false
  intActed := false

/-- A tile after a cold reset: store in the unwritten state, system rows zero INT (R50), registers at the values of their
tables, nothing loaded, no owner. Stream generations, pointers and cursors: DESIGN CHOICE zero (log 2). -/
def Tile.reset : Tile where
  eng := Engine.reset
  store := ⟨false, []⟩
  regs := []
  streams := []
  units := []
  sheets := []
  round := none
  waking := []
  bankPtr := []
  rowRegs := []
  latches := []
  shadows1 := []
  shadows2 := []
  sheetOwners := none
  setup := none
  roundNo := 0
  writeBacks := []
  sparesUsed := []
  spared := []
  scrubRow := 0
  esendq := []
  owner := none
  stops := []
  switchRan := false
  poweredDown := false
  msgCtr := 0
  tfInForce := 2
  retiring := []
  closing := []
  conflicts := List.replicate 13 0
  conflictWrap := 0

/-- A postmaster after a cold reset. Private store: DESIGN CHOICE zero INT words (log 3). -/
def Postmaster.reset : Postmaster where
  eng := Engine.reset
  store := ⟨true, []⟩
  esent := []
  image := false
  failures := 0
  heartbeatAt := 0

/-- A stack after a cold reset: registers at the values of their table, RATE 4 among them. -/
def Stack.reset : Stack := ⟨[], 4⟩

def PChan.reset : PChan where
  ptr := 0
  reqs := []
  held := none
  writeBacks := []
  poison := []
  sparesUsed := 0
  spared := []
  copying := none

/-- The default contract of an enabled VF (R404): every field zero except SERVICE_WEIGHT 1 and
INT_MIN_COUNT 1. -/
def Contract.default : Contract where
  pinned := false
  tiles := 0
  tileWeight := 0
  fabricWeight := 0
  serviceWeight := 1
  intMinCount := 1
  intMinTime := 0
  bankMask := 0
  quota := 0
  slots := [0, 0, 0, 0, 0, 0, 0, 0]
  image := [BitVec.ofNat 64 (2 ^ 40 + 2 ^ 48), 0, 0, 0, 0, 0, 0, 0]

/-- A tenant whose VF is not enabled: DISABLED (R402). -/
def Tenant.reset : Tenant where
  st := .disabled
  contract := Contract.default
  nextContract := none
  segs := []
  tiles := []
  dies := []
  saved := []
  ctxAreas := []
  credit := 0
  svcCredit := 0
  svcPtr := 0
  boundKey := none
  spdm := Spdm.empty
  faults := 0
  fpflags := 0
  keyGens := []
  tdi := .configUnlocked
  stream := none
  unsol := []
  lost := 0
  resetStep := none
  abandoned := 0
  disabling := false
  unlockTdi := false
  deficit := []

/-- A mailbag after reset (MB_CFG: TRAY_LOG2 4, RING_LOG2 4). -/
def Mailbag.reset : Mailbag where
  cfg := 0x0404
  status := 0
  head := 0
  tail := 0
  trayHead := 0
  trayTail := 0
  ring := 0
  tray := 0
  doneSeq := 0
  expSeq := 1
  rcptCtr := 0
  posted := []

/-- A fabric port after a cold reset: DOWN, registers 0, full credit pools are granted at training. -/
def Port.reset : Port where
  status := 0
  peer := 0
  ctrl := 0
  retry := 0
  fec := 0
  usable := 0
  rxFseq := 0
  nakSet := false
  fails := 0
  txFseq := 0
  resend := []
  outq := []
  sending := []
  turn := []
  visiting := none
  credits := []
  held := []
  owed := []
  part := []
  rxq := []
  ackDue := false
  frames := 0
  framesAt := 0
  txBase := 0
  txNext := 0
  rxBatch := 0
  rxTurn := none
  rxKey := none
  keyTime := 0
  laneErrs := []
  txPhase := false
  rxPhase := false
  rekeying := false
  stopped := false
  attempts := 0
  retryAt := 0
  hs := []
  own := []
  ephemeral := 0
  t1 := 0
  echo1 := 0
  echo2 := 0
  timeDue := 0
  asked := false

/-- CH_CFG of chute c after a cold reset (R552, spec 12): MASK 1; chutes 0 to 191 SECURE with the fixed consumer. -/
def chuteCfgReset (c : Nat) : BitVec 32 :=
  if c < 128 then BitVec.ofNat 32 (0xC0000000 + 1 * 2 ^ 21 + c * 2 ^ 10)
  else if c < 162 then BitVec.ofNat 32 (0xC0000000 + 2 * 2 ^ 21)
  else if c < 164 then BitVec.ofNat 32 (0xC0000000 + 5 * 2 ^ 21)
  else if c < 192 then 0xC0000000
  else 0x80000000

/-- CH_OWNER of chute c after a cold reset: postmaster below 192, otherwise the PF. -/
def chuteOwnerReset (c : Nat) : BitVec 32 := if c < 192 then 0 else 0x40000000

def Chute.reset (c : Nat) : Chute := ⟨chuteCfgReset c, chuteOwnerReset c, false, 0, none, false⟩

/-- An MSI-X vector after reset: COUNT 1, TIME 1; table entry masked (PRESUMED, PCI Express, log 4). -/
def Vec.reset : Vec where
  coal := 0x00010001
  events := 0
  first := 0
  reached := 0
  last := none
  mask := true
  masking := false
  pendingBit := false
  prio := 0
  addr := 0
  data := 0

/-- An input filter after reset: LENGTH 0x0A, deasserted (R562). -/
def Filter.reset : Filter := ⟨0x0A, false, 2, false⟩

def Matrix.reset : Matrix := ⟨[], [], [], [], [], []⟩

/-- Power and boot state right after a cold reset by power-good (R634): boot under way, postmaster A primary. -/
def Sys.reset : Sys where
  phase := .booting
  pwrGood := true
  perstN := true
  testMode := false
  ready := false
  fenced := false
  lastReset := 0
  doze := .run
  dozeAt := 0
  pastP := false
  latched := 0
  sleepFor := none
  fc := []
  fl := []
  ks := []
  flBy := false
  active := false
  inactiveVerified := false
  record := none
  recordNext := none
  softRows := []
  softUnits := []
  softTiles := []
  stateA := 2
  stateB := 1
  journal := 0
  journalCommitted := 0
  eventLog := []
  activities := []
  handover := none
  dumpHbm := []
  dumpFlash := []
  dumping := none
  mxAbandoned := 0
  smbAlert := false
  thermAlert := false
  throttled := []
  root := 0
  planKept := none
  bookKept := none

/-- Fuses of the part the model resets to: a TN9-128-X1. DESIGN CHOICE (log 5): any order code is a part. -/
def Fuses.reset : Fuses := ⟨.x1_128, 0x10, 0, 0, [], []⟩

/-- Fabric time after a cold reset (R615): count 0, nominal rate. -/
def FabTime.reset : FabTime := ⟨0, 2 ^ 32, 0, 0, 0, 0, 0⟩

/-- The machine right after a cold reset. -/
def State.reset : State where
  pending := []
  fuses := Fuses.reset
  sclk := 0
  free := 0
  time := FabTime.reset
  tiles := []
  tileMap := []
  pmA := Postmaster.reset
  pmB := Postmaster.reset
  hbm := []
  hcStacks := []
  chans := []
  jobs := []
  nextJob := 0
  postCycle := 0
  moved := []
  plan := ⟨0, [], []⟩
  nextPlan := none
  tenants := []
  numVfs := 0
  vfEnable := false
  pfSpdm := Spdm.empty
  pfUnsol := []
  pfLost := 0
  pfFaults := 0
  pfPtr := 0
  tPtr := 0
  bags := []
  envs := []
  esendReceipts := []
  buffers := []
  keys := []
  ctxs := []
  rotation := none
  ideActive := []
  ports := []
  fx := []
  book := none
  bookRx := none
  reqs := []
  served := []
  nextXtag := 0
  nextServed := 0
  nextEnv := 0
  pmMsgCtr := 0
  wokeAt := []
  chutes := []
  chStatus := 0
  ic0 := 0
  ic1 := 0
  filters := []
  vecs := []
  fmask := []
  cfgRegs := []
  cm := Matrix.reset
  sys := Sys.reset
  stewards := []
  flashA := ⟨[]⟩
  flashB := ⟨[]⟩
  out := []

end Sys2Proof.Machine
end

