-- ==== Sys2Proof/Machine/Flags.lean ====
section
/-! DEFINITION. Flag computations of every class (R111) and the arithmetic, bit-field and permute functions of the Ndoat
operations (R116 to R122). -/
namespace Sys2Proof.Machine

open Sys2Proof

/-- The flags an operation writes; an absent one is unchanged. -/
structure FlagUpd where
  n : Option Bool
  z : Option Bool
  c : Option Bool
  v : Option Bool
  deriving DecidableEq, Repr, Inhabited

def FlagUpd.none : FlagUpd := ⟨.none, .none, .none, .none⟩

/-- Write flags. -/
def applyFlags (f : Flags) (u : FlagUpd) : Flags := ⟨u.n.getD f.n, u.z.getD f.z, u.c.getD f.c, u.v.getD f.v⟩

/-- a + b + c on 64 bits, with its carry and signed overflow. -/
def addc (a b : Word) (c : Bool) : Word × Bool × Bool :=
  let r := a + b + BitVec.ofNat 64 (b2n' c)
  (r, decide (2 ^ 64 ≤ a.toNat + b.toNat + b2n' c), (a.msb == b.msb) && (r.msb != a.msb))
where
  b2n' (c : Bool) : Nat := if c then 1 else 0

/-- The add class and, with the subtrahend complemented, the subtract class. -/
def addFlags (a b : Word) (c : Bool) : FlagUpd :=
  let r := addc a b c
  ⟨some r.1.msb, some (r.1 == 0), some r.2.1, some r.2.2⟩
/-- Difference and flags of a − b: a + NOT b + 1 (R111). -/
def subFlags (a b : Word) : FlagUpd := addFlags a (~~~ b) true
/-- The logic class: C unchanged, V cleared. -/
def logicFlags (r : Word) : FlagUpd := ⟨some r.msb, some (r == 0), .none, some false⟩
/-- The result-only class. -/
def resultFlags (r : Word) : FlagUpd := ⟨some r.msb, some (r == 0), .none, .none⟩
/-- The shift class: C is the last bit shifted out, unchanged when the count is 0. -/
def shiftFlags (r : Word) (n : Nat) (out : Bool) : FlagUpd := ⟨some r.msb, some (r == 0), if n = 0 then .none else some out, .none⟩

/-- The kinds of shift of R113. -/
inductive ShKind where
  | shl | shr | sar | rol
  deriving DecidableEq, Repr

/-- A shift by n (0 to 63): the result and the last bit shifted out (R111, R116). -/
def shiftEval (k : ShKind) (a : Word) (n : Nat) : Word × Bool :=
  match k with
  | .shl => (a <<< n, a.getLsbD (64 - n))
  | .shr => (a >>> n, a.getLsbD (n - 1))
  | .sar => (a.sshiftRight n, a.getLsbD (n - 1))
  | .rol => (a.rotateLeft n, a.getLsbD (64 - n))

/-- The two-operand logic operations. -/
inductive LogicOp where
  | and | or | xor
  deriving DecidableEq, Repr

def logicEval (o : LogicOp) (a b : Word) : Word :=
  match o with
  | .and => a &&& b
  | .or => a ||| b
  | .xor => a ^^^ b

/-- Leading zero bits, 0 to 64. -/
def clz64 (a : Word) : Nat := forN' 64 (fun i n => if a.getLsbD i then 63 - i else n) 64
where
  forN' : Nat → (Nat → Nat → Nat) → Nat → Nat
    | 0, _, x => x
    | n + 1, f, x => f n (forN' n f x)

/-- One bits, 0 to 64. -/
def popc64 (a : Word) : Nat := clz64.forN' 64 (fun i n => if a.getLsbD i then n + 1 else n) 0

/-- A field of w bits at pos, zero- or sign-extended (R117). -/
def extField (sx : Bool) (a : Word) (pos w : Nat) : Word :=
  let f := (a >>> pos).toNat % 2 ^ w
  if sx && f.testBit (w - 1) then BitVec.ofNat 64 (f + 2 ^ 64 - 2 ^ w) else BitVec.ofNat 64 f

/-- Bits pos to pos + w − 1 of a replaced by the low w bits of b (R118). -/
def insField (a b : Word) (pos w : Nat) : Word :=
  let m : Word := BitVec.ofNat 64 ((2 ^ w - 1) * 2 ^ pos)
  (a &&& ~~~ m) ||| ((b <<< pos) &&& m)

/-- A control word of EXT or INS is legal (R119). -/
def ctlOk (c : Word) : Bool := (c &&& ~~~ BitVec.ofNat 64 0x13F3F) == 0
def ctlW (c : Word) : Nat := c.toNat % 64 + 1
def ctlPos (c : Word) : Nat := c.toNat / 256 % 64
def ctlS (c : Word) : Bool := c.getLsbD 16

/-- Byte permute of s1 (selectors 0 to 7) and s2 (8 to 15) under the nibbles of t (R120). -/
def bperm (s2 s1 t : Word) : Word :=
  BitVec.ofNat 64 (go 8)
where
  byte (k : Nat) : Nat :=
    let j := t.toNat / 2 ^ (4 * k) % 16
    if j < 8 then s1.toNat / 2 ^ (8 * j) % 256 else s2.toNat / 2 ^ (8 * (j - 8)) % 256
  go : Nat → Nat
    | 0 => 0
    | k + 1 => go k + byte k * 2 ^ (8 * k)

/-- One division step on D, P, Q: the new P and Q and the quotient bit (R122). -/
def divStep (d p q : Word) : Word × Word × Bool :=
  let w := p.toNat * 2 + b2n'' q.msb
  let q1 := q <<< 1
  if d.toNat ≤ w then (BitVec.ofNat 64 (w - d.toNat), q1 + 1, true) else (BitVec.ofNat 64 w, q1, false)
where
  b2n'' (c : Bool) : Nat := if c then 1 else 0

/-- Low and high halves of products (R112). -/
def mulLow (a b : Word) : Word := a * b
def mulHighU (a b : Word) : Word := BitVec.ofNat 64 (a.toNat * b.toNat / 2 ^ 64)
def mulHighS (a b : Word) : Word := BitVec.ofInt 64 ((a.toInt * b.toInt) / 2 ^ 64)

/-- The 16 branch conditions of BR to BLS (R112). -/
inductive Cond where
  | always | z | nz | n | nn | c | nc | v | nv | gt | le | ge | lt | hi | ls
  deriving DecidableEq, Repr

def condHolds (k : Cond) (f : Flags) : Bool :=
  match k with
  | .always => true
  | .z => f.z
  | .nz => !f.z
  | .n => f.n
  | .nn => !f.n
  | .c => f.c
  | .nc => !f.c
  | .v => f.v
  | .nv => !f.v
  | .gt => !f.z && (f.n == f.v)
  | .le => f.z || (f.n != f.v)
  | .ge => f.n == f.v
  | .lt => f.n != f.v
  | .hi => f.c && !f.z
  | .ls => !f.c || f.z

end Sys2Proof.Machine
end

