-- ==== Sys2Proof/Config.lean ====
section
/-! DEFINITION. What the spec leaves open: free values (opaque, no body), the secrets that keys are derived from, and the functions of
public-key cryptography, whose results its standards do not fix. -/
namespace Sys2Proof.Config

/-- Cycles a word waits for a counter slot, a line or a completion (R140), or TCLK in which other masters go on addressing a bank (R43): not
fixed by the state the model holds. Applied to the free counter. -/
opaque waits : Nat → Nat

/-- The master ports that address a bank in a TCLK beside those of the command at hand (R42): bit 4 × master code + port. Applied to the
free counter; only masters that are at work count (`atWork`). -/
opaque contenders : Nat → BitVec 52

/-- The banks that the sheet of a running round uses in a TCLK, where another access asks for them (R289). Applied to the free counter. -/
opaque sheetAccess : Nat → BitVec 16

/-- Outcome of reading a stored word with three or more failing bits (R712): 0 uncorrectable, 1 reported as a
correction, otherwise silent. Applied to the failing-bit pattern. -/
opaque wordOutcome : BitVec 76 → Nat

/-- The wrong word (data and tag) such a read delivers (R712). -/
opaque wrongWord : BitVec 76 → TWord → TWord

/-- The bit that such a read names when it reports a correction (R712). -/
opaque wrongBit : BitVec 76 → Nat

/-- Outcome of reading an HBM line with four or more failing symbols (R715), coded as `wordOutcome`. -/
opaque lineOutcome : BitVec 608 → Nat

/-- The symbol that such a read names when it reports a correction (R715). -/
opaque wrongSymbol : BitVec 608 → Nat

/-- The wrong line data and tags such a read delivers (R715). -/
opaque wrongLine : BitVec 608 → BitVec 512 → BitVec 32 → BitVec 512 × BitVec 32

/-- The unique device secret, fused at manufacture (R414). -/
opaque uds : BitVec 384

/-- The 256 bits of a draw of the DRBG (R426). -/
opaque drawBits : Nat → BitVec 256

/-- The export master secret of an SPDM session, from the secret of its exchange (R431). -/
opaque exportSecret : Nat → BitVec 384

/-- The x-coordinate of the shared point of a link's exchange: the draw of this end's ephemeral key, the peer's KEYSHARE (R437). -/
opaque sharedX : Nat → List (BitVec 512) → BitVec 384

/-- The bits of a key that no derivation gives: a private key, a key programmed through IDE_KM, a context of the postmaster or never
bound (R424, R427); data key below tweak key where it is a pair. -/
opaque keyBits : Key → BitVec 512

/-- The fuse-map digest, whose form the spec does not give: order code, revision, fused SVN, revoked roots, and the rows and units of the
hard repairs (R419, identity block). -/
opaque fuseDigest : Nat → BitVec 8 → BitVec 7 → BitVec 4 → List (Nat × Nat) → List (Nat × Nat) → BitVec 384

/-- SHA-384 of the firmware image that a flash device holds; where the image ends is its own layout (R419, measurement 2). -/
opaque imageDigest : List Word → BitVec 384

/-- SHA-384 of the boot ROM (R419, measurement 1). -/
opaque bootRomDigest : BitVec 384

/-- HSS/LMS verification by the boot ROM of postmaster A (false) or B of a firmware image under a fused root (R439). -/
opaque imageVerifies : Bool → BitVec 2 → List Word → Bool

/-- The SVN that a firmware image carries (R440). -/
opaque imageSvn : List Word → BitVec 7

/-- Whether a firmware image in flash is complete, so that FW_UPDATE verifies it: the image's own layout, which the spec does not give
(R441, R669). -/
opaque imageComplete : List Word → Bool

/-- Whether a firmware image reads the journal's format (R669, step 3). -/
opaque readsJournal : List Word → Bool

/-- A signature made by the Alias or DeviceID key over a transcript (R416, R417). -/
opaque sign : Key → List Word → List Word

/-- The private key, as a number, that KeyGen of FIPS 186-5 makes from a seed (R414). -/
opaque keyGen : BitVec 384 → BitVec 512

/-- The certificates of the Madasto root CA and device CA (R416). -/
opaque caChain : List Word

/-- The DeviceID certificate that a flash device holds since manufacture, from what stands in the device; where it stands is not given
(R416). -/
opaque deviceCert : List Word → List Word

/-- What the DeviceID key signs in the Alias certificate, for an Alias key (R416). -/
opaque aliasBody : Key → List Word

/-- The y coordinate of a requester's P-384 public key, from its x coordinate (R419). -/
opaque keyY : BitVec 384 → BitVec 384

/-- Words of a journal record, whose form the spec does not give: record number, word (R654, R716). -/
opaque journalWord : Nat → Nat → Word

/-- Lines of an outward transfer that PCIe takes before an error; there is none when it takes them all (R492). Applied to the free counter. -/
opaque pcieTakes : Nat → Nat

/-- Whether the host's translation agent has answered for an address of a function, so that a request may go out translated (R420):
tenant, address. -/
opaque atsHolds : Nat → Nat → Bool

/-- Whether a peer's certificate chain leads to the Madasto device CA, and its signature is one of the transcript (R437). -/
opaque chainAccepted : List (BitVec 512) → List Word → List (BitVec 512) → Bool

/-- What a HELLO body says, whose layout the spec does not give (R517): device ID, port, NAMED, FENCED. -/
opaque helloOf : List (BitVec 512) → BitVec 14 × BitVec 5 × Bool × Bool

/-- The HELLO body of this device for the same four. -/
opaque helloBody : BitVec 14 → Nat → Bool → Bool → List (BitVec 512)

/-- The body of a KEYSHARE letter: an ephemeral P-384 point from a DRBG draw (R437). -/
opaque keyshareBody : Nat → List (BitVec 512)

/-- The body of a RATE letter, whose layout the spec does not give: lane count, and the DOZE rate. -/
opaque rateBody : Nat → Bool → List (BitVec 512)

/-- Whether a RATE body announces the DOZE rate (R539). -/
opaque rateLow : List (BitVec 512) → Bool

/-- The contents of the staging area after an instruction with an HBM source (R261). -/
opaque stagingWord : Nat → TWord

/-- A value that the spec leaves open, by the model's counter: an element of VPERME's source past VL, an old word that nothing has read, and
the others of log 14. -/
opaque freeValue : Nat → Word

/-- Density of flash device 0 or 1 from SFDP, as log2 of bytes (spec 14, FL_STATUS): board dependent. -/
opaque flashSizeLog2 : Bool → BitVec 8

/-- The postmaster firmware's own descriptor table, which the spec does not give: segment, word. -/
opaque pmDescWord : Nat → Nat → Word

/-- Whether a stack has a hard post-package repair resource left for the cells of a unit (R355): pseudo-channel, unit, and the model's
counter. -/
opaque hardRepair : Nat → Nat → Nat → Bool

end Sys2Proof.Config
end

