-- ==== Sys2Proof/Machine/Tbl.lean ====
section
/-! DEFINITION. Sparse tables in one canonical form, and small list and bit-field helpers used by every block. -/
namespace Sys2Proof.Machine

open Sys2Proof

/-- What key k of the table holds: the listed value, or the default of the key. -/
def tget {α : Type} (d : Nat → α) : Tbl α → Nat → α
  | [], k => d k
  | (k', v) :: r, k => if k = k' then v else tget d r k

/-- Insert an entry before the first larger key. -/
def tins {α : Type} (k : Nat) (v : α) : Tbl α → Tbl α
  | [] => [(k, v)]
  | (k', v') :: r => if k < k' then (k, v) :: (k', v') :: r else (k', v') :: tins k v r

/-- The table with key k holding v. Writing the default removes the entry, so equal tables are equal data. -/
def tset {α : Type} [DecidableEq α] (d : Nat → α) (t : Tbl α) (k : Nat) (v : α) : Tbl α :=
  let r := t.filter (fun kv => kv.1 != k)
  if v = d k then r else tins k v r

/-- Map over a sparse table, keeping the canonical form. -/
def tmap {α : Type} [DecidableEq α] (d : α) (f : α → α) (t : Tbl α) : Tbl α :=
  (t.map (fun kv => (kv.1, f kv.2))).filter (fun kv => decide (kv.2 ≠ d))

/-- The keys of a table lie above `lo`, rise strictly, and no entry equals its default. -/
def twfFrom {α : Type} [DecidableEq α] (d : Nat → α) : Nat → Tbl α → Bool
  | _, [] => true
  | lo, (k, v) :: r => decide (lo ≤ k) && (decide (v ≠ d k) && twfFrom d (k + 1) r)

/-- Canonical form of a table. -/
def twf {α : Type} [DecidableEq α] (d : Nat → α) (t : Tbl α) : Bool := twfFrom d 0 t

/-- Fields hi to lo of a 32-bit register value, as a number. -/
def fld (x : BitVec 32) (hi lo : Nat) : Nat := (x.toNat >>> lo) % 2 ^ (hi - lo + 1)

/-- The bits hi to lo set. -/
def maskOf (hi lo : Nat) : BitVec 32 := BitVec.ofNat 32 ((2 ^ (hi - lo + 1) - 1) * 2 ^ lo)

/-- x with bits hi to lo replaced by v. -/
def setFld (x : BitVec 32) (hi lo v : Nat) : BitVec 32 :=
  (x &&& ~~~ maskOf hi lo) ||| (BitVec.ofNat 32 (v * 2 ^ lo) &&& maskOf hi lo)

/-- Bit b of a register value. -/
def bit (x : BitVec 32) (b : Nat) : Bool := x.getLsbD b

/-- x with bit b set. -/
def setBit (x : BitVec 32) (b : Nat) : BitVec 32 := x ||| maskOf b b

/-- x with bit b clear. -/
def clrBit (x : BitVec 32) (b : Nat) : BitVec 32 := x &&& ~~~ maskOf b b

/-- x with bit b equal to v. -/
def putBit (x : BitVec 32) (b : Nat) (v : Bool) : BitVec 32 := if v then setBit x b else clrBit x b

/-- Bits hi to lo of a 64-bit word, as a number. -/
def wfld (x : Word) (hi lo : Nat) : Nat := (x.toNat >>> lo) % 2 ^ (hi - lo + 1)

/-- A flag as a number. -/
def b2n (b : Bool) : Nat := if b then 1 else 0

/-- The first element of a list at which p holds, with its index counted from n. -/
def findFrom {α : Type} (p : α → Bool) : Nat → List α → Option (Nat × α)
  | _, [] => none
  | n, a :: r => if p a then some (n, a) else findFrom p (n + 1) r

/-- The list with element i replaced, when there is one. -/
def setAt {α : Type} : List α → Nat → α → List α
  | [], _, _ => []
  | _ :: r, 0, v => v :: r
  | a :: r, n + 1, v => a :: setAt r n v

/-- Element i of a list, or d. -/
def nthD {α : Type} (d : α) : List α → Nat → α
  | [], _ => d
  | a :: _, 0 => a
  | _ :: r, n + 1 => nthD d r n

/-- Word i of an image, zero past its end. -/
def wordAt (ws : List Word) (i : Nat) : Word := nthD 0 ws i

/-- Add an element to a duplicate-free list. -/
def addOnce (l : List Nat) (n : Nat) : List Nat := if n ∈ l then l else l ++ [n]

/-- Remove an element. -/
def dropAll (l : List Nat) (n : Nat) : List Nat := l.filter (fun m => m != n)

/-- Apply f to 0, 1, …, n − 1 in order. -/
def forN {σ : Type} : Nat → (Nat → σ → σ) → σ → σ
  | 0, _, s => s
  | n + 1, f, s => f n (forN n f s)

/-- Apply f along a list, in order. -/
def forL {α σ : Type} : List α → (α → σ → σ) → σ → σ
  | [], _, s => s
  | a :: r, f, s => forL r f (f a s)

/-- Ceiling division. -/
def cdiv (a b : Nat) : Nat := (a + b - 1) / b

/-- Integer log2 test: n is a power of two. -/
def isPow2 (n : Nat) : Bool := n != 0 && (n &&& (n - 1)) == 0

end Sys2Proof.Machine
end

