-- ==== Sys2Proof/Machine/Cipher.lean ====
section
/-! DEFINITION. What lies in the cells of an HBM line: AES-256 in XTS mode over its data (R330; FIPS 197, IEEE 1619) and the
Reed-Solomon check symbols over ciphertext and tags (R331). -/
namespace Sys2Proof.Machine

open Sys2Proof

/-! ### AES-256 (FIPS 197), on bytes as numbers -/

def xtime (a : Nat) : Nat := if a < 128 then 2 * a else (2 * a) ^^^ 0x11B

/-- Product in GF(2^8); the first argument counts bits. -/
def gmul8 : Nat → Nat → Nat → Nat
  | 0, _, _ => 0
  | n + 1, a, b => (if b % 2 = 1 then a else 0) ^^^ gmul8 n (xtime a) (b / 2)

def mul8 (a b : Nat) : Nat := gmul8 8 a b

/-- The inverse in GF(2^8), 0 for 0: the power 254. -/
def inv8 (a : Nat) : Nat := (forN 7 (fun _ x => let q := mul8 x.1 x.1; (q, mul8 x.2 q)) (a, 1)).2

def rot8 (a n : Nat) : Nat := (a * 2 ^ n + a / 2 ^ (8 - n)) % 256

def sbox (a : Nat) : Nat := let b := inv8 a; b ^^^ rot8 b 1 ^^^ rot8 b 2 ^^^ rot8 b 3 ^^^ rot8 b 4 ^^^ 0x63
def invSbox (b : Nat) : Nat := inv8 (rot8 b 1 ^^^ rot8 b 3 ^^^ rot8 b 6 ^^^ 0x05)

def xorList (a b : List Nat) : List Nat := List.zipWith (· ^^^ ·) a b

def shiftRows (l : List Nat) : List Nat := (List.range 16).map (fun i => nthD 0 l ((i + 4 * (i % 4)) % 16))
def invShiftRows (l : List Nat) : List Nat := (List.range 16).map (fun i => nthD 0 l ((i + 16 - 4 * (i % 4)) % 16))

/-- Each column times the circulant matrix with the given first row. -/
def mixColumns (row l : List Nat) : List Nat :=
  (List.range 16).map (fun i => forN 4 (fun k a => a ^^^ mul8 (nthD 0 row ((k + 4 - i % 4) % 4)) (nthD 0 l (i / 4 * 4 + k))) 0)

/-- Word i of the expanded key, from the words before it. -/
def nextKeyWord (i : Nat) (w : List (List Nat)) : List Nat :=
  let t := nthD [] w (i - 1)
  let u := if i % 8 = 0 then xorList ((t.drop 1 ++ t.take 1).map sbox) [2 ^ (i / 8 - 1), 0, 0, 0]
    else if i % 8 = 4 then t.map sbox else t
  xorList (nthD [] w (i - 8)) u

/-- The 15 round keys of a 32-byte key. -/
def roundKeys (key : List Nat) : List (List Nat) :=
  let w0 := (List.range 8).map (fun i => (key.drop (4 * i)).take 4)
  let w := forN 52 (fun i w => w ++ [nextKeyWord (i + 8) w]) w0
  (List.range 15).map (fun i => ((w.drop (4 * i)).take 4).flatten)

/-- The AES-256 cipher on a block of 16 bytes. -/
def aesEncrypt (ks : List (List Nat)) (b : List Nat) : List Nat :=
  let x := forN 13 (fun i x => xorList (mixColumns [2, 3, 1, 1] (shiftRows (x.map sbox))) (nthD [] ks (i + 1))) (xorList b (nthD [] ks 0))
  xorList (shiftRows (x.map sbox)) (nthD [] ks 14)

/-- Its inverse. -/
def aesDecrypt (ks : List (List Nat)) (b : List Nat) : List Nat :=
  let x := forN 13 (fun i x => mixColumns [14, 11, 13, 9] (xorList ((invShiftRows x).map invSbox) (nthD [] ks (13 - i))))
    (xorList b (nthD [] ks 14))
  xorList ((invShiftRows x).map invSbox) (nthD [] ks 0)

/-! ### XTS (IEEE 1619) over the 64 bytes of a line -/

/-- Byte i of a number, and a number from its bytes. -/
def byteOf (x i : Nat) : Nat := x / 2 ^ (8 * i) % 256
def toBytes (n x : Nat) : List Nat := (List.range n).map (byteOf x)
def ofBytes (l : List Nat) : Nat := forN l.length (fun i a => a + nthD 0 l i * 2 ^ (8 * i)) 0

/-- A tweak times the primitive element of GF(2^128). -/
def tweakNext (t : Nat) : Nat := (2 * t) % 2 ^ 128 ^^^ (if t < 2 ^ 127 then 0 else 0x87)

/-- The four blocks of a line under the block function f of the data key; the tweak key encrypts the tweak. -/
def xtsLine (f : List Nat → List Nat) (tweakKeys : List (List Nat)) (tw : Nat) (d : BitVec 512) : BitVec 512 :=
  let t0 := ofBytes (aesEncrypt tweakKeys (toBytes 16 tw))
  BitVec.ofNat 512 (forN 4 (fun j a =>
    let t := forN j (fun _ t => tweakNext t) t0
    let p := d.toNat / 2 ^ (128 * j) % 2 ^ 128
    a + (ofBytes (f (toBytes 16 (p ^^^ t))) ^^^ t) * 2 ^ (128 * j)) 0)

/-- The data key and the tweak key of a cipher context (R428). -/
def dataKeys (k : BitVec 512) : List (List Nat) := roundKeys (toBytes 32 k.toNat)
def tweakKeys (k : BitVec 512) : List (List Nat) := roundKeys (toBytes 32 (k.toNat / 2 ^ 256))

def xtsEncrypt (k : BitVec 512) (tw : Nat) (d : BitVec 512) : BitVec 512 := xtsLine (aesEncrypt (dataKeys k)) (tweakKeys k) tw d
def xtsDecrypt (k : BitVec 512) (tw : Nat) (d : BitVec 512) : BitVec 512 := xtsLine (aesDecrypt (dataKeys k)) (tweakKeys k) tw d

/-! ### The Reed-Solomon code over GF(2^16) (R331) -/

/-- Product in GF(2^16) under x^16 + x^12 + x^3 + x + 1; the first argument counts bits. -/
def gmul16 : Nat → Nat → Nat → Nat
  | 0, _, _ => 0
  | n + 1, a, b => (if b % 2 = 1 then a else 0) ^^^ gmul16 n (if a < 2 ^ 15 then 2 * a else (2 * a) ^^^ 0x1100B) (b / 2)

def mul16 (a b : Nat) : Nat := gmul16 16 a b

/-- Powers of the root α. -/
def alphaPow (n : Nat) : Nat := forN n (fun _ a => mul16 a 2) 1

/-- The inverse in GF(2^16): the power 2^16 − 2. -/
def inv16 (a : Nat) : Nat := (forN 15 (fun _ x => let q := mul16 x.1 x.1; (q, mul16 x.2 q)) (a, 1)).2

/-- Sum of c_j α^(i j) over the symbols at hand. -/
def syndrome (i : Nat) (cs : List Nat) : Nat := (cs.foldr (fun c a => mul16 a (alphaPow i) ^^^ c) 0)

/-- A line is correct when its four sums are 0. -/
def codeCorrect (cs : List Nat) : Bool := (List.range 4).all (fun i => syndrome i cs == 0)

/-- Check symbol 34 + k: the value at α^(34 + k) of the four unknowns that cancel the sums of the other symbols. -/
def checkSymbol (d : List Nat) (k : Nat) : Nat :=
  let x := alphaPow (34 + k)
  let o := ((List.range 4).filter (· != k)).map (fun m => alphaPow (34 + m))
  let a := nthD 0 o 0
  let b := nthD 0 o 1
  let c := nthD 0 o 2
  let cs := [mul16 a (mul16 b c), mul16 a b ^^^ mul16 a c ^^^ mul16 b c, a ^^^ b ^^^ c, 1]
  let num := forN 4 (fun i z => z ^^^ mul16 (nthD 0 cs i) (syndrome i d)) 0
  mul16 num (inv16 (mul16 (x ^^^ a) (mul16 (x ^^^ b) (x ^^^ c))))

/-- The 34 symbols of ciphertext and tags. -/
def lineSymbols (c : BitVec 512) (t : BitVec 32) : List Nat :=
  (List.range 34).map (fun j => (t.toNat * 2 ^ 512 + c.toNat) / 2 ^ (16 * j) % 65536)

/-- The four check symbols that the controller computes on a write. -/
def checkSymbols (c : BitVec 512) (t : BitVec 32) : List Nat := (List.range 4).map (checkSymbol (lineSymbols c t))

end Sys2Proof.Machine
end

