-- ==== Sys2Proof/Machine/Kdf.lean ====
section
/-! DEFINITION. The hash, the key derivations and the authentication tag that the spec names by their standards: SHA-384 (FIPS 180-4), HMAC
(FIPS 198-1), the counter-mode KDF (SP 800-108), HKDF (RFC 5869) and AES-256-GCM (SP 800-38D), over bytes (R414, R415,
R428, R431, R432, R437, R505). -/
namespace Sys2Proof.Machine

open Sys2Proof

/-! ### SHA-384 -/

/-- The 80 constants: fractional parts of the cube roots of the first primes. -/
def shaConst : List Nat :=
  [0x428A2F98D728AE22, 0x7137449123EF65CD, 0xB5C0FBCFEC4D3B2F, 0xE9B5DBA58189DBBC,
   0x3956C25BF348B538, 0x59F111F1B605D019, 0x923F82A4AF194F9B, 0xAB1C5ED5DA6D8118,
   0xD807AA98A3030242, 0x12835B0145706FBE, 0x243185BE4EE4B28C, 0x550C7DC3D5FFB4E2,
   0x72BE5D74F27B896F, 0x80DEB1FE3B1696B1, 0x9BDC06A725C71235, 0xC19BF174CF692694,
   0xE49B69C19EF14AD2, 0xEFBE4786384F25E3, 0x0FC19DC68B8CD5B5, 0x240CA1CC77AC9C65] ++
  [0x2DE92C6F592B0275, 0x4A7484AA6EA6E483, 0x5CB0A9DCBD41FBD4, 0x76F988DA831153B5,
   0x983E5152EE66DFAB, 0xA831C66D2DB43210, 0xB00327C898FB213F, 0xBF597FC7BEEF0EE4,
   0xC6E00BF33DA88FC2, 0xD5A79147930AA725, 0x06CA6351E003826F, 0x142929670A0E6E70,
   0x27B70A8546D22FFC, 0x2E1B21385C26C926, 0x4D2C6DFC5AC42AED, 0x53380D139D95B3DF,
   0x650A73548BAF63DE, 0x766A0ABB3C77B2A8, 0x81C2C92E47EDAEE6, 0x92722C851482353B] ++
  [0xA2BFE8A14CF10364, 0xA81A664BBC423001, 0xC24B8B70D0F89791, 0xC76C51A30654BE30,
   0xD192E819D6EF5218, 0xD69906245565A910, 0xF40E35855771202A, 0x106AA07032BBD1B8,
   0x19A4C116B8D2D0C8, 0x1E376C085141AB53, 0x2748774CDF8EEB99, 0x34B0BCB5E19B48A8,
   0x391C0CB3C5C95A63, 0x4ED8AA4AE3418ACB, 0x5B9CCA4F7763E373, 0x682E6FF3D6B2B8A3,
   0x748F82EE5DEFB2FC, 0x78A5636F43172F60, 0x84C87814A1F0AB72, 0x8CC702081A6439EC] ++
  [0x90BEFFFA23631E28, 0xA4506CEBDE82BDE9, 0xBEF9A3F7B2C67915, 0xC67178F2E372532B,
   0xCA273ECEEA26619C, 0xD186B8C721C0C207, 0xEADA7DD6CDE0EB1E, 0xF57D4F7FEE6ED178,
   0x06F067AA72176FBA, 0x0A637DC5A2C898A6, 0x113F9804BEF90DAE, 0x1B710B35131C471B,
   0x28DB77F523047D84, 0x32CAAB7B40C72493, 0x3C9EBE0A15C9BEBC, 0x431D67C49C100D4C,
   0x4CC5D4BECB3E42B6, 0x597F299CFC657E2A, 0x5FCB6FAB3AD6FAEC, 0x6C44198C4A475817]

/-- The initial hash value: fractional parts of the square roots of the ninth to the sixteenth prime. -/
def shaInit : List Nat :=
  [0xCBBB9D5DC1059ED8, 0x629A292A367CD507, 0x9159015A3070DD17, 0x152FECD8F70E5939,
   0x67332667FFC00B31, 0x8EB44A8768581511, 0xDB0C2E0D64F98FA7, 0x47B5481DBEFA4FA4]

/-- A sum modulo 2^64, a rotation right and a shift right. -/
def add64 (a b : Nat) : Nat := (a + b) % 2 ^ 64
def rotr64 (a n : Nat) : Nat := a / 2 ^ n + a * 2 ^ (64 - n) % 2 ^ 64

def bigSigma (i j k a : Nat) : Nat := rotr64 a i ^^^ rotr64 a j ^^^ rotr64 a k
def smallSigma (i j k a : Nat) : Nat := rotr64 a i ^^^ rotr64 a j ^^^ (a / 2 ^ k)

/-- Word t of the message schedule, from the words before it. -/
def schedWord (w : List Nat) (t : Nat) : Nat :=
  add64 (add64 (smallSigma 19 61 6 (nthD 0 w (t - 2))) (nthD 0 w (t - 7))) (add64 (smallSigma 1 8 7 (nthD 0 w (t - 15))) (nthD 0 w (t - 16)))

/-- One round on the working variables a to h, with its constant and its schedule word. -/
def shaRound (v : List Nat) (k w : Nat) : List Nat :=
  match v with
  | [a, b, c, d, e, f, g, h] =>
    let ch := (e &&& f) ^^^ ((2 ^ 64 - 1 - e) &&& g)
    let maj := (a &&& b) ^^^ (a &&& c) ^^^ (b &&& c)
    let t1 := add64 (add64 (add64 h (bigSigma 14 18 41 e)) ch) (add64 k w)
    [add64 t1 (add64 (bigSigma 28 34 39 a) maj), a, b, c, add64 d t1, e, f, g]
  | _ => v

/-- A number of n bytes from its bytes, most significant first, and back. -/
def beNat (l : List Nat) : Nat := l.foldl (fun a b => 256 * a + b) 0
def beBytes (n x : Nat) : List Nat := (toBytes n x).reverse

/-- One block of 128 bytes joins the hash value. -/
def shaBlock (h m : List Nat) : List Nat :=
  let w0 := (List.range 16).map (fun i => beNat ((m.drop (8 * i)).take 8))
  let w := forN 64 (fun i w => w ++ [schedWord w (i + 16)]) w0
  List.zipWith add64 h ((List.zip shaConst w).foldl (fun v kw => shaRound v kw.1 kw.2) h)

/-- The message with its padding. -/
def shaPad (m : List Nat) : List Nat :=
  m ++ [0x80] ++ List.replicate ((239 - m.length % 128) % 128) 0 ++ beBytes 16 (8 * m.length)

/-- SHA-384 of a list of bytes: 48 bytes. -/
def sha384Bytes (m : List Nat) : List Nat :=
  let p := shaPad m
  let h := forN (p.length / 128) (fun i h => shaBlock h ((p.drop (128 * i)).take 128)) shaInit
  (h.take 6).flatMap (beBytes 8)

/-- The bytes of words, each least significant byte first. -/
def wordBytes (ws : List Word) : List Nat := ws.flatMap (fun w => toBytes 8 w.toNat)

/-- SHA-384 of words; byte 0 of the digest is the least significant. -/
def sha384 (ws : List Word) : BitVec 384 := BitVec.ofNat 384 (ofBytes (sha384Bytes (wordBytes ws)))

/-! ### HMAC, KDF, HKDF -/

/-- HMAC-SHA-384 under a key of bytes. -/
def hmac384 (k m : List Nat) : List Nat :=
  let k0 := if 128 < k.length then sha384Bytes k else k
  let k1 := k0 ++ List.replicate (128 - k0.length) 0
  sha384Bytes (k1.map (· ^^^ 0x5C) ++ sha384Bytes (k1.map (· ^^^ 0x36) ++ m))

/-- KDF(K, label) for L bits: blocks HMAC(K, [i] ‖ label ‖ 0x00 ‖ [L]), their first L bits (R415). -/
def kdf (k label : List Nat) (bits : Nat) : List Nat :=
  ((List.range (cdiv bits 384)).flatMap (fun i => hmac384 k (beBytes 4 (i + 1) ++ label ++ [0] ++ beBytes 4 bits))).take (bits / 8)

/-- HKDF-Expand for up to 48 bytes: its first block. -/
def hkdfExpand (prk info : List Nat) (n : Nat) : List Nat := (hmac384 prk (info ++ [1])).take n
/-- HKDF with a salt. -/
def hkdf (salt ikm info : List Nat) (n : Nat) : List Nat := hkdfExpand (hmac384 salt ikm) info n

/-- The ASCII bytes of a label. -/
def ascii (t : String) : List Nat := t.toList.map Char.toNat

/-! ### GCM -/

/-- Product in GF(2^128) as GCM orders the bits, of blocks read as big-endian numbers; the first argument counts bits. -/
def gcmMul (x : Nat) : Nat → Nat → Nat → Nat
  | 0, z, _ => z
  | n + 1, z, v =>
    gcmMul x n (if x.testBit n then z ^^^ v else z) (v / 2 ^^^ (if v % 2 = 1 then 0xE1 * 2 ^ 120 else 0))

/-- GHASH of a list of blocks under H. -/
def ghash (h : Nat) (bs : List Nat) : Nat := bs.foldl (fun y b => gcmMul (y ^^^ b) 128 0 h) 0

/-- Bytes as blocks of 16, the last filled with zeros. -/
def gcmBlocks (m : List Nat) : List Nat :=
  (List.range (cdiv m.length 16)).map (fun i => let b := (m.drop (16 * i)).take 16; beNat (b ++ List.replicate (16 - b.length) 0))

/-- The AES-256-GCM tag: key of 32 bytes, nonce of 12, additional authenticated data, ciphertext. -/
def gcmTagBytes (key nonce aad ct : List Nat) : List Nat :=
  let ks := roundKeys key
  let h := beNat (aesEncrypt ks (List.replicate 16 0))
  let s := ghash h (gcmBlocks aad ++ gcmBlocks ct ++ [8 * aad.length * 2 ^ 64 + 8 * ct.length])
  xorList (beBytes 16 s) (aesEncrypt ks (nonce ++ [0, 0, 0, 1]))

/-- GCM's counter mode, which encrypts and decrypts. -/
def gcmStream (key nonce m : List Nat) : List Nat :=
  let ks := roundKeys key
  (List.range (cdiv m.length 16)).flatMap (fun i => xorList ((m.drop (16 * i)).take 16) (aesEncrypt ks (nonce ++ beBytes 4 (i + 2))))

/-! ### Keys -/

/-- The seed of the DeviceID key: KDF(UDS, "TN9 DeviceID") (R414, R415). -/
def deviceSeed : BitVec 384 := BitVec.ofNat 384 (ofBytes (kdf (toBytes 48 Config.uds.toNat) (ascii "TN9 DeviceID") 384))

/-- The bits of a key as a number, least significant byte first: what its derivation gives (R414, R415, R428, R431, R437), or, of a key that
is drawn, generated or programmed, a free value. -/
def keyBits : Key → BitVec 512
  | .draw n => (Config.drawBits n).setWidth 512
  | .hbm n i g => BitVec.ofNat 512 (ofBytes (kdf (toBytes 32 (Config.drawBits n).toNat) (ascii "TN9 HBM" ++ [i % 256] ++ toBytes 4 g) 512))
  | .franking secret => BitVec.ofNat 512 (ofBytes (hkdfExpand (toBytes 48 (Config.exportSecret secret).toNat) (ascii "TN9 franking") 32))
  | .storage => BitVec.ofNat 512 (ofBytes (kdf (toBytes 48 Config.uds.toNat) (ascii "TN9 Storage") 256))
  | .link salt secret second =>
    BitVec.ofNat 512 (ofBytes (hkdf (toBytes 48 salt.toNat) (toBytes 48 secret.toNat) (ascii "TN9 link" ++ [b2n second]) 32))
  | .deviceId => Config.keyGen deviceSeed
  | .aliasOf seed => Config.keyGen seed
  | k => Config.keyBits k

/-- The seed of the Alias key: KDF(CDI, "TN9 Alias"), the CDI from the UDS, the firmware digest, its SVN and the fuse-map digest (R414,
R415). -/
def aliasSeed (firmware : BitVec 384) (svn : Nat) (fuses : BitVec 384) : BitVec 384 :=
  let cdi := hmac384 (kdf (toBytes 48 Config.uds.toNat) (ascii "TN9 CDI") 384)
    (toBytes 48 firmware.toNat ++ [svn % 256] ++ toBytes 48 fuses.toNat)
  BitVec.ofNat 384 (ofBytes (kdf cdi (ascii "TN9 Alias") 384))

/-- The franking tag of words under a key (R432). -/
def gcmTag (k : Key) (nonce : BitVec 96) (ws : List Word) : BitVec 128 :=
  BitVec.ofNat 128 (ofBytes (gcmTagBytes (toBytes 32 (keyBits k).toNat) (toBytes 12 nonce.toNat) (wordBytes ws) []))

/-! ### The seal of a frame (R505) -/

/-- The bytes of cells, and cells from bytes. -/
def cellBytes (cs : List (BitVec 512)) : List Nat := cs.flatMap (fun c => toBytes 64 c.toNat)
def bytesCells (n : Nat) (l : List Nat) : List (BitVec 512) := (List.range n).map (fun i => BitVec.ofNat 512 (ofBytes ((l.drop (64 * i)).take 64)))

/-- Cells under a key and a batch number: encrypted, or decrypted. -/
def sealCells (k : Key) (batch : Nat) (cs : List (BitVec 512)) : List (BitVec 512) :=
  bytesCells cs.length (gcmStream (toBytes 32 (keyBits k).toNat) (toBytes 12 batch) (cellBytes cs))

/-- The tag of a frame with encrypted cells: bytes 960 to 983 are authenticated beside them. -/
def frameTag (k : Key) (batch : Nat) (desc : BitVec 128) (control : Word) (cs : List (BitVec 512)) : BitVec 128 :=
  BitVec.ofNat 128 (ofBytes (gcmTagBytes (toBytes 32 (keyBits k).toNat) (toBytes 12 batch)
    (toBytes 16 desc.toNat ++ toBytes 8 control.toNat) (cellBytes cs)))

end Sys2Proof.Machine
end

