-- ==== Sys2Proof/Machine/RegMap.lean ====
section
/-! DEFINITION. Register field kinds (R12), the field lists of every register block, and the generic write of a register
(R603 to R605). -/
namespace Sys2Proof.Machine

open Sys2Proof

/-- Field kinds of R12. Hardware-written fields whose software write replaces them (CTR, HWA) are `rw` here. -/
inductive FKind where
  | rw | ro | wo | w1c | w1s
  deriving DecidableEq, Repr

/-- One field of a register: bits, kind, reset value, and its reserved values. -/
structure Fld where
  hi : Nat
  lo : Nat
  kind : FKind
  reset : Nat
  bad : Nat → Bool

/-- A register is the list of its fields; bits in no field are reserved. -/
abbrev RegSpec := List Fld

def fRW (hi lo : Nat) (r : Nat := 0) (bad : Nat → Bool := fun _ => false) : Fld := ⟨hi, lo, .rw, r, bad⟩
def fRO (hi lo : Nat) (r : Nat := 0) : Fld := ⟨hi, lo, .ro, r, fun _ => false⟩
def fWO (hi lo : Nat) : Fld := ⟨hi, lo, .wo, 0, fun _ => false⟩
def fC (hi lo : Nat) : Fld := ⟨hi, lo, .w1c, 0, fun _ => false⟩
def fS (hi lo : Nat) : Fld := ⟨hi, lo, .w1s, 0, fun _ => false⟩

/-- Reset value of a register. -/
def specReset (sp : RegSpec) : BitVec 32 := sp.foldl (fun x f => setFld x f.hi f.lo f.reset) 0

/-- One field of a write: the new register value, and whether a reserved value was rejected. -/
def fieldWrite (d : BitVec 32) (acc : BitVec 32 × Bool) (f : Fld) : BitVec 32 × Bool :=
  let v := fld d f.hi f.lo
  match f.kind with
  | .rw => if f.bad v then (acc.1, true) else (setFld acc.1 f.hi f.lo v, acc.2)
  | .ro => acc
  | .wo => acc
  | .w1c => (acc.1 &&& ~~~ (d &&& maskOf f.hi f.lo), acc.2)
  | .w1s => (acc.1 ||| (d &&& maskOf f.hi f.lo), acc.2)

/-- The bits of a register that belong to a field. -/
def specBits (sp : RegSpec) : BitVec 32 := sp.foldl (fun x f => x ||| maskOf f.hi f.lo) 0

/-- A software write of d to a register holding old: reserved values leave their field (R603), a non-zero reserved bit
stays zero (R604), RO and WO fields keep what they hold (R605). The Bool says that the block's CFG_REJECT is set. -/
def regWrite (sp : RegSpec) (old d : BitVec 32) : BitVec 32 × Bool :=
  let r := sp.foldl (fieldWrite d) (old, false)
  (r.1, r.2 || (d &&& ~~~ specBits sp) != 0)

/-- Whether a write would place a reserved value or a reserved bit (R581's whole-register refusal). -/
def regBad (sp : RegSpec) (d : BitVec 32) : Bool :=
  sp.any (fun f => (match f.kind with | .rw => f.bad (fld d f.hi f.lo) | _ => false)) || (d &&& ~~~ specBits sp) != 0

/-! ### Tile block (TS, TX, TV, TR, TF, TA) -/

def badOwner (v : Nat) : Bool := v == 0xD || v == 0xE
def badFlip (v : Nat) : Bool := decide (76 ≤ v) && v != 0x7F

/-- Registers of a tile block by offset; `held`: the tile is assigned (R86). -/
def tileSpec (held : Bool) (off : Nat) : RegSpec :=
  if off < 0x200 then
    if off = 0x000 then [fRO 26 24, fRO 20 16, fRO 15 8]
    else if off = 0x004 then [fC 6 2, fRO 1 0]
    else if off = 0x008 then [fRW 15 0 0 (fun v => held && v == 0)]
    else if off = 0x010 ∨ off = 0x014 then
      [fRW 31 28 0xF badOwner, fRW 27 24 0xF badOwner, fRW 23 20 0xF badOwner, fRW 19 16 0xF badOwner,
       fRW 15 12 0xF badOwner, fRW 11 8 0xF badOwner, fRW 7 4 0xF badOwner, fRW 3 0 0xF badOwner]
    else if off = 0x018 ∨ off = 0x01C then [fRO 31 0 0xFFFFFFFF]
    else if 0x040 ≤ off ∧ off ≤ 0x070 then [fRW 31 0]
    else if off = 0x074 then [fC 12 0]
    else if 0x080 ≤ off ∧ off ≤ 0x0BC then [fRW 15 0]
    else if off = 0x0E0 then [fS 31 31, fRW 30 27, fRW 26 17, fRO 16 15, fRO 5 0]
    else if off = 0x0E4 then [fS 31 31]
    else if off = 0x0E8 then [fRW 31 31 1, fRW 15 0 0x0400 (fun v => v == 0)]
    else if off = 0x0F0 then [fRW 31 16, fWO 15 15, fRO 3 0]
    else if off = 0x0F4 then [fRO 31 31, fRO 30 27, fRO 26 17, fRO 16 12, fRO 11 8]
    else if off = 0x0F8 then [fS 31 31, fRW 22 19, fRW 18 9, fRW 8 4]
    else if off = 0x0FC then [fRW 13 7 0x7F badFlip, fRW 6 0 0x7F badFlip]
    else if 0x100 ≤ off ∧ off < 0x180 then (if off % 8 = 0 then [fRO 31 1] else [fRO 31 0])
    else []
  else if off < 0x300 then
    if off = 0x200 then [fS 1 1, fWO 0 0]
    else if off = 0x204 then [fC 31 31, fRO 19 16, fRO 15 8 0xFF, fRO 6 3 8, fRO 1 0]
    else if off = 0x208 then [fS 31 31, fRW 30 30, fRW 11 0]
    else if off = 0x20C then [fRW 31 16, fRW 15 0]
    else if off = 0x210 then [fRW 7 0]
    else []
  else if off < 0x400 then
    if off = 0x300 then [fC 4 0]
    else if off = 0x304 then [fRW 5 3 1 (fun v => v == 0 || decide (5 ≤ v)), fRW 2 2]
    else if off = 0x308 then [fC 4 0]
    else if off = 0x30C then [fRO 31 24, fRO 19 0]
    else if off = 0x310 then [fRW 15 0 0x0FFF (fun v => decide (v ≤ 0x3E))]
    else if off = 0x314 then [fRW 31 31, fRW 21 16]
    else if off = 0x318 then [fRO 31 20, fRO 16 0]
    else if off = 0x31C then [fRO 15 4]
    else if 0x340 ≤ off ∧ off ≤ 0x37C then [fRW 16 0 0 (fun v => v % 256 != 0)]
    else []
  else if off < 0x500 then
    if off = 0x400 then [fC 4 0]
    else if off = 0x404 then [fRO 11 8 0xF, fRO 2 0]
    else if off = 0x408 then [fRO 31 0]
    else if off = 0x40C then [fWO 15 8, fRO 7 0]
    else if off = 0x410 then [fRO 31 0]
    else if off = 0x414 then [fRO 31 31, fRO 13 0]
    else if off = 0x418 then [fRW 31 0]
    else if off = 0x41C then [fRO 15 0]
    else if off = 0x420 then [fRW 31 0]
    else if off = 0x424 then [fRW 31 16, fRW 15 0]
    else []
  else if off < 0x600 then
    if off = 0x500 then [fRW 3 2 0 (fun v => v == 3), fRW 1 0 2 (fun v => v == 3)]
    else if off = 0x504 then [fC 4 0]
    else if off = 0x508 then [fRO 15 0]
    else if off = 0x50C then [fRW 31 16, fRW 15 0]
    else if off = 0x510 then [fRW 31 0]
    else if off = 0x514 then [fRW 31 16, fWO 15 15, fRO 3 0]
    else if 0x520 ≤ off ∧ off ≤ 0x53C then [fRO 20 0]
    else if 0x580 ≤ off ∧ off ≤ 0x5FC then (if off % 8 = 0 then [fRO 31 5] else [fRO 31 0])
    else []
  else if off < 0x700 then
    if off = 0x600 then
      [fS 31 31, fRW 30 29 0 (fun v => v == 3), fRW 28 28, fRW 27 14, fRW 13 10 1, fRW 9 6 1]
    else if off = 0x604 then [fC 10 8, fRO 7 0]
    else if off = 0x608 then [fRW 31 3]
    else if off = 0x60C then [fRW 31 20, fRW 15 0]
    else if 0x610 ≤ off ∧ off ≤ 0x61C then [fRW 31 0]
    else []
  else []

/-- What the tenant's own tile sequencer may do at a tile-block offset: read, write (R84, R190, R266, R317, R399, the
summary of TA). Unlisted offsets read as zero and ignore writes (R83). -/
def tenantAccess (off : Nat) : Bool × Bool :=
  if off < 0x200 then
    if off = 0x000 ∨ off = 0x004 ∨ off = 0x008 ∨ off = 0x018 ∨ off = 0x01C then (true, false)
    else if off = 0x010 ∨ off = 0x014 then (true, true)
    else if 0x040 ≤ off ∧ off ≤ 0x074 then (true, true)
    else if 0x080 ≤ off ∧ off ≤ 0x0BC then (true, false)
    else if (tileSpec true off).isEmpty then (true, true)
    else (false, false)
  else if off < 0x300 then
    if off = 0x204 ∨ off = 0x20C then (true, false)
    else if (tileSpec true off).isEmpty then (true, true) else (false, false)
  else if off < 0x400 then
    if off = 0x30C ∨ off = 0x318 ∨ off = 0x31C then (true, false)
    else if 0x340 ≤ off ∧ off ≤ 0x37C then (false, false) else (true, true)
  else if off < 0x500 then
    if off = 0x400 ∨ off = 0x40C ∨ off = 0x420 ∨ off = 0x424 then (true, true)
    else if off = 0x418 then (false, false)
    else if (tileSpec true off).isEmpty then (true, true) else (true, false)
  else if off < 0x600 then
    if off = 0x500 ∨ off = 0x504 then (true, true)
    else if (tileSpec true off).isEmpty then (true, true) else (true, false)
  else (true, true)

/-! ### HBM controller -/

def badSym (v : Nat) : Bool := decide (38 ≤ v) && v != 0x3F
def badCelsius (v : Nat) : Bool := decide (v ≤ 0x27) || decide (0x7E ≤ v)

/-- Registers of a stack's controller; `units`: user repair units of a pseudo-channel. -/
def hcSpec (units off : Nat) : RegSpec :=
  if off = 0x000 then [fRO 27 24, fRO 15 8]
  else if off = 0x004 then [fRO 8 8, fC 7 2, fRO 0 0]
  else if off = 0x008 then [fRW 28 24 4 (fun v => decide (17 ≤ v)), fRW 15 0]
  else if off = 0x00C then [fRO 23 0]
  else if off = 0x010 then [fS 31 31, fRW 30 25, fRW 24 5 0 (fun v => decide (units ≤ v)), fRO 4 3]
  else if off = 0x014 then [fRO 10 0]
  else if off = 0x018 then [fRW 23 16 0x55 badCelsius, fRO 7 0]
  else if off = 0x01C then [fRW 31 16, fWO 15 15, fRO 5 0]
  else if off = 0x020 then [fRO 31 1]
  else if off = 0x024 then [fRO 7 2]
  else if off = 0x028 then [fS 31 31, fRW 30 25, fRW 24 1]
  else if off = 0x02C then [fRW 13 8 0x3F badSym, fRW 5 0 0x3F badSym]
  else if off = 0x030 then [fRW 15 0]
  else if 0x100 ≤ off ∧ off ≤ 0x1FC then [fRW 15 0]
  else if 0x400 ≤ off ∧ off < 0x800 then
    (if off % 16 = 0 then [fRO 31 15] else if off % 16 = 4 then [fRO 23 0] else if off % 16 = 8 then [fRO 31 0] else [])
  else []

/-! ### Fabric -/

/-- Lanes that a LANE_OFF value holds out of service. -/
def lanesOff (v : Nat) : Nat := forN 8 (fun i n => if v.testBit i then n + 1 else n) 0

/-- Registers of a port, by offset within its 32 bytes: STATUS, PEER, CTRL, RETRY, FEC. -/
def fpSpec (off : Nat) : RegSpec :=
  if off = 0x00 then [fRO 19 8, fC 6 4, fRO 2 0]
  else if off = 0x04 then [fRO 31 29, fRO 18 0]
  else if off = 0x08 then [fS 31 31, fRW 30 30, fRW 7 0 0 (fun v => decide (2 < lanesOff v))]
  else if off = 0x0C then [fRW 31 16, fRW 15 0]
  else if off = 0x10 then [fRW 31 16, fRW 15 0]
  else []

/-- FX registers by offset from 0x800. -/
def fxSpec (off : Nat) : RegSpec :=
  if off = 0x00 then [fRO 31 31, fRO 13 0]
  else if off = 0x04 then [fC 5 4, fRO 3 0]
  else if off = 0x08 then [fRW 31 31 1, fRW 23 0 0x186A0 (fun v => decide (v ≤ 0x3E7))]
  else if off = 0x0C then [fS 31 31, fRW 13 0]
  else if off = 0x10 then [fRO 31 0]
  else if off = 0x14 then [fRW 31 16, fRW 15 0]
  else []

/-! ### Chutes, interrupt controllers, vectors -/

/-- CH_CFG of chute c: `pf` says that the PF owns it, `kindOk` that a consumer kind and index are allowed (R555). -/
def chCfgSpec (c : Nat) (pf : Bool) : RegSpec :=
  if c < 192 then [fRW 31 31 1, fRO 30 30 1, fRW 27 24, fRO 23 10, fRW 3 0 0 (fun v => v != 0)]
  else [fRW 31 31 1, fRW 30 30 0 (fun v => pf && v == 1), fRW 27 24, fRW 23 21, fRW 20 10,
        fRW 3 0 0 (fun v => v != 0 && !pf)]

def chOwnerSpec (c : Nat) : RegSpec :=
  if c < 192 then [fRO 31 30, fRO 9 0] else [fRW 31 30 1 (fun v => v == 3), fRW 9 0]

def icCtrlSpec : RegSpec := [fRW 31 31, fC 0 0]
def icFilterSpec : RegSpec := [fRO 8 8, fRW 7 0 0x0A (fun v => v == 0)]
def vcCoalSpec : RegSpec := [fRW 23 16 1 (fun v => v == 0), fRW 15 0 1 (fun v => v == 0)]

/-! ### Control matrix -/

def cmSpec (off : Nat) : RegSpec :=
  if off = 0x000 then [fC 2 0]
  else if 0x004 ≤ off ∧ off ≤ 0x010 then [fRW 15 0 0x0400 (fun v => decide (v < 64))]
  else if off = 0x020 then [fRW 31 0]
  else if off = 0x024 then [fRO 31 0]
  else if off = 0x028 then [fRO 31 31, fRO 8 0]
  else if off = 0x040 ∨ off = 0x048 then [fRO 31 0]
  else if off = 0x044 ∨ off = 0x04C then [fC 31 31, fRW 23 16, fRO 10 0]
  else if 0x100 ≤ off ∧ off < 0x500 then [fRO 31 31, fC 30 30, fRO 23 16, fRO 8 0]
  else []

/-! ### Fuse controller block (FC, SY, PM_PAIR), flash, key store, stewards -/

/-- Fuse controller, system and pair registers; `tiles`: enabled tiles, `svn`: fused SVN, `self`: the writing postmaster. -/
def fcSpec (tiles svn : Nat) (self : Option Nat) (off : Nat) : RegSpec :=
  if off = 0x000 then [fC 3 3, fRO 2 0]
  else if off = 0x004 then [fRO 15 10, fRO 6 0]
  else if off = 0x008 then [fS 31 31, fRW 6 0 0 (fun v => decide (v ≤ svn) || decide (64 < v))]
  else if off = 0x800 then [fC 8 8, fRO 7 4, fRO 2 0]
  else if off = 0x804 then [fRW 5 0 0x3F]
  else if off = 0x808 then [fC 5 0]
  else if off = 0x80C then [fRW 31 0]
  else if off = 0x810 then
    [fS 31 31, fRW 30 28 0 (fun v => v == 0 || decide (5 ≤ v)), fRW 8 8 0 (fun v => self == some v),
     fRW 6 0 0 (fun v => decide (tiles ≤ v))]
  else if off = 0xA00 then [fRW 23 16, fRO 5 2, fWO 1 1, fC 0 0]
  else []

def flSpec (off : Nat) : RegSpec :=
  if off = 0x000 then [fRO 15 8, fC 4 3, fRO 2 0]
  else if off = 0x004 then [fS 31 31, fRW 30 29 0 (fun v => v == 3), fRW 28 28, fRW 15 0 0 (fun v => v == 0)]
  else if off = 0x008 then [fRW 31 0]
  else if off = 0x00C then [fRW 31 0 0 (fun v => v % 256 != 0)]
  else []

def ksSpec (off : Nat) : RegSpec := if off = 0 then [fC 4 4, fRO 3 2, fC 1 1, fRO 0 0] else []

def stSpec (off : Nat) : RegSpec :=
  if off = 0x000 then [fC 3 1, fRO 0 0]
  else if off = 0x004 then [fRW 23 16 0x69 badCelsius, fRO 7 0]
  else if 0x100 ≤ off ∧ off ≤ 0x140 then [fRO 15 8, fRO 1 0]
  else []

/-! ### Mailbags -/

def badLog2 (v : Nat) : Bool := decide (v ≤ 3) || decide (17 ≤ v)

end Sys2Proof.Machine
end

