-- ==== Sys2Proof/Machine/Units.lean ====
section
/-! DEFINITION. Reading and writing the components of the state: tiles, engines, controllers, tenants, chutes, ports, and their
stored registers. Every other file reaches a component only through these. -/
namespace Sys2Proof.Machine

open Sys2Proof

/-! ### The part -/

/-- Active tiles of a compute die (order-code table). -/
def perDie (s : State) : Nat := match s.fuses.order with | .x2_112 => 14 | _ => 16
/-- Enabled tiles. -/
def nTiles (s : State) : Nat := 8 * perDie s
/-- Raw capacity per stack in GiB. -/
def capGib (s : State) : Nat := match s.fuses.order with | .x1_128 => 64 | _ => 48
/-- User PC lines of a pseudo-channel (spec 07, Where a line lives). -/
def userLines (s : State) : Nat := match s.fuses.order with | .x1_128 => 15728640 | _ => 11796480
/-- First index of the system region (R716). -/
def sysBase (s : State) : Nat := userLines s - 32768

/-! ### Time -/

/-- The postmark: fabric time in ticks (R615, R616). -/
def postmark (s : State) : Word := BitVec.ofNat 64 (s.time.ft / 2 ^ 36)
/-- Bits [31:0] of the postmark, as logs record it. -/
def logTime (s : State) : BitVec 32 := BitVec.ofNat 32 (s.time.ft / 2 ^ 36)

/-! ### Tiles -/

/-- Where logical tile t stands when nothing has been substituted: die t / A is R19's. DESIGN CHOICE (log 5): position t mod A; the fuse
map of a part may place its tiles, its spare and its failed positions otherwise (R20). -/
def tileHome (s : State) (t : Nat) : Nat := 17 * (t / perDie s) + t % perDie s
/-- Physical tile of logical tile t (R20). -/
def physOf (s : State) (t : Nat) : Nat := tget (tileHome s) s.tileMap t
/-- The logical number that physical tile p holds, when it holds one. -/
def logicalOf (s : State) (p : Nat) : Option Nat :=
  (List.range (nTiles s)).find? (fun t => physOf s t == p)
def getP (s : State) (p : Nat) : Tile := tget (fun _ => Tile.reset) s.tiles p
def setP (s : State) (p : Nat) (t : Tile) : State := { s with tiles := tset (fun _ => Tile.reset) s.tiles p t }
def updP (s : State) (p : Nat) (f : Tile → Tile) : State := setP s p (f (getP s p))
def getTile (s : State) (t : Nat) : Tile := getP s (physOf s t)
def setTile (s : State) (t : Nat) (x : Tile) : State := setP s (physOf s t) x
def updTile (s : State) (t : Nat) (f : Tile → Tile) : State := updP s (physOf s t) f

/-- Stored register of a tile block. -/
def Tile.reg (t : Tile) (off : Nat) : BitVec 32 := tget (fun o => specReset (tileSpec false o)) t.regs off
def Tile.setReg (t : Tile) (off : Nat) (v : BitVec 32) : Tile :=
  { t with regs := tset (fun o => specReset (tileSpec false o)) t.regs off v }
def Tile.updReg (t : Tile) (off : Nat) (f : BitVec 32 → BitVec 32) : Tile := t.setReg off (f (t.reg off))

/-! ### Engines -/

def getPm (s : State) (b : Bool) : Postmaster := if b then s.pmB else s.pmA
def setPm (s : State) (b : Bool) (x : Postmaster) : State := if b then { s with pmB := x } else { s with pmA := x }
def updPm (s : State) (b : Bool) (f : Postmaster → Postmaster) : State := setPm s b (f (getPm s b))

def getEng (s : State) : EngineId → Engine
  | .tile t => (getTile s t).eng
  | .pmA => s.pmA.eng
  | .pmB => s.pmB.eng

def setEng (s : State) (e : EngineId) (x : Engine) : State :=
  match e with
  | .tile t => updTile s t (fun tl => { tl with eng := x })
  | .pmA => { s with pmA := { s.pmA with eng := x } }
  | .pmB => { s with pmB := { s.pmB with eng := x } }

def updEng (s : State) (e : EngineId) (f : Engine → Engine) : State := setEng s e (f (getEng s e))

/-- MODE.PRIV (R187). -/
def privOf : EngineId → Bool
  | .tile _ => false
  | _ => true

/-- The tenant of a tile's engine, when the tile is assigned. -/
def tenantOf (s : State) : EngineId → Option Nat
  | .tile t => (getTile s t).owner.map (·.1)
  | _ => none

/-! ### Chutes and events -/

def getChute (s : State) (c : Nat) : Chute := tget Chute.reset s.chutes c
def setChute (s : State) (c : Nat) (x : Chute) : State := { s with chutes := tset Chute.reset s.chutes c x }
def updChute (s : State) (c : Nat) (f : Chute → Chute) : State := setChute s c (f (getChute s c))
/-- One event of chute c (R553). -/
def raiseChute (c : Nat) (s : State) : State := updChute s c (fun x => { x with pending := true })

/-- Set a status bit of tile p and, when it goes from 0 to 1 and is one of R85's, raise the die's maintenance event. -/
def tsSetStatus (p b : Nat) (s : State) : State :=
  let old := (getP s p).reg 0x004
  let s1 := updP s p (fun t => t.updReg 0x004 (fun v => setBit v b))
  if !bit old b && (b == 2 || b == 3 || b == 5) then raiseChute (144 + p / 17) s1 else s1

/-! ### HBM controllers and pseudo-channels -/

/-- The device is in DOZE, until the last step of exit (R620, R626). -/
def inDoze (s : State) : Bool := s.sys.doze == .dozing || s.sys.doze == .exiting

/-- The stacks are in self-refresh: in DOZE until exit ends, and from a warm device reset until boot has taken them out of it (R319, R323,
R636). -/
def selfRefresh (s : State) : Bool :=
  inDoze s || (s.sys.phase == .booting && decide (6 ≤ s.sys.lastReset.toNat))

def getStack (s : State) (k : Nat) : Stack := tget (fun _ => Stack.reset) s.hcStacks k
def hcUnits (s : State) : Nat := userLines s / 16
def hcReg (s : State) (k off : Nat) : BitVec 32 := tget (fun o => specReset (hcSpec (hcUnits s) o)) (getStack s k).regs off
def setHc (k off : Nat) (v : BitVec 32) (s : State) : State :=
  let r := tset (fun o => specReset (hcSpec (hcUnits s) o)) (getStack s k).regs off v
  { s with hcStacks := tset (fun _ => Stack.reset) s.hcStacks k { getStack s k with regs := r } }
def updHc (k off : Nat) (f : BitVec 32 → BitVec 32) (s : State) : State := setHc k off (f (hcReg s k off)) s
/-- Set a status bit of stack k, with its maintenance event (R362). -/
def hcSetStatus (k b : Nat) (s : State) : State :=
  let old := hcReg s k 0x004
  let s1 := updHc k 0x004 (fun v => setBit v b) s
  if !bit old b && (b == 2 || b == 4 || b == 5 || b == 6) then raiseChute (128 + k) s1 else s1

def getChan (s : State) (pc : Nat) : PChan := tget (fun _ => PChan.reset) s.chans pc
def setChan (s : State) (pc : Nat) (x : PChan) : State := { s with chans := tset (fun _ => PChan.reset) s.chans pc x }
def updChan (s : State) (pc : Nat) (f : PChan → PChan) : State := setChan s pc (f (getChan s pc))

/-! ### Tenants, mailbags, keys, ports, vectors -/

def getTen (s : State) (n : Nat) : Tenant := tget (fun _ => Tenant.reset) s.tenants n
def setTen (s : State) (n : Nat) (x : Tenant) : State := { s with tenants := tset (fun _ => Tenant.reset) s.tenants n x }
def updTen (s : State) (n : Nat) (f : Tenant → Tenant) : State := setTen s n (f (getTen s n))

/-- Key of a mailbag in the table: 64 n + m for tenant n, 65,536 + m for the PF. -/
def bagKey : Fn → Nat → Nat
  | .vf n, m => 64 * n + m
  | .pf, m => 65536 + m
def getBag (s : State) (f : Fn) (m : Nat) : Mailbag := tget (fun _ => Mailbag.reset) s.bags (bagKey f m)
def setBag (s : State) (f : Fn) (m : Nat) (x : Mailbag) : State :=
  { s with bags := tset (fun _ => Mailbag.reset) s.bags (bagKey f m) x }
def updBag (s : State) (f : Fn) (m : Nat) (g : Mailbag → Mailbag) : State := setBag s f m (g (getBag s f m))

def getKey (s : State) (k : Nat) : KeySlot := tget (fun _ => KeySlot.empty) s.keys k
def setKey (s : State) (k : Nat) (x : KeySlot) : State := { s with keys := tset (fun _ => KeySlot.empty) s.keys k x }
/-- The Alias key, which slot 0x0001 holds (R414, R424). -/
def aliasKey (s : State) : Key := (getKey s 1).key.getD .unbound
/-- Put a key into a slot: both copies are written (R423). -/
def writeKey (s : State) (k : Nat) (v : Key) : State := setKey s k ⟨some v, (getKey s k).gen, false, false⟩
/-- Zeroise a slot and advance its generation (R139). -/
def zeroKey (s : State) (k : Nat) : State := setKey s k ⟨none, (getKey s k).gen + 1, false, false⟩
/-- Destroy the key of a slot, if it holds one. -/
def destroyKey (k : Nat) (s : State) : State := if (getKey s k).key.isSome then zeroKey s k else s
/-- The slots of the device's own keys, of fabric link keys and of franking keys (R424): a warm device reset destroys them, with the links and
the sessions (R631). -/
def linkOrFranking (k : Nat) : Bool := decide (k < 3) || (decide (0x10 ≤ k) && decide (k < 0x50)) || k == 0x100 || (decide (0x400 ≤ k) && decide (k < 0x800))

def getPort (s : State) (p : Nat) : Port := tget (fun _ => Port.reset) s.ports p
def setPort (s : State) (p : Nat) (x : Port) : State := { s with ports := tset (fun _ => Port.reset) s.ports p x }
/-- Frame boundaries that pass port p in an SCLK, in 1/512 frames, at its state and lanes: 35/128 frames for each lane at the full rate, 35/512
at the DOZE rate (R503, R539). -/
def frameRate (q : Port) : Nat :=
  if fld q.status 2 0 = 5 then 35 else if 2 ≤ fld q.status 2 0 then 140 * lanesOff q.usable.toNat else 0
def framesNow (s : State) (q : Port) : Nat := q.frames + (s.sclk - q.framesAt) * frameRate q
def updPort (s : State) (p : Nat) (f : Port → Port) : State := setPort s p (f (getPort s p))

/-- Key of a vector in the table: 16 n + v for tenant n, 16,384 + v for the PF. -/
def vecKey : Fn → Nat → Nat
  | .vf n, v => 16 * n + v
  | .pf, v => 16384 + v
def getVec (s : State) (f : Fn) (v : Nat) : Vec := tget (fun _ => Vec.reset) s.vecs (vecKey f v)
def setVec (s : State) (f : Fn) (v : Nat) (x : Vec) : State := { s with vecs := tset (fun _ => Vec.reset) s.vecs (vecKey f v) x }
def updVec (s : State) (f : Fn) (v : Nat) (g : Vec → Vec) : State := setVec s f v (g (getVec s f v))

def getBuf (s : State) (b : Nat) : Buffer := tget (fun _ => Buffer.empty) s.buffers b
def setBuf (s : State) (b : Nat) (x : Buffer) : State := { s with buffers := tset (fun _ => Buffer.empty) s.buffers b x }

/-! ### Other stored registers -/

def fxReg (s : State) (off : Nat) : BitVec 32 := tget (fun o => specReset (fxSpec o)) s.fx off
def setFx (off : Nat) (v : BitVec 32) (s : State) : State := { s with fx := tset (fun o => specReset (fxSpec o)) s.fx off v }
def updFx (off : Nat) (f : BitVec 32 → BitVec 32) (s : State) : State := setFx off (f (fxReg s off)) s

def cmReg (s : State) (off : Nat) : BitVec 32 := tget (fun o => specReset (cmSpec o)) s.cm.regs off
def setCm (off : Nat) (v : BitVec 32) (s : State) : State :=
  { s with cm := { s.cm with regs := tset (fun o => specReset (cmSpec o)) s.cm.regs off v } }
def updCm (off : Nat) (f : BitVec 32 → BitVec 32) (s : State) : State := setCm off (f (cmReg s off)) s
def getLock (s : State) (x : Nat) : Lock := tget (fun _ => Lock.free) s.cm.locks x
def setLock (x : Nat) (l : Lock) (s : State) : State :=
  { s with cm := { s.cm with locks := tset (fun _ => Lock.free) s.cm.locks x l } }

def fcReset (off : Nat) : BitVec 32 := specReset (fcSpec 0 0 none off)
def fcReg (s : State) (off : Nat) : BitVec 32 := tget fcReset s.sys.fc off
def setFc (off : Nat) (v : BitVec 32) (s : State) : State := { s with sys := { s.sys with fc := tset fcReset s.sys.fc off v } }
def updFc (off : Nat) (f : BitVec 32 → BitVec 32) (s : State) : State := setFc off (f (fcReg s off)) s
def flReg (s : State) (off : Nat) : BitVec 32 := tget (fun o => specReset (flSpec o)) s.sys.fl off
def setFl (off : Nat) (v : BitVec 32) (s : State) : State :=
  { s with sys := { s.sys with fl := tset (fun o => specReset (flSpec o)) s.sys.fl off v } }
def updFl (off : Nat) (f : BitVec 32 → BitVec 32) (s : State) : State := setFl off (f (flReg s off)) s
def ksReg (s : State) (off : Nat) : BitVec 32 := tget (fun o => specReset (ksSpec o)) s.sys.ks off
def setKs (off : Nat) (v : BitVec 32) (s : State) : State :=
  { s with sys := { s.sys with ks := tset (fun o => specReset (ksSpec o)) s.sys.ks off v } }
/-- A read of a key-store slot: one failing copy is rewritten from the other; when both fail the slot is zeroised and MIRROR_FAIL set
(R643). -/
def readKey (k : Nat) (s : State) : State :=
  let x := getKey s k
  if x.bad0 && x.bad1 then setKs 0 (setBit (ksReg s 0) 1) (zeroKey s k)
  else if x.bad0 || x.bad1 then setKey s k { x with bad0 := false, bad1 := false }
  else s
/-- Stored register of the steward of die n, key 4,096 n + offset. -/
def stReset (k : Nat) : BitVec 32 := specReset (stSpec (k % 4096))
def stReg (s : State) (n off : Nat) : BitVec 32 := tget stReset s.stewards (4096 * n + off)
def setSt (n off : Nat) (v : BitVec 32) (s : State) : State := { s with stewards := tset stReset s.stewards (4096 * n + off) v }
def updSt (n off : Nat) (f : BitVec 32 → BitVec 32) (s : State) : State := setSt n off (f (stReg s n off)) s

/-- Emit something to the outside, newest first. -/
def emit (o : Out) (s : State) : State := { s with out := o :: s.out }
/-- Take the next value of the model's counter. -/
def tick (s : State) : State := { s with free := s.free + 1 }

/-- The unit a command names does not exist: the command faults; otherwise it acts. -/
def onUnit (ok : Bool) (s : State) (f : State → State) : Host.Outcome State Fault Refusal :=
  if ok then .next (f s) else .fault .noSuchUnit

/-- A command on logical tile t. -/
def onTile (t : Nat) (s : State) (f : State → State) : Host.Outcome State Fault Refusal := onUnit (decide (t < nTiles s)) s f

/-- Whether an engine exists. -/
def engExists (s : State) : EngineId → Bool
  | .tile t => decide (t < nTiles s)
  | _ => true

end Sys2Proof.Machine
end

