-- ==== Sys2Proof/Machine/Store.lean ====
section
/-! DEFINITION. The tile store: words with their error patterns, the check on a read with its counters and logs, and
writes with error injection (spec 02). A word is named by its index: byte address / 8. -/
namespace Sys2Proof.Machine

open Sys2Proof

/-- Number of one bits among the low n. -/
def popN (n x : Nat) : Nat := forN n (fun i a => if x.testBit i then a + 1 else a) 0
/-- Lowest one bit among the low n. -/
def lowBit (n x : Nat) : Nat := forN n (fun i a => if x.testBit (n - 1 - i) then n - 1 - i else a) 0

/-- First word of the system rows (R38). -/
def sysWord : Nat := 0x7FE00
/-- Bank, row and word of a word index (R35). -/
def bankOf (w : Nat) : Nat := w / 32768
def rowOf (w : Nat) : Nat := w / 32 % 1024
def wordIn (w : Nat) : Nat := w % 32

/-- What an unlisted word of a tile store holds (R50, R52). -/
def storeDflt (filled : Bool) (w : Nat) : SWord := if filled || decide (sysWord ≤ w) then SWord.zeroInt else SWord.unwritten
def TileStore.cell (st : TileStore) (w : Nat) : SWord := tget (storeDflt st.filled) st.cells w
def TileStore.put (st : TileStore) (w : Nat) (c : SWord) : TileStore :=
  { st with cells := tset (storeDflt st.filled) st.cells w c }

/-- What the check logic finds in a stored word (R48, R712). -/
inductive Found where
  | good
  | corrected (bit : Nat)
  | bad
  deriving DecidableEq, Repr

/-- The check of a stored word and the word it delivers: one failing bit is corrected, two are detected, three or more
are outside the guarantee (R712: Config's free values). -/
def checkWord (c : SWord) : Found × TWord :=
  if c.err = 0 then (.good, ⟨c.data, c.tag⟩)
  else if popN 76 c.err.toNat = 1 then (.corrected (lowBit 76 c.err.toNat), ⟨c.data, c.tag⟩)
  else if popN 76 c.err.toNat = 2 then (.bad, ⟨c.data, c.tag⟩)
  else if Config.wordOutcome c.err = 0 then (.bad, ⟨c.data, c.tag⟩)
  else if Config.wordOutcome c.err = 1 then (.corrected (Config.wrongBit c.err % 76), Config.wrongWord c.err ⟨c.data, c.tag⟩)
  else (.good, Config.wrongWord c.err ⟨c.data, c.tag⟩)

/-- Log a correction of word w of tile p, found by master mc (R55, R57, R59), and queue its write-back (R56). -/
def logCorrection (p w b mc : Nat) (s : State) : State :=
  let t := getP s p
  let next := fld (t.reg 0x0F0) 3 0
  let a : BitVec 32 := BitVec.ofNat 32 (2 ^ 31 + bankOf w * 2 ^ 27 + rowOf w * 2 ^ 17 + wordIn w * 2 ^ 12 + b * 2 ^ 5 + mc * 2)
  let t1 := t.setReg (0x100 + 8 * next) a |>.setReg (0x104 + 8 * next) (logTime s)
  let t2 := t1.updReg 0x0F0 (fun v =>
    let v1 := setFld v 3 0 ((next + 1) % 16)
    if next = 15 then setFld v1 31 16 ((fld v 31 16 + 1) % 65536) else v1)
  let co := 0x080 + 4 * bankOf w
  let t3 := t2.updReg co (fun v => setFld v 15 0 (min (fld v 15 0 + 1) 65535))
  let t4 := t3.updReg 0x004 (fun v => setBit v 4)
  setP s p { t4 with writeBacks := addOnce t4.writeBacks w }

/-- Record an uncorrectable word of tile p read by master mc (R60). -/
def recordUncorr (p w mc : Nat) (s : State) : State :=
  let s1 := if bit ((getP s p).reg 0x0F4) 31 then s else
    updP s p (fun t => t.setReg 0x0F4
      (BitVec.ofNat 32 (2 ^ 31 + bankOf w * 2 ^ 27 + rowOf w * 2 ^ 17 + wordIn w * 2 ^ 12 + mc * 2 ^ 8)))
  tsSetStatus p 5 s1

/-- A master's read of word w of tile p: the word, or none for an uncorrectable error. -/
def tsRead (p w mc : Nat) (s : State) : Option TWord × State :=
  match checkWord ((getP s p).store.cell w) with
  | (.good, v) => (some v, s)
  | (.corrected b, v) => (some v, logCorrection p w b mc s)
  | (.bad, _) => (none, recordUncorr p w mc s)

/-- The injection armed for word w of tile p: the bits to invert, when it is armed for that word (R81). -/
def injectFor (t : Tile) (w : Nat) : Option (BitVec 76) :=
  let a := t.reg 0x0F8
  if bit a 31 && (fld a 22 19 == bankOf w && (fld a 18 9 == rowOf w && fld a 8 4 == wordIn w)) then
    let f := t.reg 0x0FC
    let one (v : Nat) : BitVec 76 := if v < 76 then BitVec.ofNat 76 (2 ^ v) else 0
    some (one (fld f 6 0) ||| one (fld f 13 7))
  else none

/-- A write of word w by the scrubber, which takes no injection (R81): a pending write-back of the word is dropped. -/
def tsRewrite (p w : Nat) (v : TWord) (s : State) : State :=
  updP s p (fun t => { t with store := t.store.put w ⟨v.data, v.tag, 0⟩, writeBacks := dropAll t.writeBacks w })

/-- A write that reaches word w of tile p, from a master, a fill or a repair: injection (R81), and the word's pending
write-back is dropped (R56). -/
def tsWrite (p w : Nat) (v : TWord) (s : State) : State :=
  updP s p (fun t =>
    match injectFor t w with
    | some e => { (t.updReg 0x0F8 (fun r => clrBit r 31)) with
        store := t.store.put w ⟨v.data, v.tag, e⟩, writeBacks := dropAll t.writeBacks w }
    | none => { t with store := t.store.put w ⟨v.data, v.tag, 0⟩, writeBacks := dropAll t.writeBacks w })

/-- Write several words upward from word w. -/
def tsWriteList (p : Nat) : Nat → List TWord → State → State
  | _, [], s => s
  | w, v :: r, s => tsWriteList p (w + 1) r (tsWrite p w v s)

/-! ### Bank arbitration (R41 to R45) -/

/-- An access that asks for a bank: the bank, the master's code and its port (0 read port A, 1 B, 2 C, 3 the write port). -/
structure BankAcc where
  bank : Nat
  master : Nat
  port : Nat
  deriving DecidableEq, Repr

/-- TS_OWNER_STANDING of the 16 banks, and TS_SCRUB, as written. -/
def writtenSetup (t : Tile) : BitVec 64 × BitVec 32 := (t.reg 0x014 ++ t.reg 0x010, t.reg 0x0E8)

/-- No vector instruction is between its start and its end. DESIGN CHOICE (log 65): the point between two single vector instructions of R23
is one at which this holds for every pipe and courier of the tile. -/
def unitsIdle (t : Tile) : Bool := t.units.all (fun u => !u.started || u.parked)

/-- Nothing is in progress on the data face of a tile: no instruction, and no round between its start and its end. -/
def faceIdle (t : Tile) : Bool := unitsIdle t && (match t.round with | some r => r.st == 1 || r.st == 4 | none => true)

/-- TS_OWNER_STANDING and TS_SCRUB in force: what the work in progress began with, or what is written (R23). -/
def setupOf (t : Tile) : BitVec 64 × BitVec 32 := if faceIdle t then writtenSetup t else t.setup.getD (writtenSetup t)

/-- Work begins under what is written. -/
def beginWork (t : Tile) : Tile := if faceIdle t then { t with setup := none } else t

/-- The active owner of a bank: the sheet's while its round has them, otherwise the standing one (R41). -/
def activeOwner (t : Tile) (bank : Nat) : Nat := (t.sheetOwners.getD (setupOf t).1).toNat / 16 ^ bank % 16

/-- Master codes that may have an access pending: pipes and couriers of started instructions, the masters that own a bank in the sheet
of a running round, and a running engine. -/
def atWork (t : Tile) : List Nat :=
  (List.range 13).filter (fun m =>
    (m == 12 && t.eng.runstate == 1) || t.units.any (fun u => u.started && (u.pipes.contains m || u.courier == some m)) ||
    (t.sheetOwners.isSome && (List.range 16).any (fun b => activeOwner t b == m)))

/-- The master that a bank chooses among those with an access pending, and where its pointer then stands: the owner, otherwise the
first that the scan upward from the pointer meets (R42). -/
def chooseMaster (owner ptr : Nat) (ms : List Nat) : Nat × Nat :=
  if ms.contains owner then (owner, ptr)
  else match ((List.range 13).map (fun i => (ptr + i) % 13)).find? (fun m => ms.contains m) with
    | some m => (m, (m + 1) % 13)
    | none => (owner, ptr)

/-- The port that goes first among those of one master: A, then B, then C, then the write port (R42). -/
def choosePort (ps : List Nat) : Nat := ((List.range 4).find? (fun q => ps.contains q)).getD 3

/-- The ports of a master, 43 in all (R34): A to D of an FMA pipe, A, B and D of a lens pipe, a courier's read and write ports, and the one
port of Ndoat. -/
def portsOf (m : Nat) : List Nat := if m < 8 then [0, 1, 2, 3] else if m < 10 then [0, 1, 3] else if m < 12 then [0, 3] else [3]

/-- The port of an access, whatever its bank. -/
def BankAcc.samePort (a b : BankAcc) : Bool := a.master == b.master && a.port == b.port

/-- Ports of the masters at work that are not among those at hand. -/
def otherPorts (t : Tile) (mine : List BankAcc) : List BankAcc :=
  ((atWork t).flatMap (fun m => (portsOf m).map (fun q => BankAcc.mk 0 m q))).filter (fun a => !mine.any a.samePort)

/-- Other master ports that begin to address a bank in this TCLK: a free choice among the ports at work that are not waiting with an access
already, whose order never changes (R43). -/
def foreignPorts (t : Tile) (k : Nat) (busy : List BankAcc) (bank : Nat) : List BankAcc :=
  ((otherPorts t busy).filter (fun a => (Config.contenders k).getLsbD (4 * a.master + a.port))).map (fun a => { a with bank := bank })

/-- Waiting accesses of a master are added to its conflict counter, which wraps to the remainder (R44, R45). -/
def addConflicts (m n : Nat) (t : Tile) : Tile :=
  let v := (nthD 0 t.conflicts m).toNat + n
  { t with
    conflicts := setAt t.conflicts m (BitVec.ofNat 32 v)
    conflictWrap := if v < 2 ^ 32 then t.conflictWrap else setBit t.conflictWrap m }

/-- The accesses of one TCLK: those at hand that were made, those of other masters that wait, and the state. -/
structure Tclk where
  won : List BankAcc
  held : List BankAcc
  s : State

/-- One bank in one TCLK: the access that it performs among those at hand and those of other masters, which wait on from the TCLK before or,
while others contend, begin in this one (R42, R43). An access of the sheet of a running round comes first: then every other access waits
(R289). -/
def bankTclk (p : Nat) (foreign : Bool) (heads held : List BankAcc) (bank : Nat) (a : Tclk) : Tclk :=
  let own := heads.filter (fun x => x.bank == bank)
  if own.isEmpty then a
  else
    let t := getP a.s p
    let k := a.s.free
    let waiting := held.filter (fun x => x.bank == bank)
    let others := waiting ++ (if foreign then foreignPorts t k (heads ++ held ++ a.held) bank else [])
    let all := own ++ others
    let s1 := if foreign then { a.s with free := k + 1 } else a.s
    if foreign && t.sheetOwners.isSome && (Config.sheetAccess k).getLsbD bank then { a with held := a.held ++ others, s := s1 }
    else
      let w := chooseMaster (activeOwner t bank) (tget (fun _ => 0) t.bankPtr bank) (all.map (·.master))
      let q := choosePort ((all.filter (fun x => x.master == w.1)).map (·.port))
      let goes (x : BankAcc) : Bool := x.master == w.1 && x.port == q
      { won := a.won ++ own.filter goes, held := a.held ++ others.filter (fun x => !goes x),
        s := updP s1 p (fun t => { t with bankPtr := tset (fun _ => 0) t.bankPtr bank w.2 }) }

/-- Accesses of ports, each port's in order and with TCLK in which it asks for nothing, until all have been made: the TCLK that this takes.
Other masters begin accesses in the first f of them; a master's waiting accesses are counted (R42 to R45). -/
def arbitrate (p : Nat) : Nat → Nat → List (List (Option BankAcc)) → List BankAcc → State → Nat × State
  | 0, _, _, _, s => (0, s)
  | n + 1, f, qs, held, s =>
    let heads := qs.filterMap (fun q => q.head?.bind id)
    if qs.all List.isEmpty then (0, s)
    else
      let r := forN 16 (bankTclk p (0 < f) heads held) ⟨[], [], s⟩
      let s1 := updP r.s p (fun t => (heads.filter (fun x => !r.won.contains x)).foldl (fun t x => addConflicts x.master 1 t) t)
      let rest := arbitrate p n (f - 1) (qs.map (fun q => match q with
        | some x :: l => if r.won.contains x then l else q
        | none :: l => l
        | [] => [])) r.held s1
      (rest.1 + 1, rest.2)

/-- Accesses of ports of tile p: a free number of TCLK in which others contend, when another port is at work. After them the 43 ports can
hold back the accesses at hand for at most one TCLK each. -/
def bankAccesses (p : Nat) (qs : List (List (Option BankAcc))) (s : State) : Nat × State :=
  let t := getP s p
  let alone := t.sheetOwners.isNone && (otherPorts t (qs.flatten.filterMap id)).isEmpty
  let f := if alone then 0 else Config.waits s.free
  arbitrate p (f + qs.flatten.length + 43) f qs [] (if alone then s else { s with free := s.free + 1 })

/-- A POISON word as the device writes it (R61). -/
def poisonWord : TWord := ⟨0, 0xF⟩

/-- The bank of word w belongs to the tile's tenant and w is no system word (R40). -/
def inMask (t : Tile) (w : Nat) : Bool := decide (w < sysWord) && (t.reg 0x008).getLsbD (bankOf w)


end Sys2Proof.Machine
end

