-- ==== Sys2Proof/Machine/HbmMem.lean ====
section
/-! DEFINITION. HBM lines: the prism map, the check on a read with its counters and logs, encryption by cipher context, writes
with symbol injection (spec 07), and the segments that lie in HBM. -/
namespace Sys2Proof.Machine

open Sys2Proof

/-- Output of the prism map for a LOCAL segment (R327). -/
def prismLocal (l : Nat) : Nat := (l % 128) ^^^ (l / 128 % 128) ^^^ (l / 16384 % 128) ^^^ (l / 2 ^ 21 % 64)
/-- Output of the prism map for a GLOBAL segment (R327). -/
def prismGlobal (l : Nat) : Nat := (l % 1024) ^^^ (l / 1024 % 1024) ^^^ (l / 2 ^ 20 % 1024)

/-- First PC line index of an HBM segment (R324). -/
def segR0 (d : Desc) : Nat := if d.global then d.base.toNat / 65536 else d.base.toNat / 8192
/-- Pseudo-channel and PC line index of line l of a segment (R326). -/
def linePlace (d : Desc) (l : Nat) : Nat × Nat :=
  if d.global then (prismGlobal l, segR0 d + l / 1024) else (128 * d.homedie.toNat + prismLocal l, segR0 d + l / 128)
/-- Stripes that a segment occupies (R324). -/
def segStripes (d : Desc) : Nat := cdiv (d.limit.toNat + 1) (if d.global then 65536 else 8192)

/-- Key of a line in the line table. -/
def lineKey (pc r : Nat) : Nat := pc * 2 ^ 24 + r
def getLine (s : State) (pc r : Nat) : HLine := tget (fun _ => HLine.unwritten) s.hbm (lineKey pc r)
def setLine (pc r : Nat) (l : HLine) (s : State) : State :=
  { s with hbm := tset (fun _ => HLine.unwritten) s.hbm (lineKey pc r) l }

/-- Word w of a line. -/
def lineWord (d : BitVec 512) (t : BitVec 32) (w : Nat) : TWord := ⟨d.extractLsb' (64 * w) 64, t.extractLsb' (4 * w) 4⟩
/-- A line from its eight words. -/
def lineData : List TWord → BitVec 512
  | ws => BitVec.ofNat 512 (forN 8 (fun i a => a + (nthD ⟨0, 0⟩ ws i).data.toNat * 2 ^ (64 * i)) 0)
def lineTags : List TWord → BitVec 32
  | ws => BitVec.ofNat 32 (forN 8 (fun i a => a + (nthD ⟨0, 0⟩ ws i).tag.toNat * 2 ^ (4 * i)) 0)
/-- A line with word w replaced. -/
def setLineWord (d : BitVec 512) (t : BitVec 32) (w : Nat) (v : TWord) : BitVec 512 × BitVec 32 :=
  ((d &&& ~~~ ((BitVec.ofNat 512 (2 ^ 64 - 1)) <<< (64 * w))) ||| ((v.data.setWidth 512) <<< (64 * w)),
   (t &&& ~~~ ((15 : BitVec 32) <<< (4 * w))) ||| ((v.tag.setWidth 32) <<< (4 * w)))

/-- The symbols of an error pattern that fail: their number. -/
def failingSymbols (e : BitVec 608) : Nat :=
  forN 38 (fun i a => if e.extractLsb' (16 * i) 16 = 0 then a else a + 1) 0
/-- The lowest failing symbol. -/
def firstSymbol (e : BitVec 608) : Nat :=
  forN 38 (fun i a => if e.extractLsb' (16 * (37 - i)) 16 = 0 then a else 37 - i) 0

/-- The line is in the unwritten state (R332). -/
def isUnwritten (l : HLine) : Bool := l == HLine.unwritten

/-- The check of a stored line: one failing symbol is corrected, two or three are detected (R331), four or more are
outside the guarantee (R715). -/
def checkLine (l : HLine) : Found × (BitVec 512 × BitVec 32) :=
  if l.err = 0 then (.good, (l.data, l.tags))
  else if failingSymbols l.err = 1 then (.corrected (firstSymbol l.err), (l.data, l.tags))
  else if failingSymbols l.err ≤ 3 then (.bad, (l.data, l.tags))
  else if Config.lineOutcome l.err = 0 then (.bad, (l.data, l.tags))
  else if Config.lineOutcome l.err = 1 then (.corrected (Config.wrongSymbol l.err % 38), Config.wrongLine l.err l.data l.tags)
  else (.good, Config.wrongLine l.err l.data l.tags)

/-- The XTS tweak of a line (R330). -/
def tweak (pc r : Nat) : Nat := pc + r * 1024

/-- The data as the cells hold it: encrypted under key w, but for a line that the controller forms itself. -/
def cipherText (w : Key) (pc r : Nat) (d : BitVec 512) : BitVec 512 :=
  if w = .raw then d else xtsEncrypt (keyBits w) (tweak pc r) d

/-- What a reader with key k sees of data written under key w (R330). -/
def decrypt (k w : Key) (pc r : Nat) (d : BitVec 512) : BitVec 512 :=
  if k = w then d else xtsDecrypt (keyBits k) (tweak pc r) (cipherText w pc r d)

/-- The 38 symbols that a line's cells hold: ciphertext, tags in clear and the check symbols computed over both, with the symbols that
have failed or were inverted (R321, R330, R331). -/
def storedSymbols (pc r : Nat) (l : HLine) : List Nat :=
  let c := cipherText l.key pc r l.data
  xorList (lineSymbols c l.tags ++ checkSymbols c l.tags) ((List.range 38).map (fun j => (l.err.extractLsb' (16 * j) 16).toNat))

/-- Log a correction of a line (R338, R340) and queue its write-back (R339). -/
def hcLog (pc r sym src : Nat) (s : State) : State :=
  let k := pc / 64
  let next := fld (hcReg s k 0x01C) 5 0
  let s1 := setHc k (0x400 + 16 * next) (BitVec.ofNat 32 (2 ^ 31 + pc % 64 * 2 ^ 25 + sym * 2 ^ 19 + src * 2 ^ 15)) s
  let s2 := setHc k (0x404 + 16 * next) (BitVec.ofNat 32 r) s1
  let s3 := setHc k (0x408 + 16 * next) (logTime s) s2
  let s4 := updHc k 0x01C (fun v =>
    let v1 := setFld v 5 0 ((next + 1) % 64)
    if next = 63 then setFld v1 31 16 ((fld v 31 16 + 1) % 65536) else v1) s3
  let s5 := updHc k (0x100 + 4 * (pc % 64)) (fun v => setFld v 15 0 (min (fld v 15 0 + 1) 65535)) s4
  let s6 := hcSetStatus k 3 s5
  updChan s6 pc (fun c => { c with writeBacks := addOnce c.writeBacks r })

/-- Record an uncorrectable demand read (R343). -/
def hcUncorr (pc r src : Nat) (unwritten : Bool) (s : State) : State :=
  let k := pc / 64
  let s1 := if bit (hcReg s k 0x020) 31 then s else
    setHc k 0x024 (BitVec.ofNat 32 (src * 16 + b2n unwritten * 4))
      (setHc k 0x020 (BitVec.ofNat 32 (2 ^ 31 + pc % 64 * 2 ^ 25 + r * 2)) s)
  hcSetStatus k 4 s1

/-- A demand read of a line under key k by source code src: data and tags, or none for an uncorrectable error. -/
def rdLine (pc r : Nat) (k : Key) (src : Nat) (s : State) : Option (BitVec 512 × BitVec 32) × State :=
  let l := getLine s pc r
  match checkLine l with
  | (.good, (d, t)) => (some (decrypt k l.key pc r d, t), s)
  | (.corrected b, (d, t)) => (some (decrypt k l.key pc r d, t), hcLog pc r b src s)
  | (.bad, _) => (none, hcUncorr pc r src (isUnwritten l) s)

/-- Symbols to invert on the next write of a line, when injection is armed for it (R360). -/
def hcInjectFor (s : State) (pc r : Nat) : Option (BitVec 608) :=
  let a := hcReg s (pc / 64) 0x028
  if bit a 31 && (fld a 30 25 == pc % 64 && fld a 24 1 == r) then
    let f := hcReg s (pc / 64) 0x02C
    let one (v : Nat) : BitVec 608 := if v < 38 then BitVec.ofNat 608 (65535 * 2 ^ (16 * v)) else 0
    some (one (fld f 5 0) ||| one (fld f 13 8))
  else none

/-- Store a formed line: injection (R360), and a pending correction write-back or poison rewrite of it is dropped (R339). -/
def putLine (pc r : Nat) (l : HLine) (s : State) : State :=
  let s0 := updChan s pc (fun c => { c with writeBacks := dropAll c.writeBacks r, poison := dropAll c.poison r })
  match hcInjectFor s pc r with
  | some e => setLine pc r { l with err := l.err ^^^ e } (updHc (pc / 64) 0x028 (fun v => clrBit v 31) s0)
  | none => setLine pc r l s0

/-- A write of a line under key k. -/
def wrLine (pc r : Nat) (d : BitVec 512) (t : BitVec 32) (k : Key) (s : State) : State := putLine pc r ⟨d, t, 0, k⟩ s

/-- A POISON line (R332), which the controller forms itself. -/
def poisonLine : HLine := ⟨0, BitVec.ofNat 32 0xFFFFFFFF, 0, .raw⟩

/-! ### Keys of segments -/

/-- Cipher context c (R427). -/
def ctxKey (s : State) (c : Nat) : Key := tget (fun _ => Key.unbound) s.ctxs c

/-- The first unfinished rotation job of a pseudo-channel gives the cursor: lines below it are under the new pair, the line that the job holds
there once it has been written (R429). -/
def rotCursor (s : State) (js : List Nat) (pc : Nat) : Option Nat :=
  match js with
  | [] => none
  | j :: r =>
    match findFrom (fun x => x.1 == j) 0 s.jobs with
    | some (_, (_, jb)) =>
      let n := tget (fun _ => 0) jb.done pc +
        (match (getChan s pc).held with | some h => b2n (h.job == some j && h.written) | none => 0)
      if (jb.global || jb.die == pc / 128) && decide (n < jb.stripes) then some (jb.r0 + n) else rotCursor s r pc
    | none => rotCursor s r pc

/-- Key that tenant n's KEYIDX i names for a line, under a running rotation (R429). -/
def keyAt (s : State) (n i pc r : Nat) : Key :=
  match s.rotation with
  | some ro =>
    if ro.tenant = n ∧ ro.keyidx = i then
      match rotCursor s ro.jobs pc with
      | some c => if r < c then ro.newKey else ctxKey s (4 * n + i)
      | none => ro.newKey
    else ctxKey s (4 * n + i)
  | none => ctxKey s (4 * n + i)

/-- Key of a line of a segment of tenant n, or of the postmaster's own table (none). -/
def segKey (s : State) (n : Option Nat) (d : Desc) (pc r : Nat) : Key :=
  match n with
  | some n => keyAt s n d.keyidx.toNat pc r
  | none => ctxKey s (4096 + d.keyidx.toNat % 16)

/-- A line held between the halves of a read-modify-write is written before any other requester's counter slot (R356). -/
def settle (pc r : Nat) (s : State) : State :=
  match (getChan s pc).held with
  | some h =>
    if h.r = r ∧ !h.written then
      updChan (putLine pc r h.line s) pc (fun c => { c with held := some { h with written := true } })
    else s
  | none => s

/-- A scheduled write reaches a held line word by word, but for an atomic's own word (R357); of a rotation it replaces every word
(R429). -/
def mergeHeld (pc r : Nat) (v : BitVec 512 × BitVec 32) (k : Key) (s : State) : State :=
  match (getChan s pc).held with
  | some h =>
    if h.r = r ∧ !h.written then
      let w := if h.atomic.isSome then setLineWord v.1 v.2 h.word (lineWord h.line.data h.line.tags h.word) else v
      let k' := match h.job.bind (fun j => s.jobs.find? (fun x => x.1 == j)) with
        | some _ => (s.rotation.map (·.newKey)).getD k
        | none => k
      updChan s pc (fun c => { c with held := some { h with line := ⟨w.1, w.2, 0, k'⟩ } })
    else s
  | none => s

/-- A counter slot of requester q: the pointer moves to the number after it (R278), and a line held for another is written first (R356).
DESIGN CHOICE (log 24): a request of a tile, or of postmaster payload, is granted within the step that makes it. -/
def counterSlot (q pc r : Nat) (s : State) : State := updChan (settle pc r s) pc (fun c => { c with ptr := (q + 1) % 131 })

/-- The requester number of postmaster payload (R277). -/
def pmRequester : Nat := 128

/-- Read line l of a segment as source src for requester q: source 0 reads in a scheduled slot, every other in a counter slot. -/
def segReadLine (n : Option Nat) (d : Desc) (l src q : Nat) (s : State) : Option (BitVec 512 × BitVec 32) × State :=
  let pr := linePlace d l
  rdLine pr.1 pr.2 (segKey s n d pr.1 pr.2) src (if src = 0 then s else counterSlot q pr.1 pr.2 s)

/-- Write line l of a segment in a counter slot of requester q. -/
def segWriteLine (n : Option Nat) (d : Desc) (l q : Nat) (v : BitVec 512 × BitVec 32) (s : State) : State :=
  let pr := linePlace d l
  wrLine pr.1 pr.2 v.1 v.2 (segKey s n d pr.1 pr.2) (counterSlot q pr.1 pr.2 s)

/-- A line is held between the halves of a read-modify-write. -/
def lineHeld (pc r : Nat) (s : State) : Bool :=
  match (getChan s pc).held with
  | some h => h.r == r && !h.written
  | none => false

/-- Write line l of a segment in a scheduled slot. A line held by a read-modify-write takes the words, and is written with it: until then
reads see the line as before (R357, R429). -/
def segWriteSched (n : Option Nat) (d : Desc) (l : Nat) (v : BitVec 512 × BitVec 32) (s : State) : State :=
  let pr := linePlace d l
  let k := segKey s n d pr.1 pr.2
  if lineHeld pr.1 pr.2 s then mergeHeld pr.1 pr.2 v k s else wrLine pr.1 pr.2 v.1 v.2 k s

end Sys2Proof.Machine
end

