-- ==== Sys2Proof/Machine/Receipts.lean ====
section
/-! DEFINITION. Receipts and what they touch: MSI-X event counts (R571), reads and writes of a tenant's HBM segments by the
postmaster, franking (R432 to R436), trays, and unsolicited receipts (R501). -/
namespace Sys2Proof.Machine

open Sys2Proof

/-- Segment s of tenant n's table. -/
def tenDesc (s : State) (n seg : Nat) : Desc := tget (fun _ => Desc.empty) (getTen s n).segs seg

/-! ### Requests to host memory -/

/-- A request of a function goes out with a translated address: only of a TDI in RUN (R420). -/
def translates (s : State) (f : Fn) (a : Nat) : Bool :=
  match f with
  | .pf => false
  | .vf n => (getTen s n).tdi == .run && Config.atsHolds n a
/-- A posted write to host memory, and a read request. -/
def emitWrite (f : Fn) (a : Nat) (ws : List Word) (s : State) : State := emit (.hostWrite f a ws (translates s f a)) s
def emitRead (f : Fn) (a len : Nat) (s : State) : State := emit (.hostRead f a len (translates s f a)) s

/-! ### Vector events -/

/-- COUNT, TIME and the minimum spacing in force for a vector, times in SCLK (R571). -/
def vecTerms (s : State) (f : Fn) (x : Vec) : Nat × Nat × Nat :=
  match f with
  | .pf => (fld x.coal 23 16, 100 * fld x.coal 15 0, 0)
  | .vf n =>
    let c := (getTen s n).contract
    (max (fld x.coal 23 16) c.intMinCount, 100 * max (fld x.coal 15 0) c.intMinTime, 100 * c.intMinTime)

/-- One more event of a vector (R571): E saturates at 255; a feeding chute lends its priority, as 1 more than it (R573). -/
def countVec (f : Fn) (v prio : Nat) (s : State) : State :=
  updVec s f v (fun x => { x with
    events := min (x.events + 1) 255, first := if x.events = 0 then s.sclk else x.first,
    reached := if x.events < (vecTerms s f x).1 then s.sclk else x.reached, prio := max x.prio prio })

/-- Interrupt controller b: IC_CTRL. -/
def icCtrl (s : State) (b : Bool) : BitVec 32 := if b then s.ic1 else s.ic0

/-- The MASK in force for selection: a MASK just written is not yet (R574). -/
def chuteMask (x : Chute) : Bool := bit x.cfg 31 && !x.masking
/-- The Mask bit of a vector that is in force (R575). -/
def vecMask (x : Vec) : Bool := x.mask && !x.masking
def chutePrio (x : Chute) : Nat := fld x.cfg 27 24
def chuteKind (x : Chute) : Nat := fld x.cfg 23 21
def chuteIndex (x : Chute) : Nat := fld x.cfg 20 10

/-- The function whose vector a chute feeds (R555). -/
def chuteFn (x : Chute) : Option Fn :=
  match fld x.owner 31 30 with
  | 1 => some .pf
  | 2 => some (.vf (fld x.owner 9 0))
  | _ => none

/-- Deliver a pending chute whose consumer is a vector: one event of the vector (R565, R568). -/
def deliverVec (c : Nat) (s : State) : State :=
  let x := getChute s c
  if x.pending && !chuteMask x && chuteKind x == 3 && !bit s.ic0 31 && !inDoze s then
    match chuteFn x with
    | some f => countVec f (chuteIndex x) (chutePrio x + 1) (updChute s c (fun y => { y with pending := false }))
    | none => s
  else s

/-- One event of chute c, delivered at once where its consumer is a vector that may take it. -/
def chuteEvent (c : Nat) (s : State) : State := deliverVec c (raiseChute c s)

/-! ### Segments of a tenant, by line and by word -/

/-- Words w to w + k − 1 of an HBM segment, each line read once, as postmaster payload (source code 2); none for a word that is
uncorrectable or POISON. -/
def segWords (n : Option Nat) (d : Desc) (w k : Nat) (s : State) : List (Option TWord) × State :=
  let ls := ((List.range (k / 8 + 2)).map (· + w / 8)).filter (fun l => decide (8 * l < w + k))
  let r := forL ls (fun l a =>
    let x := segReadLine n d l 2 pmRequester a.2
    (a.1 ++ [x.1], x.2)) (([] : List (Option (BitVec 512 × BitVec 32))), s)
  ((List.range k).map (fun i => (nthD none r.1 ((w + i) / 8 - w / 8)).bind (fun l =>
    let x := lineWord l.1 l.2 ((w + i) % 8)
    if x.tag == 0xF then none else some x)), r.2)

/-- Write words, with their places, into line l of an HBM segment, as postmaster payload: all eight cost one slot; fewer are a
read-modify-write (R610). A line that cannot be read is left as it is (R343): the words are not written. -/
def segPutLine (n : Option Nat) (d : Desc) (l : Nat) (vs : List (Nat × TWord)) (s : State) : State :=
  let put := vs.foldl (fun (x : BitVec 512 × BitVec 32) v => setLineWord x.1 x.2 v.1 v.2)
  if 8 ≤ vs.length then segWriteLine n d l pmRequester (put (0, 0)) s
  else
    let a := segReadLine n d l 2 pmRequester s
    match a.1 with
    | some x => segWriteLine n d l pmRequester (put x) a.2
    | none => a.2

/-- Write words at places of segments, line by line. -/
def segPutAll (vs : List ((Option Nat × Desc × Nat) × TWord)) (s : State) : State :=
  forL ((vs.map (fun v => (v.1.1, v.1.2.1, v.1.2.2 / 8))).eraseDups) (fun k s =>
    segPutLine k.1 k.2.1 k.2.2
      ((vs.filter (fun v => (v.1.1, v.1.2.1, v.1.2.2 / 8) == k)).map (fun v => (v.1.2.2 % 8, v.2))) s) s

/-- Write words from word w of an HBM segment on. -/
def segPutWords (n : Option Nat) (d : Desc) (w : Nat) (ws : List TWord) (s : State) : State :=
  segPutAll ((List.range ws.length).map (fun i => ((n, d, w + i), nthD ⟨0, 0⟩ ws i))) s

/-! ### The system region (R716) -/

/-- Key of the lines of the postmaster's own areas. DESIGN CHOICE (log 60): the first of its cipher contexts (R427). -/
def sysKey (s : State) : Key := ctxKey s 4096

/-- Pseudo-channel and index of line l of a GLOBAL area whose first index lies q above the base of the region. -/
def areaLine (s : State) (q l : Nat) : Nat × Nat := (prismGlobal l, sysBase s + q + l / 1024)

/-- Eight words of a line, INT in a table of descriptors and RAW in a payload buffer or a dump (DESIGN CHOICE, log 60). -/
def intWords (ws : List Word) : List TWord := (List.range 8).map (fun i => ⟨wordAt ws i, 1⟩)
def rawWords (ws : List Word) : List TWord := (List.range 8).map (fun i => ⟨wordAt ws i, 0⟩)

/-- A line of an area has been written since the area was cleared. -/
def lineListed (s : State) (pr : Nat × Nat) : Bool := s.hbm.any (fun kv => kv.1 == lineKey pr.1 pr.2)

/-- Read a line of an area in a counter slot of requester q; one that nothing has written since the area was set up holds `dflt`. -/
def readTable (pr : Nat × Nat) (dflt : List TWord) (src q : Nat) (s : State) : Option (BitVec 512 × BitVec 32) × State :=
  let s1 := counterSlot q pr.1 pr.2 s
  if lineListed s pr then rdLine pr.1 pr.2 (sysKey s) src s1 else (some (lineData dflt, lineTags dflt), s1)

/-- The postmaster writes a line of an area. -/
def writeTable (pr : Nat × Nat) (ws : List TWord) (s : State) : State :=
  wrLine pr.1 pr.2 (lineData ws) (lineTags ws) (sysKey s) (counterSlot pmRequester pr.1 pr.2 s)

/-- The four words of a descriptor (R156). -/
def descWords (d : Desc) : List Word :=
  [BitVec.ofNat 64 d.base.toNat, BitVec.ofNat 64 d.limit.toNat,
   BitVec.ofNat 64 (d.keyidx.toNat * 2 ^ 32 + b2n d.global * 2 ^ 12 + d.homedie.toNat * 2 ^ 8 + d.space.toNat * 2 ^ 6 +
     b2n d.shareRemote * 2 ^ 5 + b2n d.sheet * 2 ^ 4 + b2n d.x * 8 + b2n d.w * 4 + b2n d.r * 2 + b2n d.valid),
   BitVec.ofNat 64 d.gen.toNat]

/-- Write a descriptor of a tenant's table: the postmaster's record of it, and the line that holds it and the one beside it (R155). -/
def putSeg (n seg : Nat) (d : Desc) (s : State) : State :=
  let s1 := updTen s n (fun t => { t with segs := tset (fun _ => Desc.empty) t.segs seg d })
  let l := seg / 2
  writeTable (areaLine s1 (2 * n) l) (intWords (descWords (tenDesc s1 n (2 * l)) ++ descWords (tenDesc s1 n (2 * l + 1)))) s1

/-- The indices from q on, n of them, are cleared: what they held goes, and what is armed for one of their lines acts on the line of zeros
written there (R360). -/
def clearArea (q n : Nat) (s : State) : State :=
  let lo := sysBase s + q
  let in_ (r : Nat) : Bool := decide (lo ≤ r) && decide (r < lo + n)
  let s1 := { s with
    hbm := s.hbm.filter (fun kv => !in_ (kv.1 % 2 ^ 24))
    chans := tmap PChan.reset (fun c => { c with
      writeBacks := c.writeBacks.filter (fun r => !in_ r), poison := c.poison.filter (fun r => !in_ r) }) s.chans }
  forN 16 (fun k s =>
    let a := hcReg s k 0x028
    if bit a 31 && in_ (fld a 24 1) then writeTable (64 * k + fld a 30 25, fld a 24 1) (rawWords []) s else s) s1

/-! ### Sessions and franking -/

def getSpdm (s : State) : Fn → Spdm
  | .pf => s.pfSpdm
  | .vf n => (getTen s n).spdm
def setSpdm (f : Fn) (x : Spdm) (s : State) : State :=
  match f with
  | .pf => { s with pfSpdm := x }
  | .vf n => updTen s n (fun t => { t with spdm := x })

/-- The franking key in force: that of the newest session (R436). -/
def frankKey (s : State) (f : Fn) : Option Key := (getSpdm s f).sessions.head?.map (·.franking)

/-- Franking nonce (R432): counter or sequence, mailbag number, receipt bit. -/
def frankNonce (c : Word) (bag : Nat) (receipt : Bool) : BitVec 96 := BitVec.ofNat 96 (c.toNat + (bag % 64 + b2n receipt * 128) * 2 ^ 64)

/-- The two words of a franking tag. -/
def frankWords (k : Key) (nonce : BitVec 96) (ws : List Word) : List Word :=
  let t := gcmTag k nonce ws
  [t.extractLsb' 0 64, t.extractLsb' 64 64]

/-! ### Trays (R455 to R459, R464) -/

def ringSize (b : Mailbag) : Nat := 2 ^ fld b.cfg 4 0
def traySize (b : Mailbag) : Nat := 2 ^ fld b.cfg 12 8
def bagEnabled (b : Mailbag) : Bool := bit b.cfg 31
def bagSpace (b : Mailbag) : Bool := bit b.cfg 30
/-- Entries held by the tray, and slots held by the ring. -/
def trayHeld (b : Mailbag) : Nat := (b.trayTail + 131072 - b.trayHead) % 131072
def ringHeld (b : Mailbag) : Nat := (b.tail + 131072 - b.head) % 131072
def trayRoom (b : Mailbag) : Bool := decide (trayHeld b < traySize b)

/-- The vector that counts a tray's receipts. -/
def bagVector (f : Fn) (m : Nat) (b : Mailbag) : Nat := match f with | .pf => 16 * m + fld b.cfg 19 16 | .vf _ => fld b.cfg 19 16

/-- The tenant a function acts for. -/
def fnTenant : Fn → Option Nat
  | .pf => none
  | .vf n => some n

/-- Write 32 bytes at entry e of a tray: a posted write to host memory, or words of the tenant's segment. A segment that no longer holds
the tray takes nothing. -/
def trayWrite (f : Fn) (b : Mailbag) (ws : List Word) (s : State) : State :=
  let e := b.trayTail % traySize b
  if bagSpace b then
    match f with
    | .vf n =>
      let d := tenDesc s n (wfld b.tray 63 52)
      if !(d.valid && d.space == 1 && d.w) || decide (d.limit.toNat + 1 < wfld b.tray 47 0 + 32 * traySize b) then s
      else segPutWords (some n) d ((wfld b.tray 47 0 + 32 * e) / 8) (ws.map (fun w => ⟨w, 0⟩)) s
    | .pf => s
  else emitWrite f (b.tray.toNat + 32 * e) ws s

/-- A receipt counter after one more receipt. DESIGN CHOICE (log 31): at 2^64 − 1, from where the mailbag rejects every envelope (R435), it
stays there. -/
def nextCtr (c : Word) : Word := if c.toNat + 1 = 2 ^ 64 then c else c + 1

/-- Write a receipt: its two leading words, with PHASE set here (R457), under a key and counter, the tag over the whole
entry with its franking field zero (R432, R434). A receipt without a key
(no session) has a zero franking field. -/
def writeReceipt (f : Fn) (m : Nat) (key : Option Key) (old : Option Word) (w0 w1 : Word) (s : State) : State :=
  let b := getBag s f m
  let phase := (b.trayTail / traySize b) % 2 == 0
  let w0 := if phase then w0 ||| BitVec.ofNat 64 (2 ^ 31) else w0
  let ctr := old.getD b.rcptCtr
  let fr := match key with
    | some k => frankWords k (frankNonce ctr m true) [w0, w1, 0, 0]
    | none => [0, 0]
  let s1 := trayWrite f b ([w0, w1] ++ fr) s
  let s2 := updBag s1 f m (fun b => { b with
    trayTail := (b.trayTail + 1) % 131072, rcptCtr := if key.isSome && old.isNone then nextCtr b.rcptCtr else b.rcptCtr })
  countVec f (bagVector f m b) 0 s2

/-- Word 0 of a receipt without PHASE: STATUS, lateness, COST; word 1: SEQ_ECHO and RESULT (R455). -/
def receiptW0 (status late cost : Nat) : Word := BitVec.ofNat 64 (status + min late 0x7FFF * 2 ^ 16 + min cost (2 ^ 32 - 1) * 2 ^ 32)
def receiptW1 (echo : Word) (result : BitVec 32) : Word := BitVec.ofNat 64 (echo.toNat % 2 ^ 32 + result.toNat * 2 ^ 32)

/-! ### Unsolicited receipts (R501) -/

def unsolOf (s : State) : Fn → List (BitVec 16 × Word) × Nat
  | .pf => (s.pfUnsol, s.pfLost)
  | .vf n => ((getTen s n).unsol, (getTen s n).lost)
def setUnsol (f : Fn) (l : List (BitVec 16 × Word)) (lost : Nat) (s : State) : State :=
  match f with
  | .pf => { s with pfUnsol := l, pfLost := lost }
  | .vf n => updTen s n (fun t => { t with unsol := l, lost := lost })

/-- Mailbag 0 of a function can take an unsolicited receipt. -/
def unsolReady (s : State) (f : Fn) : Bool := bagEnabled (getBag s f 0) && trayRoom (getBag s f 0)

def writeUnsol (f : Fn) (x : BitVec 16 × Word) (s : State) : State :=
  writeReceipt f 0 (frankKey s f) none (receiptW0 x.1.toNat 0 0) x.2 s

/-- An unsolicited receipt: written at once, or one of up to 16 that wait; further ones are counted. -/
def unsolicited (f : Fn) (status : BitVec 16) (detail : Word) (s : State) : State :=
  let q := unsolOf s f
  if unsolReady s f && q.1.isEmpty && q.2 == 0 then writeUnsol f (status, detail) s
  else if q.1.length < 16 then setUnsol f (q.1 ++ [(status, detail)]) q.2 s
  else setUnsol f q.1 (q.2 + 1) s

/-- Write waiting receipts while the tray has space, then S_EVT_LOST with the count. -/
def flushUnsol (f : Fn) : Nat → State → State
  | 0, s => s
  | k + 1, s =>
    if unsolReady s f then
      match unsolOf s f with
      | (x :: r, lost) => flushUnsol f k (writeUnsol f x (setUnsol f r lost s))
      | ([], 0) => s
      | ([], lost + 1) => writeUnsol f (0x0605, BitVec.ofNat 64 (lost + 1)) (setUnsol f [] 0 s)
    else s

end Sys2Proof.Machine
end

