-- ==== Sys2Proof/Machine/Ops.lean ====
section
/-! DEFINITION. The shared operations of an Ndoat engine: descriptors and the access check, loads and stores, the stacks with
spill and fill, taking a fault or an interrupt with its double and third faults, returning from one, tile reset, and
running one word (spec 03, 04). -/
namespace Sys2Proof.Machine

open Sys2Proof

/-- A synchronous fault about to be taken: code (R167), the half charged (R109) and FADDR (R175). -/
structure NFault where
  code : BitVec 8
  half : BitVec 2
  faddr : Word
  deriving DecidableEq, Repr, Inhabited

/-- Effects of a word: the state so far, or the fault that stops it with the state it leaves (R169, R719). -/
abbrev NM := EStateM NFault State

/-- The word that executes: engine, opcode and half as STATUS records them (R100), and its 32 bits. -/
structure WCtx where
  e : EngineId
  op : Nat
  half : BitVec 2
  word : Word
  deriving DecidableEq, Repr, Inhabited

def nF (c : WCtx) (code : BitVec 8) (faddr : Word) : NFault := ⟨code, c.half, faddr⟩

/-- Status word of a tag fault (R100), which FADDR copies (R175). -/
def tagStatus (c : WCtx) (found : Tag) (operand rule : Nat) : Word :=
  BitVec.ofNat 64 (c.op * 2 ^ 18 + c.half.toNat * 2 ^ 16 + found.toNat * 2 ^ 12 + operand * 2 ^ 9 + rule)

/-- F_TAG: the status word takes the detail. -/
def tagFault {α : Type} (c : WCtx) (found : Tag) (operand rule : Nat) : NM α :=
  throw (nF c 4 (tagStatus c found operand rule))

/-- FADDR in access-report form (R175). -/
def accRep (seg : Nat) (kind : Nat) (off : Nat) : Word := BitVec.ofNat 64 (seg * 2 ^ 52 + kind * 2 ^ 48 + off % 2 ^ 48)

def segFault {α : Type} (c : WCtx) (seg kind off : Nat) : NM α := throw (nF c 7 (accRep seg kind off))
def uncorrFault {α : Type} (c : WCtx) (seg kind off : Nat) : NM α := throw (nF c 8 (accRep seg kind off))
def alignFault {α : Type} (c : WCtx) (seg kind off : Nat) : NM α := throw (nF c 6 (accRep seg kind off))
def rangeFault {α : Type} (c : WCtx) (v : Word) : NM α := throw (nF c 5 v)
def illegalFault {α : Type} (c : WCtx) : NM α := throw (nF c 1 c.word)

/-! ### The engine inside a word -/

def nEng (c : WCtx) : NM Engine := do return getEng (← get) c.e
def nMod (c : WCtx) (f : Engine → Engine) : NM Unit := modify (fun s => updEng s c.e f)
def addCyc (c : WCtx) (n : Nat) : NM Unit := nMod c (fun x => { x with cycles := x.cycles + BitVec.ofNat 64 n })

/-- A wait whose length the model does not fix: a free number of cycles (R140). -/
def nWait (c : WCtx) : NM Unit := do
  let s ← get
  set (tick s)
  addCyc c (Config.waits s.free)

/-- The tile of an engine. -/
def engTile : EngineId → Option Nat
  | .tile t => some t
  | _ => none

/-- An access of the engine to a bank of its store: the TCLK for which it waits (R42, R43). A postmaster's private store has no other
master. -/
def engineAccess (e : EngineId) (bank : Nat) (s : State) : Nat × State :=
  match e with
  | .tile t =>
    let r := bankAccesses (physOf s t) [[some ⟨bank, 12, 3⟩]] s
    (r.1 - 1, r.2)
  | _ => (0, s)

/-- A bank access of a word: its wait adds to the word's cycles (R140). -/
def bankWait (c : WCtx) (bank : Nat) : NM Unit := do
  let n ← modifyGet (engineAccess c.e bank)
  addCyc c n

/-! ### Words of the engine's store -/

/-- Read word w (byte address / 8) of the tile's store, or of the postmaster's private store. -/
def storeRead (e : EngineId) (w : Nat) (s : State) : Option TWord × State :=
  match e with
  | .tile t => tsRead (physOf s t) w 0xC s
  | .pmA => (match checkWord (s.pmA.store.cell w) with | (.bad, _) => (none, s) | (_, v) => (some v, s))
  | .pmB => (match checkWord (s.pmB.store.cell w) with | (.bad, _) => (none, s) | (_, v) => (some v, s))

/-- Write word w of the engine's store. -/
def storeWrite (e : EngineId) (w : Nat) (v : TWord) (s : State) : State :=
  match e with
  | .tile t => tsWrite (physOf s t) w v s
  | .pmA => updPm s false (fun p => { p with store := p.store.put w ⟨v.data, v.tag, 0⟩ })
  | .pmB => updPm s true (fun p => { p with store := p.store.put w ⟨v.data, v.tag, 0⟩ })

def nRead (c : WCtx) (w : Nat) : NM (Option TWord) := do
  bankWait c (bankOf w)
  modifyGet (storeRead c.e w)

/-- Word index of system-row address a (R186): in a postmaster the rows lie at the base of the private store (R188). -/
def sysIdx (e : EngineId) (a : Nat) : Nat :=
  match e with
  | .tile _ => a / 8
  | _ => (a - 0x3FF000) / 8

/-- Write an INT word of the system rows. -/
def sysWrite (e : EngineId) (a : Nat) (v : Word) (s : State) : State := storeWrite e (sysIdx e a) ⟨v, 1⟩ s

/-! ### Descriptors (R155 to R161) -/

/-- A reserved bit of the four words is set (R156, R157). -/
def descReserved (ws : List Word) : Bool :=
  wfld (wordAt ws 0) 63 48 != 0 || wfld (wordAt ws 1) 63 48 != 0 ||
  (wordAt ws 2 &&& ~~~ BitVec.ofNat 64 (255 * 2 ^ 32 + 2 ^ 12 + 7 * 2 ^ 8 + 255)) != 0 || wfld (wordAt ws 3) 63 32 != 0

/-- A descriptor from its words. -/
def wordsDesc (ws : List Word) : Desc :=
  let w2 := wordAt ws 2
  { base := BitVec.ofNat 48 (wordAt ws 0).toNat, limit := BitVec.ofNat 48 (wordAt ws 1).toNat,
    keyidx := BitVec.ofNat 8 (wfld w2 39 32), global := w2.getLsbD 12, homedie := BitVec.ofNat 3 (wfld w2 10 8),
    space := BitVec.ofNat 2 (wfld w2 7 6), shareRemote := w2.getLsbD 5, sheet := w2.getLsbD 4, x := w2.getLsbD 3,
    w := w2.getLsbD 2, r := w2.getLsbD 1, valid := w2.getLsbD 0, gen := BitVec.ofNat 32 (wordAt ws 3).toNat,
    reserved := descReserved ws }

/-- A descriptor grants access: VALID, no reserved SPACE and no reserved bit set (R157). -/
def grants (d : Desc) : Bool := d.valid && decide (d.space.toNat < 2) && !d.reserved

/-- The HBM line that holds a descriptor and the one beside it (R155, R716), and what it holds while nothing has written it since boot: no
segment, or in the postmaster's own table what its firmware wrote. -/
def tableLine (s : State) (e : EngineId) (seg : Nat) : (Nat × Nat) × List TWord :=
  let l := seg / 2
  match e with
  | .tile t => (areaLine s (2 * ((getTile s t).owner.map (·.1)).getD 0) l, intWords [])
  | _ => (areaLine s 2048 l, intWords ((List.range 8).map (fun i => Config.pmDescWord (2 * l + i / 4) (i % 4))))

/-- The requester number of an engine's counter slots (R277). -/
def requesterOf : EngineId → Nat
  | .tile t => t
  | _ => pmRequester

/-- Put a descriptor at the front of the cache, dropping the least recently used of 64 (R160). -/
def cachePut (seg : BitVec 12) (d : Desc) (l : List (BitVec 12 × Desc)) : List (BitVec 12 × Desc) :=
  ((seg, d) :: l.filter (fun x => x.1 != seg)).take 64

/-- The descriptor of a segment as its table line gives it, read in a counter slot; none for a line that is uncorrectable or POISON (R161,
R346). A tile that no tenant holds has no table. -/
def fetchDesc (e : EngineId) (seg : Nat) (s : State) : Option Desc × State :=
  let tl := tableLine s e seg
  match e, tenantOf s e with
  | .tile _, none => (some Desc.empty, s)
  | _, _ =>
    let r := readTable tl.1 tl.2 1 (requesterOf e) s
    (r.1.bind (fun v =>
      let ws := (List.range 4).map (fun i => lineWord v.1 v.2 (4 * (seg % 2) + i))
      if ws.any (fun w => w.tag == 0xF) then none else some (wordsDesc (ws.map (·.data)))), r.2)

/-- The descriptor of a segment, from the cache or through a counter slot (R160, R161). `off` is the offset that an
F_UNCORR with KIND 0x4 reports. -/
def descOf (c : WCtx) (seg : BitVec 12) (off : Nat) : NM Desc := do
  let x ← nEng c
  match x.dcache.find? (fun p => p.1 == seg) with
  | some (_, d) =>
    nMod c (fun y => { y with dcache := cachePut seg d y.dcache })
    return d
  | none =>
    nWait c
    addCyc c 6
    match ← modifyGet (fetchDesc c.e seg.toNat) with
    | none => uncorrFault c seg.toNat 4 off
    | some d =>
      if grants d then nMod c (fun y => { y with dcache := cachePut seg d y.dcache })
      return d

/-- First byte of the range from address a of n bytes that lies outside the tile's banks or in a system row (R40). -/
def firstOutside (t : Tile) (a n : Nat) : Option Nat :=
  let m := t.reg 0x008
  let hit (lo : Nat) (hi : Nat) (acc : Option Nat) : Option Nat :=
    if lo < a + n ∧ a < hi then
      (match acc with | some x => some (min x (max a lo)) | none => some (max a lo))
    else acc
  forN 16 (fun b acc => if m.getLsbD b then acc else hit (b * 2 ^ 18) ((b + 1) * 2 ^ 18) acc)
    (hit 0x3FF000 (a + n) none)

/-- As `firstOutside`, for the engine's store: a postmaster's private store has no bank mask. -/
def outsideE (s : State) (e : EngineId) (a n : Nat) : Option Nat :=
  match e with
  | .tile t => firstOutside (getTile s t) a n
  | _ => none

/-- The access check of R158: n bytes at offset off of a segment, with its space and right. -/
def accessCheck (c : WCtx) (kind : Nat) (right : Desc → Bool) (hbmOk : Bool) (seg : BitVec 12) (off n : Nat) : NM Desc := do
  let d ← descOf c seg off
  if !grants d then segFault c seg.toNat kind off
  if d.space == 1 && !hbmOk then segFault c seg.toNat kind off
  if !right d then segFault c seg.toNat kind off
  if n != 0 && decide (d.limit.toNat < off + n - 1) then segFault c seg.toNat kind (max off (d.limit.toNat + 1))
  if d.space == 0 && n != 0 then
    match outsideE (← get) c.e (d.base.toNat + off) n with
    | some a => segFault c seg.toNat kind (a - d.base.toNat)
    | none => pure ()
  return d

/-! ### The store buffer (R163 to R166) -/

/-- Write the oldest entry, and discard a fetch line that holds it, whose row is read again from then on (R144). -/
def drainWrite (e : EngineId) (s : State) : State :=
  match (getEng s e).sb with
  | [] => s
  | (a, v) :: r =>
    let hit (l : FLine) : Bool := l.row == a / 256
    let s1 := updEng s e (fun x => { x with
      sb := r, lines := x.lines.filter (fun l => !hit l), known := if x.lines.any hit then x.cycles else x.known })
    storeWrite e (a / 8) v s1

/-- Drain the oldest entry: an access of the engine's port to its bank (R42, R163). -/
def drainOne (e : EngineId) (s : State) : State :=
  match (getEng s e).sb with
  | [] => s
  | (a, _) :: _ => drainWrite e (engineAccess e (a / 262144) s).2

/-- Drain the whole buffer, at most four entries. -/
def drainAll (e : EngineId) (s : State) : State := drainOne e (drainOne e (drainOne e (drainOne e s)))

/-- The youngest buffered value of word w (R164). -/
def forwarded (x : Engine) (w : Nat) : Option TWord :=
  (x.sb.reverse.find? (fun p => p.1 / 8 == w)).map (·.2)

/-- A store enters the buffer, waiting for an entry to free when it holds four (R163). -/
def pushStore (c : WCtx) (a : Nat) (v : TWord) : NM Unit := do
  let x ← nEng c
  if 4 ≤ x.sb.length then
    bankWait c (((x.sb.head?.map (·.1)).getD 0) / 262144)
    modify (drainWrite c.e)
  nMod c (fun y => { y with sb := y.sb ++ [(a, v)] })

/-! ### Loads and stores -/

/-- One aligned word of a checked segment, as the engine sees it: buffered value, store, or HBM line. -/
def readAt (c : WCtx) (d : Desc) (seg : BitVec 12) (kind off : Nat) : NM TWord := do
  if d.space == 1 then
    nWait c
    let n := tenantOf (← get) c.e
    match ← modifyGet (segReadLine n d (off / 64) 1 (requesterOf c.e)) with
    | some (dt, tg) => return lineWord dt tg (off / 8 % 8)
    | none => uncorrFault c seg.toNat kind off
  else
    let w := (d.base.toNat + off) / 8
    match forwarded (← nEng c) w with
    | some v => return v
    | none =>
      match ← nRead c w with
      | some v => return v
      | none => uncorrFault c seg.toNat kind off

/-- The two words of an unaligned load, in order. Two words of one HBM line come in one counter slot (R79). DESIGN CHOICE (log 58): when the
first word is uncorrectable the second is not read. -/
def readTwo (c : WCtx) (d : Desc) (seg : BitVec 12) (o : Nat) : NM (TWord × TWord) := do
  if d.space == 1 && o % 64 < 56 then
    nWait c
    let n := tenantOf (← get) c.e
    match ← modifyGet (segReadLine n d (o / 64) 1 (requesterOf c.e)) with
    | some (dt, tg) => return (lineWord dt tg (o / 8 % 8), lineWord dt tg (o / 8 % 8 + 1))
    | none => uncorrFault c seg.toNat 1 o
  else
    let v1 ← readAt c d seg 1 o
    let v2 ← readAt c d seg 1 (o + 8)
    return (v1, v2)

/-- Tag checks of R91 on a word delivered to the data stack or a block move; `priv` allows KEYREF. -/
def loadTag (c : WCtx) (seg : BitVec 12) (kind off operand : Nat) (v : TWord) : NM Unit := do
  if v.tag == 0xF then uncorrFault c seg.toNat kind off
  if v.tag == 4 then tagFault c v.tag operand 6
  if decide (8 ≤ v.tag.toNat) then tagFault c v.tag operand 9
  if v.tag == 7 && !privOf c.e then tagFault c v.tag operand 8

/-- Tag checks of R77 on a source word of an unaligned load. -/
def unalignedTag (c : WCtx) (seg : BitVec 12) (off operand : Nat) (v : TWord) : NM Unit := do
  if v.tag == 0xF then uncorrFault c seg.toNat 1 off
  if decide (3 ≤ v.tag.toNat) then tagFault c v.tag operand 0xA

/-- A data load of 8 bytes at an offset (R75 to R79, R91, R158, R164). DESIGN CHOICE (log 58): an unaligned load checks the tag of its first
word before that of its second. -/
def loadWord (c : WCtx) (seg : BitVec 12) (off : Nat) : NM TWord := do
  let d ← accessCheck c 1 (·.r) true seg off 8
  if off % 8 = 0 then
    let v ← readAt c d seg 1 off
    loadTag c seg 1 off 4 v
    return v
  else
    let o := off - off % 8
    let (v1, v2) ← readTwo c d seg o
    unalignedTag c seg o 4 v1
    unalignedTag c seg (o + 8) 5 v2
    addCyc c 2
    let r := (v2.data.toNat * 2 ^ 64 + v1.data.toNat) / 2 ^ (8 * (off % 8))
    return ⟨BitVec.ofNat 64 r, 0⟩

/-- A store of a word at an offset (R80, R158, R159, R163). -/
def storeWord (c : WCtx) (seg : BitVec 12) (off : Nat) (v : TWord) : NM Unit := do
  if off % 8 != 0 then alignFault c seg.toNat 2 off
  let d ← accessCheck c 2 (·.w) false seg off 8
  pushStore c (d.base.toNat + off) v

/-! ### Stacks (R95 to R98, R718) -/

/-- FADDR of F_STACK (R175). -/
def stackFault {α : Type} (h : BitVec 2) (bits : Nat) : NM α := throw ⟨3, h, BitVec.ofNat 64 bits⟩

/-- Base address in the store of the next spill or fill block of n words at index k of a stack's spill area, after the
checks: the reserved area while DFAULT (R183), otherwise the spill pointer's segment (R97, R158). -/
def spillPlace (c : WCtx) (h : BitVec 2) (ret fill : Bool) (k n : Nat) : NM Nat := do
  let x ← nEng c
  if x.dfault then
    if !fill && decide ((if ret then 16 else 64) < k + n) then stackFault h (2 + b2n ret)
    return sysIdx c.e (if ret then 0x3FF200 else 0x3FF000) + k
  else
    match if ret then x.rspill else x.dspill with
    | none => stackFault h (2 + b2n ret)
    | some p =>
      let seg : BitVec 12 := p.extractLsb' 52 12
      let off := wfld p 47 0 + 8 * k
      let d0 ← descOf c seg off
      if grants d0 && (!fill && decide (d0.limit.toNat < off + 8 * n - 1)) then stackFault h (2 + b2n ret)
      let d ← accessCheck { c with half := h } 3 (fun d => d.r && d.w) false seg off (8 * n)
      return (d.base.toNat + off) / 8

/-- Write a list of words upward. -/
def writeUp (e : EngineId) : Nat → List TWord → State → State
  | _, [], s => s
  | w, v :: r, s => writeUp e (w + 1) r (storeWrite e w v s)

/-- Spill the 8 lowest resident entries of a stack (R96). DESIGN CHOICE (log 58): the words that a double-fault handler spills into the
reserved rows keep their entries' tags, CODE on the return stack; R186 calls every word there INT. -/
def spillBlock (c : WCtx) (h : BitVec 2) (ret : Bool) : NM Unit := do
  let x ← nEng c
  let a ← spillPlace c h ret false (if ret then x.rSpilled else x.dSpilled) 8
  bankWait c (bankOf a)
  addCyc c 4
  if ret then
    let low := x.rs.drop (x.rs.length - 8)
    modify (writeUp c.e a (low.reverse.map (fun w => ⟨w, 4⟩)))
    nMod c (fun y => { y with rs := y.rs.take (y.rs.length - 8), rSpilled := y.rSpilled + 8 })
  else
    let low := x.ds.drop (x.ds.length - 8)
    modify (writeUp c.e a low.reverse)
    nMod c (fun y => { y with ds := y.ds.take (y.ds.length - 8), dSpilled := y.dSpilled + 8 })

/-- Read n words upward. -/
def readUp (e : EngineId) : Nat → Nat → State → List (Option TWord) × State
  | _, 0, s => ([], s)
  | w, n + 1, s =>
    let (v, s1) := storeRead e w s
    let (r, s2) := readUp e (w + 1) n s1
    (v :: r, s2)

/-- Tag checks of a fill, in ascending address (R91, R93). DESIGN CHOICE (log 58): a CODE word that a data-stack fill reads is recorded with
RULE 0x6, as one that a load reads. -/
def fillTags (c : WCtx) (ret : Bool) (seg : BitVec 12) : Nat → List TWord → NM Unit
  | _, [] => pure ()
  | off, v :: r => do
    if ret then
      if v.tag == 0xF then uncorrFault c seg.toNat 3 off
      if v.tag != 4 then tagFault c v.tag 6 7
    else loadTag c seg 3 off 4 v
    fillTags c ret seg (off + 8) r

/-- Read back the most recently spilled block (R96). -/
def fillBlock (c : WCtx) (h : BitVec 2) (ret : Bool) : NM Unit := do
  let c := { c with half := h }
  let x ← nEng c
  let held := if ret then x.rSpilled else x.dSpilled
  let n := min 8 held
  let a ← spillPlace c h ret true (held - n) n
  bankWait c (bankOf a)
  addCyc c 5
  let p := (if ret then x.rspill else x.dspill).getD 0
  let seg : BitVec 12 := p.extractLsb' 52 12
  let off := wfld p 47 0 + 8 * (held - n)
  let vs ← modifyGet (readUp c.e a n)
  match findFrom (·.isNone) 0 vs with
  | some (i, _) => uncorrFault c seg.toNat 3 (off + 8 * i)
  | none => pure ()
  let ws := vs.map (·.getD ⟨0, 0⟩)
  fillTags c ret seg off ws
  if ret then nMod c (fun y => { y with rs := y.rs ++ (ws.map (·.data)).reverse, rSpilled := held - n })
  else nMod c (fun y => { y with ds := y.ds ++ ws.reverse, dSpilled := held - n })

/-- Fill until n entries are resident or none remain spilled (at most two blocks are ever needed). -/
def fillTo (c : WCtx) (h : BitVec 2) (ret : Bool) (n : Nat) : Nat → NM Unit
  | 0 => pure ()
  | k + 1 => do
    let x ← nEng c
    let res := if ret then x.rs.length else x.ds.length
    let sp := if ret then x.rSpilled else x.dSpilled
    if res < n ∧ 0 < sp then
      fillBlock c h ret
      fillTo c h ret n k

/-- Spill until the entries resident after `pops` pops together with `pushes` pushes fit (R96). -/
def spillFor (c : WCtx) (h : BitVec 2) (ret : Bool) (pops pushes : Nat) : Nat → NM Unit
  | 0 => pure ()
  | k + 1 => do
    let x ← nEng c
    let res := if ret then x.rs.length else x.ds.length
    if 16 + pops < res + pushes ∧ pops < pushes then
      spillBlock c h ret
      spillFor c h ret pops pushes k

/-- What a word does to the stacks: entries needed resident, popped and pushed, on the data and return stacks. -/
structure Use where
  need : Nat
  pops : Nat
  pushes : Nat
  rpops : Nat
  rpushes : Nat
  deriving DecidableEq, Repr, Inhabited

/-- Stack depth and spill room for a word (step 3 of R171). DESIGN CHOICE (log 58): where both stacks fail, the order is the data stack's fill
and depth, the return stack's, the data stack's spill, the return stack's. -/
def stackPrep (c : WCtx) (u : Use) : NM Unit := do
  fillTo c c.half false u.need 2
  if (← nEng c).ds.length < u.need then stackFault c.half 0
  fillTo c c.half true u.rpops 2
  if (← nEng c).rs.length < u.rpops then stackFault c.half 1
  spillFor c c.half false u.pops u.pushes 2
  spillFor c c.half true u.rpops u.rpushes 2

def pushD (c : WCtx) (v : TWord) : NM Unit := nMod c (fun x => { x with ds := v :: x.ds })
def popD (c : WCtx) (n : Nat) : NM Unit := nMod c (fun x => { x with ds := x.ds.drop n })
def pushR (c : WCtx) (w : Word) : NM Unit := nMod c (fun x => { x with rs := w :: x.rs })
/-- Entry i of the data stack, T being 0. -/
def opnd (c : WCtx) (i : Nat) : NM TWord := do return nthD ⟨0, 0⟩ (← nEng c).ds i
def setFlags (c : WCtx) (u : FlagUpd) : NM Unit := nMod c (fun x => { x with flags := applyFlags x.flags u })

/-- A data operand must be INT or RAW (R89). -/
def isNum (t : Tag) : Bool := t == 0 || t == 1
def needNum (c : WCtx) (i : Nat) : NM TWord := do
  let v ← opnd c i
  if !isNum v.tag then tagFault c v.tag i 1
  return v
/-- An operand must carry a given tag (R92). -/
def needTag (c : WCtx) (i : Nat) (t : Tag) (rule : Nat) : NM TWord := do
  let v ← opnd c i
  if v.tag != t then tagFault c v.tag i rule
  return v
/-- Tag of a result: INT when every data operand is INT (R89). -/
def numTag (a b : Tag) : Tag := if a == 1 && b == 1 then 1 else 0

/-! ### Words and their successors -/

def codeSeg (w : Word) : BitVec 12 := w.extractLsb' 52 12
def codeOff (w : Word) : Nat := wfld w 47 0
/-- A CODE address n bytes further. -/
def codeAdd (w : Word) (n : Nat) : Word := codeWord (codeSeg w) (BitVec.ofNat 48 (codeOff w + n))
/-- A branch target: the branch word's address + 4 × DISP (R146). -/
def codeDisp (w : Word) (d : BitVec 22) : Word :=
  codeWord (codeSeg w) (BitVec.ofInt 48 ((codeOff w : Int) + 4 * d.toInt))

/-- What follows a word. -/
inductive Flow where
  /-- the next word in line -/
  | seq
  /-- a branch, taken to a target or not, with the stall that a wrong prediction costs (R145 to R150) -/
  | branch (target : Option Word) (annul : Bool) (stall : Nat)
  /-- the word stays at the pc: a block step or a wait (R127, R134) -/
  | stay
  /-- the word stays at the pc at a point that is no instruction boundary (R132, R170, R600) -/
  | hold
  /-- resume at pc and then npc (FRET) -/
  | jump (pc npc : Word) (dslot : Bool)
  /-- the pc does not move: the word left the engine elsewhere (TRAP, HALT) -/
  | done
  deriving DecidableEq, Repr

def applyFlow (f : Flow) (x : Engine) : Engine :=
  match f with
  | .seq =>
    { x with pc := x.npc, npc := codeAdd x.npc 4, dslot := false, annulled := false, mid := false, waiting := false, busy := false }
  | .branch t an st =>
    { x with pc := codeAdd x.pc 4, npc := t.getD (codeAdd x.pc 8), dslot := true, annulled := an && t.isNone, mid := false,
             waiting := false, busy := false, stall := st }
  | .stay => { x with mid := true, busy := false }
  | .hold => { x with busy := true }
  | .jump p n d =>
    { x with pc := p, npc := n, dslot := d, annulled := false, mid := false, waiting := false, busy := false, known := x.cycles - 1 }
  | .done => x

/-! ### Matrix locks that a fault entry breaks (R595, R596) -/

/-- Engines whose matrix request waits may go on with their word, whose request contends again. -/
def clearWaits (s : State) : State :=
  { s with
    pmA := { s.pmA with eng := { s.pmA.eng with mxWait := none } }, pmB := { s.pmB with eng := { s.pmB.eng with mxWait := none } },
    tiles := tmap Tile.reset (fun t => { t with eng := { t.eng with mxWait := none } }) s.tiles }

/-- Break the lock of target x when master m owns it; held requests contend again (R596). -/
def breakLock (m : Master) (x : Nat) (s : State) : State :=
  let l := getLock s x
  if l.owner = some m then
    clearWaits (updCm 0x000 (fun v => setBit v 1) (setLock x { l with owner := none, broken := true, former := some m } s))
  else s

/-- Break every lock of master m. -/
def breakLocks (m : Master) (s : State) : State := forL (s.cm.locks.map (·.1)) (breakLock m) s

def masterOf : EngineId → Master
  | .tile t => .tilePort t
  | .pmA => .pmA
  | .pmB => .pmB

/-! ### Tile reset (R631, R194, R269, R303, R317, R401) -/

/-- Registers of a tile block that a tile reset keeps: TS, TX_TRIPLE, TV_PIPES.RETIRED, TV_RESUME_n, TR_RESUME, TF_CHARGE,
TF_WINDOW_n. -/
def keptAtReset (off : Nat) : Bool :=
  decide (off < 0x200) || off == 0x210 || off == 0x30C || (decide (0x340 ≤ off) && decide (off ≤ 0x37C)) || off == 0x418 ||
  off == 0x508 || (decide (0x520 ≤ off) && decide (off ≤ 0x53C))

/-- A sheet slot is freed: its sheet goes and its generation advances (R303). -/
def freeSheet (x : Sheet) : Sheet := ⟨false, x.gen + 1, []⟩

/-- The number of sheet slots (R300). -/
def freeSheets (t : Tbl Sheet) : Tbl Sheet :=
  forN 8 (fun i t => tset (fun _ => Sheet.empty) t i (freeSheet (tget (fun _ => Sheet.empty) t i))) t

/-- Pipe n retired (TV_PIPES.RETIRED, R391). -/
def retirePipe (t : Tile) (n : Nat) : Tile := t.updReg 0x30C (fun v => setBit v (24 + n))

/-- A tile reset of physical tile p: the store is left unchanged. -/
def resetTile (p : Nat) (s : State) : State :=
  updP s p (fun t =>
    let t1 := (t.retiring.map (·.1)).foldl retirePipe t
    { t1 with
      eng := Engine.reset
      regs := (t1.regs.filter (fun kv => keptAtReset kv.1)).filterMap (fun kv =>
        if kv.1 == 0x30C then (let v := kv.2 &&& maskOf 31 24; if v == 0 then none else some (0x30C, v)) else some kv)
      streams := t1.streams.map (fun kv => (kv.1, { kv.2 with valid := false, seg := 0, offset := 0, stride := 0, remote := false, device := 0 }))
        |>.filter (fun kv => kv.2 != StreamEntry.empty)
      units := []
      sheets := freeSheets t1.sheets
      round := none
      sheetOwners := none
      setup := none
      waking := []
      stops := []
      switchRan := false
      tfInForce := 2
      retiring := [] })

/-- A served atomic whose line is held: it has been granted (R356, R451). -/
def atomicHeld (s : State) (k : Nat) : Bool := s.chans.any (fun kv => (kv.2.held.bind (·.atomic)) == some k)

/-- Drop the remote requests of logical tile t: their replies are discarded (R538, R533). An atomic of its own that has been granted
completes, with no answer (R451). -/
def dropTileReqs (t : Nat) (s : State) : State :=
  { s with
    reqs := s.reqs.filter (fun q => match q.kind with
      | .unitRead u _ => u != t | .unitWrite u _ => u != t | .postbox u _ _ => u != t | .atomic u => u != t
      | _ => true),
    served := (s.served.filter (fun x => x.localTile != some t || atomicHeld s x.k)).map (fun x =>
      if x.localTile == some t then { x with gone := true } else x) }

/-- Envelopes in execution that act on tenant tile index i of tenant n end for that tile (R652): TILE_READ, and the opcodes that
name tiles in TILE_SET. -/
def loseTile (n i : Nat) (e : Env) : Env :=
  let op := wfld (wordAt e.words 0) 6 0
  let owner := match e.place with
    | .tenantBag m _ => m
    | .pfBag _ => wfld (wordAt e.words 0) 25 16
    | .esend _ => e.origin.1
  let names := if op = 0x21 then wfld (wordAt e.words 4) 7 0 == i
    else decide (0x20 ≤ op ∧ op ≤ 0x26) && (wordAt e.words (4 + i / 64)).getLsbD (i % 64)
  if e.st == .executing && owner == n && names then { e with lost := addOnce e.lost i } else e

/-- The request of an engine that is reset no longer waits (R601). -/
def dropEngineReq (e : EngineId) (s : State) : State := { s with cm := { s.cm with hung := s.cm.hung.filter (fun h => h.eng != some e) } }

/-- A tile reset of logical tile t, whose ESEND lock it breaks (R595, R652). -/
def resetLogical (t : Nat) (s : State) : State :=
  let s1 := match (getTile s t).owner with
    | some (n, i) => { s with envs := s.envs.map (loseTile n i) }
    | none => s
  dropTileReqs t (dropEngineReq (.tile t) (breakLocks (.tilePort t) (resetTile (physOf s1 t) s1)))

/-! ### Taking a fault or an interrupt (R172 to R176, R182 to R186) -/

/-- FINFO (R174). -/
def finfo (hl : Nat) (half : BitVec 2) (ds : Bool) (f : Flags) (code : BitVec 8) : Word :=
  BitVec.ofNat 64 (hl * 2 ^ 16 + half.toNat * 2 ^ 14 + b2n ds * 2 ^ 12 + b2n f.n * 2 ^ 11 + b2n f.z * 2 ^ 10 + b2n f.c * 2 ^ 9 +
    b2n f.v * 2 ^ 8 + code.toNat)

/-- A word that entry records and pushes. -/
structure Frm where
  pc : Word
  npc : Word
  fin : Word
  fad : Word
  deriving DecidableEq, Repr, Inhabited

/-- Postmaster b after its reset: private store and engine cleared, its role failed until it has booted (R631, R658). -/
def resetPm (b : Bool) (s : State) : State :=
  let s1 := dropEngineReq (if b then .pmB else .pmA) (breakLocks (if b then .pmB else .pmA) s)
  let s2 := updPm s1 b (fun p => { p with eng := Engine.reset, store := ⟨true, []⟩ })
  if b then { s2 with sys := { s2.sys with stateB := 0 } } else { s2 with sys := { s2.sys with stateA := 0 } }

/-- A postmaster has failed, and is reset (R655, R658). -/
def failPm (b : Bool) (s : State) : State := updPm (resetPm b s) b (fun p => { p with failures := p.failures + 1 })

/-- Third fault (R185, R189, R652): the summary takes it, then the tile, or the postmaster, is reset; a tenant's tile reset goes into
the event log and is reported. -/
def thirdFault (e : EngineId) (fin fad : Word) (s : State) : State :=
  let s1 := sysWrite e 0x3FF3E8 (getEng s e).cycles (sysWrite e 0x3FF3D8 fad (sysWrite e 0x3FF3D0 fin s))
  match e with
  | .tile t =>
    let s2 := updTile s1 t (fun tl => tl.updReg 0x210 (fun v => setFld v 7 0 (min (fld v 7 0 + 1) 255)))
    let s3 := raiseChute (144 + physOf s t / 17) (resetLogical t s2)
    match (getTile s t).owner with
    | some (n, i) =>
      let s4 := { s3 with sys := { s3.sys with eventLog := s3.sys.eventLog ++ [(0x0603, t)] } }
      unsolicited (.vf n) 0x0603 (BitVec.ofNat 64 i) s4
    | none => s3
  | .pmA => failPm false s1
  | .pmB => failPm true s1

/-- TX_FAULTS.ENTRIES counts one more fault entry. -/
def countEntry (e : EngineId) (s : State) : State :=
  match e with
  | .tile t => updTile s t (fun tl => tl.updReg 0x20C (fun v => setFld v 15 0 ((fld v 15 0 + 1) % 65536)))
  | _ => s

/-- Sixteen words of a saved stack area, lowest entry first, zero above. -/
def areaWords (ws : List Word) : List Word := (List.range 16).map (fun i => nthD 0 ws i)

def sysWriteUp (e : EngineId) : Nat → List Word → State → State
  | _, [], s => s
  | a, w :: r, s => sysWriteUp e (a + 8) r (sysWrite e a w s)

def spillWord (p : Option Word) : Word := p.getD (codeWord 0 0)

/-! ### The fetch unit (R142 to R144, R711) -/

/-- A stored word of the engine's store. -/
def cellOf (s : State) (e : EngineId) (w : Nat) : SWord :=
  match e with
  | .tile t => (getTile s t).store.cell w
  | .pmA => s.pmA.store.cell w
  | .pmB => s.pmB.store.cell w

/-- Read a row into a fetch line: an access of master 0xC, whose row is there 4 cycles after it is accepted (R37, R142, R143). -/
def askLine (e : EngineId) (row : Nat) (known : Word) (s : State) : FLine × State :=
  let r := engineAccess e (row / 1024) s
  (⟨row, known + BitVec.ofNat 64 (4 + r.1), (List.range 32).map (fun i => cellOf r.2 e (32 * row + i)), []⟩, r.2)

/-- The row that the fetch unit reads ahead may be read: it lies in the tenant's banks, outside the system rows (R40). -/
def rowOpen (s : State) (e : EngineId) (row : Nat) : Bool := decide (row < 16384) && (outsideE s e (256 * row) 256).isNone

/-- The fetch lines once execution is in a row: that row first, and the next row in the other line, which is requested when execution
enters the row (R142). A row in neither line is read from the cycle in which its address became known (R143). -/
def enterRow (e : EngineId) (row : Nat) (s : State) : List FLine × State :=
  let x := getEng s e
  match x.lines with
  | l :: r =>
    if l.row = row then (l :: r, s)
    else
      let a := match r.find? (fun l => l.row == row) with
        | some l => (l, s)
        | none => askLine e row x.known s
      ahead a
  | [] => ahead (askLine e row x.known s)
where
  ahead (a : FLine × State) : List FLine × State :=
    if rowOpen a.2 e (row + 1) then
      let b := askLine e (row + 1) (getEng a.2 e).cycles a.2
      ([a.1, b.1], b.2)
    else ([a.1], a.2)

/-- The check result of an instruction word, reported when the sequencer first takes the word from its line (R711). -/
def takeWord (e : EngineId) (row word : Nat) (l : FLine) (s : State) : Option TWord × State :=
  let c := nthD SWord.zeroInt l.cells (word / 2)
  let w := 32 * row + word / 2
  match checkWord c with
  | (.good, v) => (some v, s)
  | (.corrected b, v) => (some v, report l (fun p => logCorrection p w b 0xC) s)
  | (.bad, _) => (none, report l (fun p => recordUncorr p w 0xC) s)
where
  report (l : FLine) (f : Nat → State → State) (s : State) : State :=
    match e with
    | .tile t => if l.taken.contains word then s else f (physOf s t) s
    | _ => s

/-- Cycles still to come before a word of a line whose row read ends at a given cycle. -/
def fetchRest (ready now : Word) : Nat := (ready.toInt - now.toInt).toNat

/-- Fetch the word at a CODE address (step 1 of R171): the access check, its line, and its check result. A word that the sequencer needs now
is preceded by the fetch stall, the larger of a repair and of what remains of its row read (R143); the entry of a handler only requests
its first word (none). -/
def fetchAt (c : WCtx) (at_ : Word) (repair : Option Nat) : NM Unit := do
  addCyc c (repair.getD 0)
  let d ← accessCheck c 0 (·.x) false (codeSeg at_) (codeOff at_) 4
  let a := d.base.toNat + codeOff at_
  let row := a / 256
  let word := a % 256 / 4
  let ls ← modifyGet (enterRow c.e row)
  let l := ls.headD ⟨row, 0, [], []⟩
  let v ← modifyGet (takeWord c.e row word l)
  nMod c (fun y => { y with lines := { l with taken := addOnce l.taken word } :: ls.drop 1 })
  if repair.isSome then nMod c (fun y => { y with cycles := y.cycles + BitVec.ofNat 64 (fetchRest l.ready y.cycles) })
  match v with
  | none => uncorrFault c (codeSeg at_).toNat 0 (codeOff at_)
  | some w => if w.tag == 0xF then uncorrFault c (codeSeg at_).toNat 0 (codeOff at_)

/-- The 32 bits of an instruction word, where its segment's descriptor is in the cache. -/
def codeBits (s : State) (e : EngineId) (at_ : Word) : Option Nat :=
  ((getEng s e).dcache.find? (fun p => p.1 == codeSeg at_)).map (fun p =>
    let a := p.2.base.toNat + codeOff at_
    (cellOf s e (a / 8)).data.toNat / 2 ^ (32 * (a % 8 / 4)) % 2 ^ 32)

/-- Push on the shadow return stack, which holds 16 (R153). -/
def shadowPush (w : Word) (x : Engine) : Engine := { x with shadow := (w :: x.shadow).take 16 }

/-- Where the fetch unit goes on after a branch word w at the pc and its delay slot (R150); none for a word that is no branch. -/
def branchAim (x : Engine) (w : Nat) : Option Word :=
  let op := w / 2 ^ 24
  let near := codeDisp x.pc (BitVec.ofNat 22 w)
  if op = 0x60 ∨ op = 0x70 then some near
  else if 0x61 ≤ op ∧ op ≤ 0x6F then some (if w.testBit 22 then near else codeAdd x.pc 8)
  else if op = 0x71 then some ((x.ds.head?.map (·.data)).getD (codeAdd x.pc 8))
  else if op = 0x72 then some (x.shadow.headD (codeAdd x.pc 8))
  else none

/-- NPC as R173 resolves it for the word at pc. -/
def npcOf (x : Engine) : Word := if x.dslot then x.npc else codeAdd x.pc 4

/-- The fetch queue: the two words that follow the executing word, the one at the pc, along the predicted path (R142). What it holds is
theirs in the fetch lines. -/
def fetchQ (e : EngineId) (s : State) : List Word :=
  let x := getEng s e
  let n := npcOf x
  let next := if x.dslot then none else (codeBits s e x.pc).bind (branchAim x)
  [n, next.getD (codeAdd n 4)]

/-- A CALL, CALLA or RET that had been fetched ahead and has not run leaves its mark on the shadow return stack (R153). -/
def fetchedAhead (e : EngineId) (l : List Word) (s : State) : State :=
  forL l (fun at_ s => match (codeBits s e at_).map (· / 2 ^ 24) with
    | some 0x70 => updEng s e (shadowPush (codeAdd at_ 8))
    | some 0x71 => updEng s e (shadowPush (codeAdd at_ 8))
    | some 0x72 => updEng s e (fun x => { x with shadow := x.shadow.drop 1 })
    | _ => s) s

/-- The CODE address of a handler (R168). -/
def handlerPc (code : BitVec 8) : Word := codeWord 0 (BitVec.ofNat 48 (16 * code.toNat))

/-- Row writes of fault entry in bank 15, and the TCLK for which they wait (R172, R183). -/
def rowWrites (e : EngineId) : Nat → State → Nat × State
  | 0, s => (0, s)
  | n + 1, s =>
    let r := engineAccess e 15 s
    let q := rowWrites e n r.2
    (r.1 + q.1, q.2)

/-- Double-fault entry (R183): locks broken (R595), summary, saved stacks, reserved stacks, the five words, DFAULT and the handler at 0x000.
A fault of the handler's fetch is a third fault (R185). DESIGN CHOICE (log 58): words 10, 11 and 13 of the summary, which belong to a third
fault, stay as they were. -/
def doubleFault (e : EngineId) (a : Frm) (fin2 fad2 : Word) (s : State) : State :=
  let s := breakLocks (masterOf e) s
  let x := getEng s e
  let depth := x.ds.length + x.dSpilled
  let rdepth := x.rs.length + x.rSpilled
  let sum : List Word := [a.pc, a.npc, a.fin, a.fad, fin2, fad2, spillWord x.dspill, spillWord x.rspill,
    BitVec.ofNat 64 depth, BitVec.ofNat 64 rdepth]
  let s1 := sysWriteUp e 0x3FF380 sum s
  let s1 := sysWrite e 0x3FF3E0 x.cycles s1
  let s2 := sysWriteUp e 0x3FF280 (areaWords (x.ds.reverse.map (·.data))) s1
  let s3 := sysWriteUp e 0x3FF300 (areaWords x.rs.reverse) s2
  let w (v : Word) : TWord := ⟨v, 1⟩
  let b := rowWrites e 3 s3
  let s4 := updEng b.2 e (fun y => { y with
    ds := [w fin2, w fad2, w a.fin, w a.fad, w a.pc], rs := [], dSpilled := 0, rSpilled := 0,
    dfault := true, pc := handlerPc 0, npc := codeAdd (handlerPc 0) 4, dslot := false, annulled := false, mid := false,
    waiting := false, busy := false, stall := 0, lastCode := 0, entering := none, mxWait := none, mxAnswer := none,
    known := y.cycles + BitVec.ofNat 64 (4 + b.1), cycles := y.cycles + BitVec.ofNat 64 (5 + b.1) })
  let s5 := countEntry e s4
  match (fetchAt ⟨e, 0, 0, 0⟩ (handlerPc 0) none).run s5 with
  | .ok _ s6 => s6
  | .error f s6 => thirdFault e (finfo (getEng s6 e).hlevel 0 false (getEng s6 e).flags f.code) f.faddr s6

/-- The entry sequence of R172 for a frame with a code; `irq` is the priority and chute of an interrupt. A fault on the
way is a double fault (R182). DESIGN CHOICE (log 58): its FINFO has HALF 0, DSLOT 0, and the HLEVEL and flags from before the entry; and
TX_FAULTS.ENTRIES counts the one double-fault entry, not the entry that became it. -/
def entrySeq (e : EngineId) (code : BitVec 8) (irq : Option (Nat × Nat)) (a : Frm) (s : State) : State :=
  let c : WCtx := ⟨e, 0, 0, 0⟩
  let x0 := getEng s e
  let prog : NM Unit := do
    spillFor c 0 true 0 2 2
    pushR c a.npc
    pushR c a.pc
    spillFor c 0 false 0 2 2
    pushD c ⟨a.fad, 1⟩
    pushD c ⟨a.fin, 1⟩
    addCyc c 4
    nMod c (fun x => { x with
      hlevel := x.hlevel + 1, svc := irq.map (·.1) :: x.svc, entering := irq.map (·.2), pc := handlerPc code,
      npc := codeAdd (handlerPc code) 4, dslot := false, annulled := false, mid := false, waiting := false, busy := false, stall := 0,
      mxWait := none, mxAnswer := none, lastCode := code, known := x.cycles - 1 })
    fetchAt c (handlerPc code) none
  match prog.run s with
  | .ok _ s1 => if irq.isNone then countEntry e s1 else s1
  | .error f s1 => doubleFault e a (finfo x0.hlevel 0 false x0.flags f.code) f.faddr s1

/-- The fault record and ring head (R186), in a tile sequencer. -/
def ringRecord (e : EngineId) (a : Frm) (s : State) : State :=
  match e with
  | .tile t =>
    let h := ((getTile s t).store.cell (0x3FF600 / 8)).data
    let i := h.toNat % 16
    let cyc := (getEng s e).cycles
    let s1 := sysWriteUp e (0x3FF400 + 32 * i) [a.pc, a.fin, a.fad, cyc] s
    let s2 := sysWrite e 0x3FF600 (BitVec.ofNat 64 ((h.toNat / 16 + 1) * 16 + (i + 1) % 16)) s1
    let b := rowWrites e 2 s2
    updEng b.2 e (fun x => { x with cycles := x.cycles + BitVec.ofNat 64 (2 + b.1) })
  | _ => s

/-- Take a fault: code, half, FADDR, the saved PC and NPC with DSLOT (R172, R173), and the words fetched ahead that have not run. Under DFAULT
it is a third fault, at HLEVEL 15 a double fault. -/
def takeFault (e : EngineId) (code : BitVec 8) (half : BitVec 2) (fad : Word) (pc npc : Word) (ds : Bool) (seen : List Word) (s : State) :
    State :=
  let x := getEng s e
  let fin := finfo x.hlevel half ds x.flags code
  let a : Frm := ⟨pc, npc, fin, fad⟩
  let s := breakLocks (masterOf e) s
  if x.dfault then thirdFault e fin fad s
  else
    let s1 := drainAll e (fetchedAhead e seen s)
    if 15 ≤ x.hlevel then doubleFault e a (finfo 15 0 false ⟨false, false, false, false⟩ 0) 0 s1
    else entrySeq e code none a (ringRecord e a s1)

/-- A synchronous fault of the word at the pc (R169): STATUS takes an F_TAG's detail (R100). The word itself and the two in the queue have
been fetched; TRAP's fault finds the pc past it. -/
def syncFault (e : EngineId) (f : NFault) (s : State) : State :=
  let x := getEng s e
  let s1 := if f.code == 4 then updEng s e (fun y => { y with status := BitVec.ofNat 32 f.faddr.toNat }) else s
  takeFault e f.code f.half f.faddr x.pc (npcOf x) x.dslot (if f.code == 9 then [x.pc, npcOf x] else x.pc :: fetchQ e s) s1

/-- The words fetched ahead and not run at an instruction boundary: the next two, or those that follow a block or wait word, which executes. -/
def aheadAtBoundary (e : EngineId) (s : State) : List Word :=
  let x := getEng s e
  if x.mid || x.waiting then fetchQ e s else [x.pc, npcOf x]

/-- An asynchronous fault or interrupt at an instruction boundary: PC is the next word, or the block or wait word. -/
def asyncFault (e : EngineId) (code : BitVec 8) (fad : Word) (s : State) : State :=
  let x := getEng s e
  takeFault e code 0 fad x.pc (npcOf x) x.dslot (aheadAtBoundary e s) s

/-- Entry of an interrupt: chute and priority in FADDR (R175, R566). -/
def takeInterrupt (e : EngineId) (chute prio : Nat) (s : State) : State :=
  let x := getEng s e
  let a : Frm := ⟨x.pc, npcOf x, finfo x.hlevel 0 x.dslot x.flags 0x10, BitVec.ofNat 64 (prio * 2 ^ 8 + chute)⟩
  entrySeq e 0x10 (some (prio, chute)) a (drainAll e (fetchedAhead e (aheadAtBoundary e s) s))

/-! ### Parked units resume (R245, R309) -/

/-- A parked instruction restarts from element 0 with the entries it captured at issue. -/
def restartUnit (u : VUnit) : VUnit :=
  { u with
    parked := false, started := false, strip := 0, outPos := 0, carry := 0, pipes := [], courier := none,
    disputed := none, remoteLeft := 0 }

/-- Cause c ends for an instruction: one that it parked, and that no other cause holds, restarts. -/
def releaseUnit (c : Nat) (u : VUnit) : VUnit :=
  if u.parked && u.holds.contains c then
    (let l := dropAll u.holds c
     if l.isEmpty then restartUnit { u with holds := l } else { u with holds := l })
  else u

/-- Cause c ends for a round: one that it parked, and that no other cause holds, waits to start again. -/
def releaseRound (c : Nat) (r : Round) : Round :=
  if r.st == 4 && r.holds.contains c then
    (let l := dropAll r.holds c
     { r with holds := l, st := if l.isEmpty then 1 else 4 })
  else r

/-- A deferrable cause ends on a tile: what it alone held parked goes on (R245, R309). -/
def releaseCause (c : Nat) (t : Tile) : Tile :=
  { t with stops := dropAll t.stops c, units := t.units.map (releaseUnit c), round := t.round.map (releaseRound c) }

/-- Return from a handler to ordinary code resumes what an interrupt entry parked, unless another cause holds it. -/
def resumeAfterIrq (e : EngineId) (s : State) : State :=
  match e with
  | .tile t => updTile s t (fun tl =>
      if tl.eng.hlevel == 0 && tl.eng.intParked then
        releaseCause 2 { tl with eng := { tl.eng with intParked := false, intActed := false } }
      else tl)
  | _ => s

/-! ### Running one word -/

/-- The engine stands at an instruction boundary (R170). -/
def atBoundary (x : Engine) : Bool := x.mxWait.isNone && !x.busy && (!x.dslot || x.mid || x.waiting)

/-- An asynchronous fault that may be taken now (R170, R179, R184). -/
def takeable (x : Engine) : Option Async :=
  if x.dfault then none
  else match x.pending.find? (fun a => match a with | .sealOverrun _ => true | _ => false) with
    | some a => some a
    | none =>
      if x.isSealed then none
      else match x.pending.find? (fun a => match a with | .reflect _ => true | _ => false) with
        | some a => some a
        | none => x.pending.head?

/-- Cycles for which an engine may stay sealed: 4,096 TCLK, or 2,048 MCLK in a postmaster (R180). -/
def sealLimit : EngineId → Nat
  | .tile _ => 4096
  | _ => 2048

/-- The seal counter after n more cycles (R178). -/
def sealCount (x : Engine) (n : Nat) : Nat := (x.cycles + BitVec.ofNat 64 n - x.sealStart).toNat

/-- The seal counter has reached its limit, which does not apply under DFAULT (R180, R184). -/
def sealDue (e : EngineId) (x : Engine) : Bool := x.isSealed && !x.dfault && decide (sealLimit e ≤ sealCount x 0)

/-- Something is due at this boundary before the next word: the end of a seal, a fault, a halt, or a descriptor invalidation. -/
def boundaryDue (s : State) (e : EngineId) : Bool :=
  let x := getEng s e
  atBoundary x && (sealDue e x || ((takeable x).isSome || (match e with
    | .tile t => bit ((getTile s t).reg 0x200) 1 || bit ((getTile s t).reg 0x208) 31
    | _ => false)))

/-- A fill runs on the engine's tile: accesses to its store wait (R713). -/
def fillBusy (s : State) (e : EngineId) : Bool := (engTile e).any (fun t => bit ((getTile s t).reg 0x004) 0)

/-- The engine can execute the word at its pc. In DOZE the standby postmaster is clock-gated (R619). -/
def runnable (s : State) (e : EngineId) : Bool :=
  let x := getEng s e
  x.runstate == 1 && x.mxWait.isNone && !boundaryDue s e && !fillBusy s e && (match e with
    | .tile t => !(getTile s t).poweredDown
    | .pmA => s.sys.doze != .dozing || s.sys.stateA == 2
    | .pmB => s.sys.doze != .dozing || s.sys.stateB == 2)

/-- How a word of the instruction set is laid out and checked at decode. -/
structure WordSpec where
  op : Nat
  fields : Nat
  cycles : Nat
  illegal : Engine → Bool
  priv : Bool
  use : Use

/-- Major opcodes that may not stand in a delay slot (R105). -/
def noSlot (op : Nat) : Bool := decide (0x60 ≤ op) && decide (op ≤ 0x77)

/-- The 32 bits of a long word (R101). -/
def longWord (op fields : Nat) : Word := BitVec.ofNat 64 (op * 2 ^ 24 + fields)

/-- Decode faults of a long word: F_ILLEGAL, then F_PRIV (step 2 of R171). -/
def decodeLong (c : WCtx) (w : WordSpec) : NM Unit := do
  let x ← nEng c
  if (x.dslot && noSlot w.op) || w.illegal x then illegalFault c
  if w.priv && !privOf c.e then throw (nF c 2 c.word)

/-- Everything before a word's own operation: its fetch (step 1), the stall before it, which is the larger of a repair and of what remains
of its row read (R143), and its first cycle. A word that is held has made them. -/
def beginWord (c : WCtx) : NM Unit := do
  let x ← nEng c
  if x.busy then nWait c
  else
    nMod c (fun y => { y with entering := none })
    fetchAt c x.pc (some (if x.dslot then 0 else x.stall))
    nMod c (fun y => if x.dslot then y else { y with stall := 0, known := y.cycles })
    addCyc c 1

/-- Run the word of an engine: its effect, or its fault. An engine that cannot execute a word now is left as it is. -/
def runWord (e : EngineId) (prog : NM Unit) (s : State) : State :=
  if runnable s e then
    match prog.run s with
    | .ok _ s1 => s1
    | .error f s1 => syncFault e f s1
  else s
def runProg (e : EngineId) (prog : NM Unit) (s : State) : Host.Outcome State Fault Refusal := onUnit (engExists s e) s (runWord e prog)

/-- A long operation: decode, stack, the operation itself, cycles, and what follows. An annulled word is only fetched
and decoded (R148). -/
def runLong (e : EngineId) (w : WordSpec) (body : WCtx → NM Flow) (s : State) : Host.Outcome State Fault Refusal :=
  let c : WCtx := ⟨e, w.op, 0, longWord w.op w.fields⟩
  runProg e (do
    beginWord c
    let x ← nEng c
    decodeLong c w
    if x.annulled then nMod c (applyFlow .seq)
    else
      stackPrep c w.use
      let f ← body c
      addCyc c (if f = .hold then 0 else w.cycles - 1)
      nMod c (applyFlow f)) s

end Sys2Proof.Machine
end

