-- ==== Sys2Proof/Machine/Operands.lean ====
section
/-! DEFINITION. Operand forms of the long and short operations (R103, R104), the short operations and the pair word
(R106 to R110, R113), and the decoder of a short operation's 15 bits. -/
namespace Sys2Proof.Machine

open Sys2Proof

/-! ### Forms -/

/-- Bits of a form M field. -/
def mBits (m : MForm) : Nat := m.seg.toNat * 2 ^ 12 + b2n m.b * 2 ^ 11 + m.imm.toNat
/-- Form M: IMM must be 0 when B is 0 (R103). -/
def mBad (m : MForm) : Bool := !m.b && m.imm != 0
/-- Byte offset of form M: X, or the sum Y + 8 × IMM, which does not wrap (R104); below zero it lies beyond every LIMIT. -/
def mOff (m : MForm) (x : Engine) : Nat :=
  if m.b then (let v : Int := (x.y.toNat : Int) + 8 * m.imm.toInt; (if v < 0 then v + 2 ^ 64 else v).toNat) else x.x.toNat
def brBits (f : BrForm) : Nat := b2n f.annul * 2 ^ 23 + b2n f.hint * 2 ^ 22 + f.disp.toNat
def bfBits (s : Bool) (pos wm1 : BitVec 6) : Nat := b2n s * 2 ^ 12 + pos.toNat * 2 ^ 6 + wm1.toNat
/-- IMM of form I24, sign-extended. -/
def imm24 (i : BitVec 24) : Word := i.signExtend 64
def imm9 (i : BitVec 9) : Word := i.signExtend 64

/-! ### Address arithmetic -/

/-- The ADDR for a segment at a computed offset, under R94: between 0 and one byte past the last. -/
def addrArith (c : WCtx) (seg : BitVec 12) (off : Int) : NM Word := do
  let rep := (off % 2 ^ 48).toNat
  let d ← descOf c seg rep
  if !grants d || decide (off < 0) || decide ((d.limit.toNat : Int) + 1 < off) then segFault c seg.toNat 5 rep
  return codeWord seg (BitVec.ofNat 48 off.toNat)

/-! ### Short operations -/

/-- What a short operation does: entries popped, words pushed (top last), X, Y and flags. -/
structure SRes where
  pops : Nat
  push : List TWord
  x : Option Word
  y : Option Word
  fl : FlagUpd
  deriving DecidableEq, Repr, Inhabited

/-- Minor opcode of a short operation (R113). -/
def shortMinor : ShortOp → Nat
  | .nop => 0x00 | .dup => 0x01 | .drop => 0x02 | .swap => 0x03 | .over => 0x04 | .rot => 0x05 | .nip => 0x06
  | .pick _ => 0x07 | .slit _ => 0x08 | .saddi _ => 0x09
  | .add => 0x10 | .adc => 0x11 | .sub => 0x12 | .sbc => 0x13 | .and => 0x14 | .or => 0x15 | .xor => 0x16 | .not => 0x17
  | .neg => 0x18 | .cmp => 0x19 | .tst => 0x1A | .clz => 0x1B | .popc => 0x1C
  | .shl _ => 0x20 | .shr _ => 0x21 | .sar _ => 0x22 | .rol _ => 0x23
  | .tox => 0x28 | .toy => 0x29 | .fromx => 0x2A | .fromy => 0x2B | .xadd _ => 0x2C | .yadd _ => 0x2D | .xcmp _ => 0x2E
  | .ycmp _ => 0x2F | .aadd => 0x30 | .aoff => 0x31 | .aseg => 0x32 | .adiff => 0x33
  | .toint => 0x38 | .toraw => 0x39 | .toflt => 0x3A | .tagof => 0x3B | .dset => 0x3C | .dstep => 0x3D

/-- Operand field [8:0] of a short operation. -/
def shortField : ShortOp → Nat
  | .pick n => n.toNat
  | .slit i => i.toNat
  | .saddi i => i.toNat
  | .shl n => n.toNat
  | .shr n => n.toNat
  | .sar n => n.toNat
  | .rol n => n.toNat
  | .xadd i => i.toNat
  | .yadd i => i.toNat
  | .xcmp i => i.toNat
  | .ycmp i => i.toNat
  | _ => 0

/-- The 15 bits of a short operation (R102). -/
def shortBits (o : ShortOp) : Nat := shortMinor o * 512 + shortField o

/-- Cycles of a short operation. -/
def shortCycles : ShortOp → Nat
  | .aadd => 3
  | .adiff => 3
  | .dset => 3
  | _ => 2

/-- Entries needed resident, popped and pushed. -/
def shortUse : ShortOp → Nat × Nat × Nat
  | .nop => (0, 0, 0)
  | .dup => (1, 0, 1)
  | .drop => (1, 1, 0)
  | .swap => (2, 2, 2)
  | .over => (2, 0, 1)
  | .rot => (3, 3, 3)
  | .nip => (2, 2, 1)
  | .pick n => (n.toNat + 1, 0, 1)
  | .slit _ => (0, 0, 1)
  | .saddi _ => (1, 1, 1)
  | .add => (2, 2, 1)
  | .adc => (2, 2, 1)
  | .sub => (2, 2, 1)
  | .sbc => (2, 2, 1)
  | .and => (2, 2, 1)
  | .or => (2, 2, 1)
  | .xor => (2, 2, 1)
  | .not => (1, 1, 1)
  | .neg => (1, 1, 1)
  | .cmp => (2, 0, 0)
  | .tst => (1, 0, 0)
  | .clz => (1, 1, 1)
  | .popc => (1, 1, 1)
  | .shl _ => (1, 1, 1)
  | .shr _ => (1, 1, 1)
  | .sar _ => (1, 1, 1)
  | .rol _ => (1, 1, 1)
  | .tox => (1, 1, 0)
  | .toy => (1, 1, 0)
  | .fromx => (0, 0, 1)
  | .fromy => (0, 0, 1)
  | .xadd _ => (0, 0, 0)
  | .yadd _ => (0, 0, 0)
  | .xcmp _ => (0, 0, 0)
  | .ycmp _ => (0, 0, 0)
  | .aadd => (2, 2, 1)
  | .aoff => (1, 1, 1)
  | .aseg => (1, 1, 1)
  | .adiff => (2, 2, 1)
  | .toint => (1, 1, 1)
  | .toraw => (1, 1, 1)
  | .toflt => (1, 1, 1)
  | .tagof => (1, 0, 1)
  | .dset => (2, 2, 3)
  | .dstep => (3, 3, 3)

def sPush (pops : Nat) (p : List TWord) (fl : FlagUpd := FlagUpd.none) : SRes := ⟨pops, p, none, none, fl⟩

/-- Entry i of the stack before a word, T being 0. -/
def viewAt (v : List TWord) (i : Nat) : TWord := nthD ⟨0, 0⟩ v i

/-- A data operand of a half: INT or RAW (R89). -/
def viewNum (c : WCtx) (v : List TWord) (i : Nat) : NM TWord := do
  if !isNum (viewAt v i).tag then tagFault c (viewAt v i).tag i 1
  return viewAt v i

/-- An operand of a half that must carry a given tag (R92). -/
def viewTag (c : WCtx) (v : List TWord) (i : Nat) (t : Tag) (rule : Nat) : NM TWord := do
  if (viewAt v i).tag != t then tagFault c (viewAt v i).tag i rule
  return viewAt v i

/-- A short operation with one numeric operand: tag check, result function, flags. -/
def short1 (c : WCtx) (v : List TWord) (f : Word → Word) (fl : Word → FlagUpd) : NM SRes := do
  let t ← viewNum c v 0
  return sPush 1 [⟨f t.data, t.tag⟩] (fl t.data)

/-- A short operation on S1 and T. -/
def short2 (c : WCtx) (v : List TWord) (f : Word → Word → Word) (fl : Word → Word → FlagUpd) : NM SRes := do
  let t ← viewNum c v 0
  let a ← viewNum c v 1
  return sPush 2 [⟨f a.data t.data, numTag a.tag t.tag⟩] (fl a.data t.data)

/-- A shift of T (R116). -/
def shortShift (c : WCtx) (v : List TWord) (k : ShKind) (n : BitVec 6) : NM SRes := do
  let t ← viewNum c v 0
  let (r, out) := shiftEval k t.data n.toNat
  return sPush 1 [⟨r, t.tag⟩] (shiftFlags r n.toNat out)

/-- A retag of T (R114). -/
def shortRetag (c : WCtx) (v : List TWord) (tag : Tag) : NM SRes := do
  let t := viewAt v 0
  if !(t.tag == 0 || t.tag == 1 || t.tag == 2) then tagFault c t.tag 0 0xB
  return sPush 1 [⟨t.data, tag⟩]

/-- Checks and result of a short operation, from the stack v and the state before its word (R106). DESIGN CHOICE (log 58): the divisor that
DSTEP leaves keeps its own tag. -/
def shortEval (c : WCtx) (v : List TWord) (o : ShortOp) : NM SRes := do
  let x ← nEng c
  let cin := x.flags.c
  match o with
  | .nop => return sPush 0 []
  | .dup => return sPush 0 [viewAt v 0]
  | .drop => return sPush 1 []
  | .swap => return sPush 2 [viewAt v 0, viewAt v 1]
  | .over => return sPush 0 [viewAt v 1]
  | .rot => return sPush 3 [viewAt v 1, viewAt v 0, viewAt v 2]
  | .nip => return sPush 2 [viewAt v 0]
  | .pick n => return sPush 0 [viewAt v n.toNat]
  | .slit i => return sPush 0 [⟨imm9 i, 1⟩]
  | .saddi i => short1 c v (· + imm9 i) (fun t => addFlags t (imm9 i) false)
  | .add => short2 c v (· + ·) (fun a t => addFlags a t false)
  | .adc => short2 c v (fun a t => (addc a t cin).1) (fun a t => addFlags a t cin)
  | .sub => short2 c v (· - ·) subFlags
  | .sbc => short2 c v (fun a t => (addc a (~~~ t) cin).1) (fun a t => addFlags a (~~~ t) cin)
  | .and => short2 c v (logicEval .and) (fun a t => logicFlags (logicEval .and a t))
  | .or => short2 c v (logicEval .or) (fun a t => logicFlags (logicEval .or a t))
  | .xor => short2 c v (logicEval .xor) (fun a t => logicFlags (logicEval .xor a t))
  | .not => short1 c v (~~~ ·) (fun t => logicFlags (~~~ t))
  | .neg => short1 c v (0 - ·) (fun t => subFlags 0 t)
  | .cmp => do
    let t ← viewNum c v 0
    let a ← viewNum c v 1
    return sPush 0 [] (subFlags a.data t.data)
  | .tst => do
    let t ← viewNum c v 0
    return sPush 0 [] (logicFlags t.data)
  | .clz => do
    let t ← viewNum c v 0
    let r := BitVec.ofNat 64 (clz64 t.data)
    return sPush 1 [⟨r, 1⟩] (resultFlags r)
  | .popc => do
    let t ← viewNum c v 0
    let r := BitVec.ofNat 64 (popc64 t.data)
    return sPush 1 [⟨r, 1⟩] (resultFlags r)
  | .shl n => shortShift c v .shl n
  | .shr n => shortShift c v .shr n
  | .sar n => shortShift c v .sar n
  | .rol n => shortShift c v .rol n
  | .tox => do
    let t ← viewNum c v 0
    return ⟨1, [], some t.data, none, FlagUpd.none⟩
  | .toy => do
    let t ← viewNum c v 0
    return ⟨1, [], none, some t.data, FlagUpd.none⟩
  | .fromx => return sPush 0 [⟨x.x, 1⟩]
  | .fromy => return sPush 0 [⟨x.y, 1⟩]
  | .xadd i => return ⟨0, [], some (x.x + imm9 i), none, FlagUpd.none⟩
  | .yadd i => return ⟨0, [], none, some (x.y + imm9 i), FlagUpd.none⟩
  | .xcmp i => return sPush 0 [] (subFlags x.x (imm9 i))
  | .ycmp i => return sPush 0 [] (subFlags x.y (imm9 i))
  | .aadd => do
    let t ← viewNum c v 0
    let a ← viewTag c v 1 3 2
    let r ← addrArith c (codeSeg a.data) ((codeOff a.data : Int) + t.data.toInt)
    return sPush 2 [⟨r, 3⟩]
  | .aoff => do
    let a ← viewTag c v 0 3 2
    return sPush 1 [⟨BitVec.ofNat 64 (codeOff a.data), 1⟩]
  | .aseg => do
    let a ← viewTag c v 0 3 2
    return sPush 1 [⟨(codeSeg a.data).setWidth 64, 1⟩]
  | .adiff => do
    let a2 ← viewTag c v 0 3 2
    let a1 ← viewTag c v 1 3 2
    if codeSeg a1.data != codeSeg a2.data then segFault c (codeSeg a2.data).toNat 5 (codeOff a2.data)
    return sPush 2 [⟨BitVec.ofInt 64 ((codeOff a1.data : Int) - codeOff a2.data), 1⟩]
  | .toint => shortRetag c v 1
  | .toraw => shortRetag c v 0
  | .toflt => shortRetag c v 2
  | .tagof => do
    let t := viewAt v 0
    return sPush 0 [⟨t.tag.setWidth 64, 1⟩]
  | .dset => do
    let d ← viewNum c v 0
    let n ← viewNum c v 1
    let tg := numTag n.tag d.tag
    return ⟨2, [⟨d.data, tg⟩, ⟨0, tg⟩, ⟨n.data, tg⟩], none, none, ⟨none, none, none, some (d.data == 0)⟩⟩
  | .dstep => do
    let q ← viewNum c v 0
    let p ← viewNum c v 1
    let d ← viewNum c v 2
    let tg := numTag d.tag (numTag p.tag q.tag)
    let r := divStep d.data p.data q.data
    return ⟨3, [d, ⟨r.1, tg⟩, ⟨r.2.1, tg⟩], none, none, ⟨none, none, some r.2.2, none⟩⟩

/-- Write the results of a half (R107, R108). -/
def applyShort (r : SRes) (x : Engine) : Engine :=
  { x with
    ds := r.push.reverse ++ x.ds.drop r.pops, x := r.x.getD x.x, y := r.y.getD x.y, flags := applyFlags x.flags r.fl }

/-- The short operation of 15 bits; none for a reserved minor opcode or a field bit marked 0 (R102, R103, R113). -/
def decodeShort (w : Nat) : Option ShortOp :=
  let f := w % 512
  let z (o : ShortOp) : Option ShortOp := if f = 0 then some o else none
  let n4 (o : BitVec 4 → ShortOp) : Option ShortOp := if f < 16 then some (o (BitVec.ofNat 4 f)) else none
  let i9 (o : BitVec 9 → ShortOp) : Option ShortOp := some (o (BitVec.ofNat 9 f))
  let sh (o : BitVec 6 → ShortOp) : Option ShortOp := if f < 64 then some (o (BitVec.ofNat 6 f)) else none
  match w / 512 with
  | 0x00 => z .nop | 0x01 => z .dup | 0x02 => z .drop | 0x03 => z .swap | 0x04 => z .over | 0x05 => z .rot | 0x06 => z .nip
  | 0x07 => n4 .pick | 0x08 => i9 .slit | 0x09 => i9 .saddi
  | 0x10 => z .add | 0x11 => z .adc | 0x12 => z .sub | 0x13 => z .sbc | 0x14 => z .and | 0x15 => z .or | 0x16 => z .xor
  | 0x17 => z .not | 0x18 => z .neg | 0x19 => z .cmp | 0x1A => z .tst | 0x1B => z .clz | 0x1C => z .popc
  | 0x20 => sh .shl | 0x21 => sh .shr | 0x22 => sh .sar | 0x23 => sh .rol
  | 0x28 => z .tox | 0x29 => z .toy | 0x2A => z .fromx | 0x2B => z .fromy | 0x2C => i9 .xadd | 0x2D => i9 .yadd
  | 0x2E => i9 .xcmp | 0x2F => i9 .ycmp | 0x30 => z .aadd | 0x31 => z .aoff | 0x32 => z .aseg | 0x33 => z .adiff
  | 0x38 => z .toint | 0x39 => z .toraw | 0x3A => z .toflt | 0x3B => z .tagof | 0x3C => z .dset | 0x3D => z .dstep
  | _ => none

/-! ### Pair words -/

/-- The word of a pair (R101). -/
def pairWord (a b : Nat) : Word := BitVec.ofNat 64 (2 ^ 31 + a * 2 ^ 16 + b * 2)

/-- Run a preparation, which may fault; the fault is kept for later. -/
def caught (p : NM Unit) : NM (Option NFault) := (do p; return none) |> tryCatchThe NFault <| fun f => return some f

/-- A kept fault of a half is raised; one of half B comes after half A's own checks (R109). -/
def raiseKept (f : Option NFault) (ofB : Bool) (checkA : NM Unit) : NM Unit :=
  match f with
  | some f => do
    if ofB then checkA
    throw f
  | none => pure ()

/-- Entries that a pair needs resident. -/
def pairNeed (ua ub : Nat × Nat × Nat) : Nat := max ua.1 (max ub.1 (ua.2.1 + (ub.2.1 - ua.2.2)))

/-- The fill that a pair needs, made once for the word and charged to half A when A alone would have needed it (R96, R110). DESIGN CHOICE (log
58): where A alone needs a fill, every block of the fill is charged to half A, those that only the pair needs too. -/
def pairFill (ca cb : WCtx) (ua ub : Nat × Nat × Nat) (checkA : NM Unit) : NM Unit := do
  let x ← nEng ca
  let byA := decide (x.ds.length < ua.1)
  let c := if byA then ca else cb
  raiseKept (← caught (fillTo c c.half false (pairNeed ua ub) 2)) (!byA) checkA

/-- Entries resident once the fill that a short operation alone would need has been made. -/
def aloneLen (u : Nat × Nat × Nat) (x : Engine) : Nat :=
  forN 2 (fun _ n => if n < u.1 then min (n + 8) (x.ds.length + x.dSpilled) else n) x.ds.length

/-- The spill that a pair needs, charged likewise: half A alone, with `len` entries resident, would have needed one. DESIGN CHOICE (log 58): a pair whose halves together push no more than they pop spills
nothing, and after a fill may leave more than 16 entries resident. -/
def pairSpill (ca cb : WCtx) (ua ub : Nat × Nat × Nat) (len : Nat) (checkA : NM Unit) : NM Unit := do
  let byA := decide (16 + ua.2.1 < len + ua.2.2) && decide (ua.2.1 < ua.2.2)
  let c := if byA then ca else cb
  raiseKept (← caught (spillFor c c.half false (ua.2.1 + ub.2.1) (ua.2.2 + ub.2.2) 2)) (!byA) checkA

/-- Fill and spill of a pair, before either half (R110). -/
def pairPrep (ca cb : WCtx) (ua ub : Nat × Nat × Nat) (checkA : NM Unit) : NM Unit := do
  let len := aloneLen ua (← nEng ca)
  pairFill ca cb ua ub checkA
  pairSpill ca cb ua ub len checkA

/-- Depth check of half A, then its tags and values, on the stack v before the word. -/
def halfA (c : WCtx) (v : List TWord) (a : ShortOp) : NM SRes := do
  if v.length < (shortUse a).1 then stackFault 1 0
  shortEval c v a

/-- The checks of half A on the entries that are resident. -/
def checkHalfA (c : WCtx) (a : ShortOp) : NM Unit := do
  discard (halfA c (← nEng c).ds a)

/-- A pair of short operations: fill and spill; checks of A, then of B, on the stack as it stood before the word, the entries just spilled
among it (R97, R106); then A's writes and B's (R106 to R110). -/
def pairBody (c : WCtx) (a b : ShortOp) : NM Unit := do
  let ca := { c with op := shortMinor a, half := 1 }
  let cb := { c with op := shortMinor b, half := 2 }
  let (ua, ub) := (shortUse a, shortUse b)
  let len := aloneLen ua (← nEng c)
  pairFill ca cb ua ub (checkHalfA ca a)
  let v := (← nEng c).ds
  pairSpill ca cb ua ub len (checkHalfA ca a)
  let ra ← halfA ca v a
  if v.length < ub.1 ∨ v.length + ua.2.2 < ua.2.1 + ub.2.1 then stackFault 2 0
  let rb ← shortEval cb v b
  nMod c (fun x => applyShort rb (applyShort ra x))
  addCyc c (max (shortCycles a) (shortCycles b) - 1)

/-- Run a pair word. -/
def runPair (e : EngineId) (a b : ShortOp) (s : State) : Host.Outcome State Fault Refusal :=
  let c : WCtx := ⟨e, 0, 0, pairWord (shortBits a) (shortBits b)⟩
  runProg e (do
    beginWord c
    let x ← nEng c
    if x.annulled then nMod c (applyFlow .seq)
    else
      pairBody c a b
      nMod c (applyFlow .seq)) s

end Sys2Proof.Machine
end

