-- ==== Sys2Proof/Machine/Arith.lean ====
section
/-! DEFINITION. Literals, address instructions, immediate arithmetic, multiply, bit fields and byte permute (R112, R117 to
R120), and reserved opcode words (R103). -/
namespace Sys2Proof.Machine

open Sys2Proof

/-- A long word with no decode condition of its own. -/
def wspec (op fields cycles need pops pushes : Nat) : WordSpec := ⟨op, fields, cycles, fun _ => false, false, ⟨need, pops, pushes, 0, 0⟩⟩

/-- LIT: pushes the sign-extended immediate as INT. -/
def execLit (e : EngineId) (imm : BitVec 24) (s : State) : Host.Outcome State Fault Refusal :=
  runLong e (wspec 0x01 imm.toNat 2 0 0 1) (fun c => do pushD c ⟨imm24 imm, 1⟩; return .seq) s

/-- LITR: pushes the zero-extended immediate as RAW. -/
def execLitr (e : EngineId) (imm : BitVec 24) (s : State) : Host.Outcome State Fault Refusal :=
  runLong e (wspec 0x02 imm.toNat 2 0 0 1) (fun c => do pushD c ⟨imm.setWidth 64, 0⟩; return .seq) s

/-- LITS: (T << 24) OR IMM, zero-extended, with T's tag, which must be INT or RAW (R89). -/
def execLits (e : EngineId) (imm : BitVec 24) (s : State) : Host.Outcome State Fault Refusal :=
  runLong e (wspec 0x03 imm.toNat 2 1 1 1) (fun c => do
    let t ← needNum c 0
    popD c 1
    pushD c ⟨(t.data <<< 24) ||| imm.setWidth 64, t.tag⟩
    return .seq) s

/-- SEGREF: ADDR of segment SEG at 8 × the word offset (R94). -/
def execSegref (e : EngineId) (seg off : BitVec 12) (s : State) : Host.Outcome State Fault Refusal :=
  runLong e (wspec 0x04 (seg.toNat * 4096 + off.toNat) 4 0 0 1) (fun c => do
    let a ← addrArith c seg (8 * off.toNat)
    pushD c ⟨a, 3⟩
    return .seq) s

/-- AADDI: adds IMM bytes to the offset of the ADDR at T (R94). -/
def execAaddi (e : EngineId) (imm : BitVec 24) (s : State) : Host.Outcome State Fault Refusal :=
  runLong e (wspec 0x05 imm.toNat 3 1 1 1) (fun c => do
    let a ← needTag c 0 3 2
    let r ← addrArith c (codeSeg a.data) ((codeOff a.data : Int) + imm.toInt)
    popD c 1
    pushD c ⟨r, 3⟩
    return .seq) s

/-- An operation of T and an immediate: result with T's tag, and flags. -/
def immOp (e : EngineId) (op : Nat) (imm : BitVec 24) (f : Word → Word → Word) (fl : Word → Word → FlagUpd) (s : State) :
    Host.Outcome State Fault Refusal :=
  runLong e (wspec op imm.toNat 2 1 1 1) (fun c => do
    let t ← needNum c 0
    popD c 1
    pushD c ⟨f t.data (imm24 imm), t.tag⟩
    setFlags c (fl t.data (imm24 imm))
    return .seq) s

/-- ADDI: T + IMM with the add flags. -/
def execAddi (e : EngineId) (imm : BitVec 24) (s : State) : Host.Outcome State Fault Refusal :=
  immOp e 0x28 imm (· + ·) (fun a b => addFlags a b false) s
/-- ANDI: T AND IMM with the logic flags. -/
def execAndi (e : EngineId) (imm : BitVec 24) (s : State) : Host.Outcome State Fault Refusal :=
  immOp e 0x29 imm (logicEval .and) (fun a b => logicFlags (logicEval .and a b)) s
/-- ORI: T OR IMM with the logic flags. -/
def execOri (e : EngineId) (imm : BitVec 24) (s : State) : Host.Outcome State Fault Refusal :=
  immOp e 0x2A imm (logicEval .or) (fun a b => logicFlags (logicEval .or a b)) s
/-- XORI: T XOR IMM with the logic flags. -/
def execXori (e : EngineId) (imm : BitVec 24) (s : State) : Host.Outcome State Fault Refusal :=
  immOp e 0x2B imm (logicEval .xor) (fun a b => logicFlags (logicEval .xor a b)) s

/-- CMPI: flags of T − IMM; the stack is unchanged. -/
def execCmpi (e : EngineId) (imm : BitVec 24) (s : State) : Host.Outcome State Fault Refusal :=
  runLong e (wspec 0x2C imm.toNat 2 1 0 0) (fun c => do
    let t ← needNum c 0
    setFlags c (subFlags t.data (imm24 imm))
    return .seq) s

/-- A multiply: S1 and T replaced by one half of their product (12 cycles). -/
def mulOp (e : EngineId) (op : Nat) (f : Word → Word → Word) (s : State) : Host.Outcome State Fault Refusal :=
  runLong e (wspec op 0 12 2 2 1) (fun c => do
    let t ← needNum c 0
    let a ← needNum c 1
    popD c 2
    pushD c ⟨f a.data t.data, numTag a.tag t.tag⟩
    setFlags c (resultFlags (f a.data t.data))
    return .seq) s

/-- MUL: low 64 bits of S1 × T. -/
def execMul (e : EngineId) (s : State) : Host.Outcome State Fault Refusal := mulOp e 0x30 mulLow s
/-- MULHU: high 64 bits of the unsigned product. -/
def execMulhu (e : EngineId) (s : State) : Host.Outcome State Fault Refusal := mulOp e 0x31 mulHighU s
/-- MULHS: high 64 bits of the signed product. -/
def execMulhs (e : EngineId) (s : State) : Host.Outcome State Fault Refusal := mulOp e 0x32 mulHighS s

/-- EXTI: extracts the field that the immediate names from T (R117). -/
def execExti (e : EngineId) (sx : Bool) (pos wm1 : BitVec 6) (s : State) : Host.Outcome State Fault Refusal :=
  runLong e (wspec 0x38 (bfBits sx pos wm1) 3 1 1 1) (fun c => do
    let t ← needNum c 0
    let r := extField sx t.data pos.toNat (wm1.toNat + 1)
    popD c 1
    pushD c ⟨r, t.tag⟩
    setFlags c (resultFlags r)
    return .seq) s

/-- INSI: inserts the low bits of T into S1 (R118); S = 1 is a reserved form (R112). -/
def execInsi (e : EngineId) (sx : Bool) (pos wm1 : BitVec 6) (s : State) : Host.Outcome State Fault Refusal :=
  runLong e { wspec 0x39 (bfBits sx pos wm1) 3 2 2 1 with illegal := fun _ => sx } (fun c => do
    let t ← needNum c 0
    let a ← needNum c 1
    let r := insField a.data t.data pos.toNat (wm1.toNat + 1)
    popD c 2
    pushD c ⟨r, numTag a.tag t.tag⟩
    setFlags c (resultFlags r)
    return .seq) s

/-- EXT: extracts from S1 under control word T (R117, R119). -/
def execExt (e : EngineId) (s : State) : Host.Outcome State Fault Refusal :=
  runLong e (wspec 0x3A 0 4 2 2 1) (fun c => do
    let t ← needNum c 0
    let a ← needNum c 1
    if !ctlOk t.data then rangeFault c t.data
    let r := extField (ctlS t.data) a.data (ctlPos t.data) (ctlW t.data)
    popD c 2
    pushD c ⟨r, numTag a.tag t.tag⟩
    setFlags c (resultFlags r)
    return .seq) s

/-- INS: inserts S1 into S2 under control word T, whose S must be 0 (R118, R119). -/
def execIns (e : EngineId) (s : State) : Host.Outcome State Fault Refusal :=
  runLong e (wspec 0x3B 0 4 3 3 1) (fun c => do
    let t ← needNum c 0
    let f ← needNum c 1
    let d ← needNum c 2
    if !ctlOk t.data || ctlS t.data then rangeFault c t.data
    let r := insField d.data f.data (ctlPos t.data) (ctlW t.data)
    popD c 3
    pushD c ⟨r, numTag d.tag (numTag f.tag t.tag)⟩
    setFlags c (resultFlags r)
    return .seq) s

/-- BPERM: byte permute of S1 and S2 under the nibbles of T, whose upper half must be zero (R120). -/
def execBperm (e : EngineId) (s : State) : Host.Outcome State Fault Refusal :=
  runLong e (wspec 0x3C 0 4 3 3 1) (fun c => do
    let t ← needNum c 0
    let a ← needNum c 1
    let b ← needNum c 2
    if 2 ^ 32 ≤ t.data.toNat then rangeFault c t.data
    let r := bperm b.data a.data t.data
    popD c 3
    pushD c ⟨r, numTag b.tag (numTag a.tag t.tag)⟩
    setFlags c (resultFlags r)
    return .seq) s

end Sys2Proof.Machine
end

