-- ==== Sys2Proof/Machine/Memory.lean ====
section
/-! DEFINITION. Loads, stores, special registers and the block operations (R89 to R99, R104, R112, R124 to R128). -/
namespace Sys2Proof.Machine

open Sys2Proof

/-- A long word of form M (R103, R104). -/
def mspec (op : Nat) (m : MForm) (cycles need pops pushes : Nat) : WordSpec :=
  { wspec op (mBits m) cycles need pops pushes with illegal := fun _ => mBad m }

/-- LD: pushes the word at the M address, its tag unchanged (R90, R158). -/
def execLd (e : EngineId) (m : MForm) (s : State) : Host.Outcome State Fault Refusal :=
  runLong e (mspec 0x10 m 4 0 0 1) (fun c => do
    let v ← loadWord c m.seg (mOff m (← nEng c))
    pushD c v
    return .seq) s

/-- ST: stores T at the M address by way of the store buffer (R163). -/
def execSt (e : EngineId) (m : MForm) (s : State) : Host.Outcome State Fault Refusal :=
  runLong e (mspec 0x11 m 3 1 1 0) (fun c => do
    let w ← opnd c 0
    storeWord c m.seg (mOff m (← nEng c)) w
    popD c 1
    return .seq) s

/-- A loaded word that X or Y takes must be INT or RAW (R89). -/
def loadNum (c : WCtx) (m : MForm) : NM Word := do
  let v ← loadWord c m.seg (mOff m (← nEng c))
  if !isNum v.tag then tagFault c v.tag 4 1
  return v.data

/-- LDX: X ← the loaded word. -/
def execLdx (e : EngineId) (m : MForm) (s : State) : Host.Outcome State Fault Refusal :=
  runLong e (mspec 0x12 m 4 0 0 0) (fun c => do
    let v ← loadNum c m
    nMod c (fun x => { x with x := v })
    return .seq) s

/-- LDY: Y ← the loaded word. -/
def execLdy (e : EngineId) (m : MForm) (s : State) : Host.Outcome State Fault Refusal :=
  runLong e (mspec 0x13 m 4 0 0 0) (fun c => do
    let v ← loadNum c m
    nMod c (fun x => { x with y := v })
    return .seq) s

/-- STX: stores X as INT. -/
def execStx (e : EngineId) (m : MForm) (s : State) : Host.Outcome State Fault Refusal :=
  runLong e (mspec 0x14 m 3 0 0 0) (fun c => do
    let x ← nEng c
    storeWord c m.seg (mOff m x) ⟨x.x, 1⟩
    return .seq) s

/-- STY: stores Y as INT. -/
def execSty (e : EngineId) (m : MForm) (s : State) : Host.Outcome State Fault Refusal :=
  runLong e (mspec 0x15 m 3 0 0 0) (fun c => do
    let x ← nEng c
    storeWord c m.seg (mOff m x) ⟨x.y, 1⟩
    return .seq) s

/-- Offset of an ADDR plus 8 × IMM; below zero it lies beyond every LIMIT. -/
def adOff (a : TWord) (imm : BitVec 24) : Nat := (BitVec.ofNat 64 (codeOff a.data) + 8 * imm24 imm).toNat

/-- LDA: loads the word at ADDR a + 8 × IMM. -/
def execLda (e : EngineId) (imm : BitVec 24) (s : State) : Host.Outcome State Fault Refusal :=
  runLong e (wspec 0x16 imm.toNat 5 1 1 1) (fun c => do
    let a ← needTag c 0 3 2
    let v ← loadWord c (codeSeg a.data) (adOff a imm)
    popD c 1
    pushD c v
    return .seq) s

/-- STA: stores w at ADDR a + 8 × IMM. -/
def execSta (e : EngineId) (imm : BitVec 24) (s : State) : Host.Outcome State Fault Refusal :=
  runLong e (wspec 0x17 imm.toNat 4 2 2 0) (fun c => do
    let a ← needTag c 0 3 2
    let w ← opnd c 1
    storeWord c (codeSeg a.data) (adOff a imm) w
    popD c 2
    return .seq) s

/-! ### Special registers (R99) -/

/-- Bit i set for each outstanding vector instruction ID i (VPEND). -/
def vpend (s : State) (e : EngineId) : Word :=
  match e with
  | .tile t => (getTile s t).units.foldl (fun a u => a ||| BitVec.ofNat 64 (2 ^ u.id.toNat)) 0
  | _ => 0

/-- MODE (R99, R187). DESIGN CHOICE (log 59): the spec names no register or command that sets RESUME, so a postmaster's set comes with the
restored context alone. -/
def modeWord (s : State) (e : EngineId) : Word :=
  let x := getEng s e
  BitVec.ofNat 64 (b2n (privOf e) + b2n x.resume * 2 + b2n x.isSealed * 4 + b2n x.dfault * 8)

def flagWord (f : Flags) : Word := BitVec.ofNat 64 (b2n f.n * 8 + b2n f.z * 4 + b2n f.c * 2 + b2n f.v)

/-- What RDSR pushes for a selector (R99); an unset spill pointer reads as ADDR 0 of segment 0 (R718). -/
def readSr (s : State) (e : EngineId) (sel : Nat) : TWord :=
  let x := getEng s e
  match sel with
  | 0x00 => ⟨x.x, 1⟩
  | 0x01 => ⟨x.y, 1⟩
  | 0x02 => ⟨flagWord x.flags, 1⟩
  | 0x03 => ⟨x.status.setWidth 64, 1⟩
  | 0x04 => ⟨BitVec.ofNat 64 (x.ds.length + x.dSpilled), 1⟩
  | 0x05 => ⟨BitVec.ofNat 64 (x.rs.length + x.rSpilled), 1⟩
  | 0x06 => ⟨spillWord x.dspill, 3⟩
  | 0x07 => ⟨spillWord x.rspill, 3⟩
  | 0x08 => ⟨postmark s, 1⟩
  | 0x09 => ⟨x.cycles, 1⟩
  | 0x0A => ⟨vpend s e, 1⟩
  | _ => ⟨modeWord s e, 1⟩

/-- RDSR: pushes the special register; a reserved selector is illegal. -/
def execRdsr (e : EngineId) (sel : BitVec 8) (s : State) : Host.Outcome State Fault Refusal :=
  runLong e { wspec 0x20 sel.toNat 2 0 0 1 with illegal := fun _ => decide (0x0C ≤ sel.toNat) } (fun c => do
    let v := readSr (← get) c.e sel.toNat
    pushD c v
    return .seq) s

/-- Selectors that WRSR may write (R99). -/
def writable (sel : Nat) : Bool := decide (sel ≤ 2) || sel == 6 || sel == 7

/-- The checks of a write to a spill pointer, in R98's order. DESIGN CHOICE (log 58): their access report has KIND 3, a spill or fill. -/
def spillChecks (c : WCtx) (ret : Bool) (a : TWord) : NM Unit := do
  if a.tag != 3 then tagFault c a.tag 0 2
  let seg := codeSeg a.data
  let off := codeOff a.data
  let d ← descOf c seg off
  if !grants d || d.space != 0 || !d.r || !d.w then segFault c seg.toNat 3 off
  if off % 64 != 0 then alignFault c seg.toNat 3 off
  let x ← nEng c
  if 0 < (if ret then x.rSpilled else x.dSpilled) then stackFault 0 (4 + b2n ret)

/-- WRSR: writes X, Y, FLAGS, DSPILL or RSPILL from T; other selectors are illegal. -/
def execWrsr (e : EngineId) (sel : BitVec 8) (s : State) : Host.Outcome State Fault Refusal :=
  runLong e { wspec 0x21 sel.toNat 3 1 1 0 with illegal := fun _ => !writable sel.toNat } (fun c => do
    let v ← opnd c 0
    if sel == 6 || sel == 7 then
      spillChecks c (sel == 7) v
      popD c 1
      nMod c (fun x => if sel == 7 then { x with rspill := some v.data } else { x with dspill := some v.data })
    else
      let v ← needNum c 0
      popD c 1
      nMod c (fun x =>
        if sel == 0 then { x with x := v.data }
        else if sel == 1 then { x with y := v.data }
        else { x with flags := ⟨v.data.getLsbD 3, v.data.getLsbD 2, v.data.getLsbD 1, v.data.getLsbD 0⟩ })
    return .seq) s

/-! ### Block operations (R124 to R128) -/

/-- An ADDR 8 bytes on. -/
def addrNext (v : TWord) : TWord := ⟨codeAdd v.data 8, v.tag⟩

/-- R124: alignment, then the source range, then the destination range. -/
def blockChecks (c : WCtx) (move : Bool) (src dst : TWord) (n : Nat) : NM (Desc × Desc) := do
  let so := codeOff src.data
  let d := codeOff dst.data
  if d % 8 != 0 then alignFault c (codeSeg dst.data).toNat 2 d
  if move && so % 8 != 0 then alignFault c (codeSeg src.data).toNat 1 so
  let sd ← if move then accessCheck c 1 (·.r) true (codeSeg src.data) so (8 * n) else pure Desc.empty
  let dd ← accessCheck c 2 (·.w) false (codeSeg dst.data) d (8 * n)
  return (sd, dd)

/-- One start, resumption or step of MOVW (move) or FILLW, with the base cycles of a start, which a fault of its checks or of its first read
comes before (R719): with X zero it pops its operands and completes,
otherwise it moves one word (R125, R126). DESIGN CHOICE (log 58): with X zero the range is empty and no check of R124 is made. -/
def blockStep (c : WCtx) (move dir : Bool) (base : Nat) : NM Flow := do
  let dst ← needTag c 0 3 2
  let src ← if move then needTag c 1 3 2 else opnd c 1
  let x ← nEng c
  if x.x == 0 then
    addCyc c base
    popD c 2
    return .seq
  let n := x.x.toNat
  let (sd, dd) ← blockChecks c move src dst n
  let k := if dir then 0 else 8 * (n - 1)
  let v ← if move then
      (do let so := codeOff src.data + k
          let v ← readAt c sd (codeSeg src.data) 1 so
          loadTag c (codeSeg src.data) 1 so 4 v
          return v)
    else pure src
  addCyc c base
  pushStore c (dd.base.toNat + codeOff dst.data + k) v
  bankWait c ((dd.base.toNat + codeOff dst.data + k) / 262144)
  modify (drainWrite c.e)
  addCyc c (if move then 2 else 1)
  nMod c (fun y => { y with x := y.x - 1 })
  if dir then
    nMod c (fun y => { y with ds :=
      (match y.ds with
       | d :: sr :: r => addrNext d :: (if move then addrNext sr else sr) :: r
       | l => l) })
  if n == 1 then
    popD c 2
    return .seq
  return .stay

/-- A block word: decoded and fetched when it starts or resumes, then one step per command (R127). -/
def runBlock (e : EngineId) (op : Nat) (move dir : Bool) (s : State) : Host.Outcome State Fault Refusal :=
  let c : WCtx := ⟨e, op, 0, longWord op (b2n dir)⟩
  runProg e (do
    let x ← nEng c
    if x.mid then
      let f ← blockStep c move dir 0
      nMod c (applyFlow f)
    else
      beginWord c
      if x.annulled then nMod c (applyFlow .seq)
      else
        stackPrep c ⟨2, 2, 0, 0, 0⟩
        modify (drainAll c.e)
        let f ← blockStep c move dir 3
        nMod c (applyFlow f)) s

/-- MOVW: copies X words from s to d, one per step. -/
def execMovw (e : EngineId) (dir : Bool) (s : State) : Host.Outcome State Fault Refusal := runBlock e 0x40 true dir s
/-- FILLW: stores v into X words at d, one per step. -/
def execFillw (e : EngineId) (dir : Bool) (s : State) : Host.Outcome State Fault Refusal := runBlock e 0x41 false dir s

end Sys2Proof.Machine
end

