-- ==== Sys2Proof/Machine/Control.lean ====
section
/-! DEFINITION. Branches and their delay slots, TRAP, FRET, sealing and HALT, the events of the sequencer, and reserved opcode
words (R103, R145 to R154, R162, R163, R170, R176 to R181). -/
namespace Sys2Proof.Machine

open Sys2Proof

/-! ### Branches -/

/-- The fetch unit follows a path that is not taken: the row of a target that may be fetched is read into the other line; its words are then
discarded, and what they left on the shadow return stack is undone (R142, R150). -/
def fetchAside (e : EngineId) (at_ : Word) (s : State) : State :=
  let x := getEng s e
  match x.dcache.find? (fun p => p.1 == codeSeg at_), x.lines with
  | some (_, d), l :: r =>
    let row := (d.base.toNat + codeOff at_) / 256
    if !d.x || decide (d.limit.toNat < codeOff at_ + 3) || !rowOpen s e row || (l :: r).any (fun l => l.row == row) then s
    else
      let a := askLine e row x.cycles s
      updEng a.2 e (fun y => { y with lines := [l, a.1] })
  | _, _ => s

/-- Cycles of a conditional branch beyond its 2: the bubble of a taken one; and the stall of a wrong hint (R150, R152). A branch that is not
taken against its hint has had its target fetched. -/
def condBranch (e : EngineId) (op : Nat) (f : BrForm) (taken : Engine → Bool) (wr : Engine → Engine) (s : State) :
    Host.Outcome State Fault Refusal :=
  runLong e (wspec op (brBits f) 2 0 0 0) (fun c => do
    let x ← nEng c
    let t := taken x
    if t then addCyc c 1
    if !t && f.hint then modify (fetchAside c.e (codeDisp x.pc f.disp))
    nMod c wr
    return .branch (if t then some (codeDisp x.pc f.disp) else none) f.annul (if t == f.hint then 0 else 2)) s

/-- A branch on the flags. -/
def flagBranch (e : EngineId) (op : Nat) (k : Cond) (f : BrForm) (s : State) : Host.Outcome State Fault Refusal :=
  condBranch e op f (fun x => condHolds k x.flags) id s

/-- ANNUL and HINT are positions marked 0 of BR and CALL (R105). -/
def hinted (f : BrForm) : Bool := f.annul || f.hint

/-- BR: branches always, after its delay slot. -/
def execBr (e : EngineId) (f : BrForm) (s : State) : Host.Outcome State Fault Refusal :=
  runLong e { wspec 0x60 (brBits f) 3 0 0 0 with illegal := fun _ => hinted f } (fun c => do
    let x ← nEng c
    return .branch (some (codeDisp x.pc f.disp)) false 0) s

/-- BZ: Z = 1. -/
def execBz (e : EngineId) (f : BrForm) (s : State) : Host.Outcome State Fault Refusal := flagBranch e 0x61 .z f s
/-- BNZ: Z = 0. -/
def execBnz (e : EngineId) (f : BrForm) (s : State) : Host.Outcome State Fault Refusal := flagBranch e 0x62 .nz f s
/-- BN: N = 1. -/
def execBn (e : EngineId) (f : BrForm) (s : State) : Host.Outcome State Fault Refusal := flagBranch e 0x63 .n f s
/-- BNN: N = 0. -/
def execBnn (e : EngineId) (f : BrForm) (s : State) : Host.Outcome State Fault Refusal := flagBranch e 0x64 .nn f s
/-- BC: C = 1. -/
def execBc (e : EngineId) (f : BrForm) (s : State) : Host.Outcome State Fault Refusal := flagBranch e 0x65 .c f s
/-- BNC: C = 0. -/
def execBnc (e : EngineId) (f : BrForm) (s : State) : Host.Outcome State Fault Refusal := flagBranch e 0x66 .nc f s
/-- BV: V = 1. -/
def execBv (e : EngineId) (f : BrForm) (s : State) : Host.Outcome State Fault Refusal := flagBranch e 0x67 .v f s
/-- BNV: V = 0. -/
def execBnv (e : EngineId) (f : BrForm) (s : State) : Host.Outcome State Fault Refusal := flagBranch e 0x68 .nv f s
/-- BGT: Z = 0 and N = V. -/
def execBgt (e : EngineId) (f : BrForm) (s : State) : Host.Outcome State Fault Refusal := flagBranch e 0x69 .gt f s
/-- BLE: Z = 1 or N ≠ V. -/
def execBle (e : EngineId) (f : BrForm) (s : State) : Host.Outcome State Fault Refusal := flagBranch e 0x6A .le f s
/-- BGE: N = V. -/
def execBge (e : EngineId) (f : BrForm) (s : State) : Host.Outcome State Fault Refusal := flagBranch e 0x6B .ge f s
/-- BLT: N ≠ V. -/
def execBlt (e : EngineId) (f : BrForm) (s : State) : Host.Outcome State Fault Refusal := flagBranch e 0x6C .lt f s
/-- BHI: C = 1 and Z = 0. -/
def execBhi (e : EngineId) (f : BrForm) (s : State) : Host.Outcome State Fault Refusal := flagBranch e 0x6D .hi f s
/-- BLS: C = 0 or Z = 1. -/
def execBls (e : EngineId) (f : BrForm) (s : State) : Host.Outcome State Fault Refusal := flagBranch e 0x6E .ls f s

/-- BXNZ: decides on X − 1 ≠ 0 and writes X − 1, whether or not it branches (R146). -/
def execBxnz (e : EngineId) (f : BrForm) (s : State) : Host.Outcome State Fault Refusal :=
  condBranch e 0x6F f (fun x => x.x - 1 != 0) (fun x => { x with x := x.x - 1 }) s

/-- CALL: pushes CODE past the delay slot and branches. -/
def execCall (e : EngineId) (f : BrForm) (s : State) : Host.Outcome State Fault Refusal :=
  runLong e { wspec 0x70 (brBits f) 4 0 0 0 with illegal := fun _ => hinted f, use := ⟨0, 0, 0, 0, 1⟩ } (fun c => do
    let x ← nEng c
    pushR c (codeAdd x.pc 8)
    nMod c (shadowPush (codeAdd x.pc 8))
    return .branch (some (codeDisp x.pc f.disp)) false 0) s

/-- CALLA: pushes CODE past the delay slot and branches to the ADDR at T (R150). A target off a word boundary faults F_ALIGN
(log 12). After a descriptor miss the path the fetch unit followed is open: the repair is a free value. -/
def execCalla (e : EngineId) (s : State) : Host.Outcome State Fault Refusal :=
  runLong e { wspec 0x71 0 5 1 1 0 with use := ⟨1, 1, 0, 0, 1⟩ } (fun c => do
    let a ← needTag c 0 3 2
    let seg := codeSeg a.data
    let off := codeOff a.data
    if off % 4 != 0 then alignFault c seg.toNat 0 off
    let x ← nEng c
    let hit := x.dcache.any (fun p => p.1 == seg)
    discard (descOf c seg off)
    if !hit then nMod c (fun y => { y with known := y.cycles })
    popD c 1
    pushR c (codeAdd x.pc 8)
    nMod c (shadowPush (codeAdd x.pc 8))
    if hit then return .branch (some a.data) false 0
    let k := (← get).free
    modify tick
    return .branch (some a.data) false (2 * (Config.waits k % 2))) s

/-- RET: pops CODE from the return stack and branches to it; a prediction of the shadow stack that differs, and has been fetched, or an empty
shadow stack, costs the repair stall (R153). -/
def execRet (e : EngineId) (s : State) : Host.Outcome State Fault Refusal :=
  runLong e { wspec 0x72 0 4 0 0 0 with use := ⟨0, 0, 0, 1, 0⟩ } (fun c => do
    let x ← nEng c
    let t := nthD 0 x.rs 0
    match x.shadow.head? with
    | some p => if p != t then modify (fetchAside c.e p)
    | none => pure ()
    nMod c (fun y => { y with rs := y.rs.drop 1, shadow := y.shadow.drop 1 })
    return .branch (some t) false (if x.shadow.head? == some t then 0 else 2)) s

/-! ### TRAP, FRET, SEAL, UNSEAL, HALT -/

/-- TRAP: raises F_TRAP with CODE; the saved PC is the word after it (R167). -/
def execTrap (e : EngineId) (code : BitVec 16) (s : State) : Host.Outcome State Fault Refusal :=
  runLong e (wspec 0x73 code.toNat 4 0 0 0) (fun c => do
    addCyc c 3
    nMod c (applyFlow .seq)
    throw ⟨9, 0, code.setWidth 64⟩) s

/-- The frame that FRET pops: FINFO at T, FADDR at S1, CODE PC and NPC on the return stack (R172). -/
def fretApply (fin : Word) (x : Engine) : Engine :=
  { x with
    ds := x.ds.drop 2, rs := x.rs.drop 2,
    flags := ⟨fin.getLsbD 11, fin.getLsbD 10, fin.getLsbD 9, fin.getLsbD 8⟩, hlevel := x.hlevel - 1, svc := x.svc.drop 1 }

/-- The seal counter reaches its limit: the seal clears and F_SEAL_OVERRUN pends (R180). -/
def overrun (e : EngineId) (s : State) : State :=
  let s1 := updEng s e (fun y => { y with
    isSealed := false,
    pending := y.pending ++ [.sealOverrun (accRep (codeSeg y.sealPc).toNat 0 (codeOff y.sealPc))] })
  match e with
  | .tile t => updTile s1 t (fun tl => tl.updReg 0x20C (fun v => setFld v 31 16 ((fld v 31 16 + 1) % 65536)))
  | _ => s1

/-- A word with n cycles still to come ends the seal in its last cycle: normally when the count then is at most the limit, otherwise the
limit was reached first (R180, R181). -/
def endSeal (e : EngineId) (n : Nat) (s : State) : State :=
  let x := getEng s e
  if x.isSealed && !x.dfault && decide (sealLimit e < sealCount x n) then overrun e s
  else updEng s e (fun y => { y with isSealed := false })

/-- How FRET is decoded: F_ILLEGAL at HLEVEL 0 and under DFAULT (R177). -/
def fretSpec : WordSpec := { wspec 0x74 0 6 2 2 0 with illegal := fun x => x.hlevel == 0 || x.dfault, use := ⟨2, 2, 0, 2, 0⟩ }

/-- The checks of FRET's first cycle on the frame: F_TAG, F_RANGE. FINFO (R177). -/
def fretChecks (c : WCtx) : NM TWord := do
  let fi ← needTag c 0 1 0xC
  let _ ← needTag c 1 1 0xC
  if 2 ^ 20 ≤ fi.data.toNat then rangeFault c fi.data
  return fi

/-- FRET: checks and pops the handler frame and resumes at PC, or at NPC when SKIP is set (R177, R720). -/
def execFret (e : EngineId) (s : State) : Host.Outcome State Fault Refusal :=
  runLong e fretSpec (fun c => do
    let fi ← fretChecks c
    let x ← nEng c
    let pc := nthD 0 x.rs 0
    let npc := nthD 0 x.rs 1
    if x.hlevel - 1 < x.sealLevel then modify (endSeal c.e 5)
    nMod c (fretApply fi.data)
    modify (resumeAfterIrq c.e)
    if fi.data.getLsbD 13 then return .jump npc (codeAdd npc 4) false
    return .jump pc npc (fi.data.getLsbD 12)) s

/-- SEAL: seals the running handler and starts the seal counter from 0 at its last cycle; no effect when already sealed (R178). -/
def execSeal (e : EngineId) (s : State) : Host.Outcome State Fault Refusal :=
  runLong e { wspec 0x75 0 2 0 0 0 with illegal := fun x => x.hlevel == 0 } (fun c => do
    nMod c (fun x => if x.isSealed then x else
      { x with isSealed := true, sealLevel := x.hlevel, sealStart := x.cycles + 1, sealPc := x.pc })
    return .seq) s

/-- UNSEAL: ends the seal; no effect when not sealed (R180). -/
def execUnseal (e : EngineId) (s : State) : Host.Outcome State Fault Refusal :=
  runLong e (wspec 0x76 0 2 0 0 0) (fun c => do
    modify (endSeal c.e 1)
    return .seq) s

/-- The engine reports halted: HALT_REQ clears (TX_CTRL). -/
def haltEngine (e : EngineId) (s : State) : State :=
  let s1 := updEng (drainAll e s) e (fun x => { x with runstate := 2, entering := none })
  match e with
  | .tile t => updTile s1 t (fun tl => tl.updReg 0x200 (fun v => clrBit v 1))
  | _ => s1

/-- HALT: drains the store buffer, ends a seal and stops the engine (R165, R166, R180). -/
def execHalt (e : EngineId) (s : State) : Host.Outcome State Fault Refusal :=
  runLong e (wspec 0x77 0 2 0 0 0) (fun c => do
    modify (endSeal c.e 1)
    modify (haltEngine c.e)
    return .seq) s

/-! ### Events at an instruction boundary -/

/-- FADDR and code of a pending asynchronous fault (R167, R175). -/
def asyncInfo : Async → BitVec 8 × Word
  | .sealOverrun w => (0x0A, w)
  | .reflect w => (0x0D, w)
  | .vector w => (0x0C, w)

/-- ASYNC_FAULT_ENTRY: at an instruction boundary the first pending asynchronous fault that may be taken is taken (R170); its writes wait for
a fill to end (R713). -/
def execAsyncFaultEntry (e : EngineId) (s : State) : Host.Outcome State Fault Refusal :=
  onUnit (engExists s e) s (fun s =>
    let x := getEng s e
    if x.runstate == 1 && atBoundary x && !fillBusy s e then
      match takeable x with
      | some a => asyncFault e (asyncInfo a).1 (asyncInfo a).2 (updEng s e (fun y => { y with pending := y.pending.erase a }))
      | none => s
    else s)

/-- SEAL_OVERRUN: the seal counter has reached its limit while the engine is sealed: the seal clears and F_SEAL_OVERRUN pends;
no limit applies under DFAULT (R180, R184). In a wait, whose cycles are otherwise counted when it ends, the event says that as many have passed. -/
def execSealOverrun (e : EngineId) (s : State) : Host.Outcome State Fault Refusal :=
  onUnit (engExists s e) s (fun s =>
    let x := getEng s e
    if x.isSealed && !x.dfault && (sealDue e x || x.waiting || x.busy || x.mxWait.isSome) then
      overrun e (if sealDue e x then s else updEng s e (fun y => { y with cycles := y.sealStart + BitVec.ofNat 64 (sealLimit e) }))
    else s)

/-- ENGINE_HALT: a pending HALT_REQ is taken at a boundary where no asynchronous fault, and no end of a seal, is due first (R170, R180,
R192). -/
def execEngineHalt (e : EngineId) (s : State) : Host.Outcome State Fault Refusal :=
  onUnit (engExists s e) s (fun s =>
    let x := getEng s e
    match e with
    | .tile t =>
      if x.runstate == 1 && atBoundary x && (takeable x).isNone && !sealDue e x && bit ((getTile s t).reg 0x200) 1 then haltEngine e s else s
    | _ => s)

/-- STORE_BUFFER_DRAIN: one entry drains (R163). -/
def execStoreBufferDrain (e : EngineId) (s : State) : Host.Outcome State Fault Refusal :=
  onUnit (engExists s e) s (drainOne e)

/-- DESCRIPTOR_INVALIDATE: at a boundary, or at once when the engine does not run, the named entry or every entry of the
cache goes and GO clears (R162). -/
def execDescriptorInvalidate (t : Nat) (s : State) : Host.Outcome State Fault Refusal :=
  onTile t s (fun s =>
    let tl := getTile s t
    let v := tl.reg 0x208
    if bit v 31 && (tl.eng.runstate != 1 || atBoundary tl.eng) then
      let dc := if bit v 30 then [] else tl.eng.dcache.filter (fun p => p.1.toNat != fld v 11 0)
      updTile s t (fun tl => { (tl.setReg 0x208 (clrBit v 31)) with eng := { tl.eng with dcache := dc } })
    else s)

/-! ### Reserved opcode words (R103) -/

/-- VOPs that the table assigns (R212). -/
def vopAssigned (v : Nat) : Bool :=
  (decide (1 ≤ v) && decide (v ≤ 0x1A)) || (decide (0x40 ≤ v) && decide (v ≤ 0x49)) || v == 0x80 || v == 0x81

/-- A long word that R103 refuses: reserved opcode, reserved form or selector, unassigned VOP, or a bit marked 0 set. -/
def longReserved (op f : Nat) : Bool :=
  if op = 0x01 ∨ op = 0x02 ∨ op = 0x03 ∨ op = 0x04 ∨ op = 0x05 ∨ op = 0x16 ∨ op = 0x17 then false
  else if 0x10 ≤ op ∧ op ≤ 0x15 then !f.testBit 11 && f % 2048 != 0
  else if op = 0x20 then decide (0x0C ≤ f)
  else if op = 0x21 then !writable f
  else if 0x28 ≤ op ∧ op ≤ 0x2C then false
  else if 0x30 ≤ op ∧ op ≤ 0x32 then f != 0
  else if op = 0x38 then decide (2 ^ 13 ≤ f)
  else if op = 0x39 then decide (2 ^ 12 ≤ f)
  else if 0x3A ≤ op ∧ op ≤ 0x3C then f != 0
  else if op = 0x40 ∨ op = 0x41 then decide (2 ≤ f)
  else if op = 0x48 then !vopAssigned (f / 65536)
  else if op = 0x49 then decide (65536 ≤ f)
  else if 0x4A ≤ op ∧ op ≤ 0x50 then f != 0
  else if op = 0x60 ∨ op = 0x70 then decide (2 ^ 22 ≤ f)
  else if 0x61 ≤ op ∧ op ≤ 0x6F then false
  else if op = 0x71 ∨ op = 0x72 then f != 0
  else if op = 0x73 then decide (65536 ≤ f)
  else if 0x74 ≤ op ∧ op ≤ 0x7B then f != 0
  else if op = 0x7C then decide (65536 ≤ f)
  else if op = 0x7D ∨ op = 0x7E then f != 0
  else true

/-- The checks of a word that R103 refuses; the halves of a pair in order (R109). -/
def reservedProg (c : WCtx) (w : Nat) (annulled : Bool) : NM Unit := do
  if w < 2 ^ 31 then illegalFault c
  if w % 2 = 1 then illegalFault c
  match decodeShort (w / 65536 % 32768) with
  | none => throw ⟨1, 1, c.word⟩
  | some a =>
    if !annulled then
      let ca := { c with op := shortMinor a, half := 1 }
      let len := aloneLen (shortUse a) (← nEng c)
      pairFill ca ca (shortUse a) (0, 0, 0) (pure ())
      let v := (← nEng c).ds
      pairSpill ca ca (shortUse a) (0, 0, 0) len (pure ())
      discard (halfA ca v a)
    throw ⟨1, 2, c.word⟩

/-- Whether R103 refuses a word. -/
def reservedWord (w : Nat) : Bool :=
  if w < 2 ^ 31 then longReserved (w / 2 ^ 24) (w % 2 ^ 24)
  else w % 2 == 1 || (decodeShort (w / 65536 % 32768)).isNone || (decodeShort (w / 2 % 32768)).isNone

/-- RESERVED_OPCODE_WORD: faults F_ILLEGAL before any effect. A word that is not reserved is not this event. -/
def execReservedOpcodeWord (e : EngineId) (w : BitVec 32) (s : State) : Host.Outcome State Fault Refusal :=
  if reservedWord w.toNat then
    let c : WCtx := ⟨e, w.toNat / 2 ^ 24 % 128, 0, w.setWidth 64⟩
    runProg e (do
      beginWord c
      let x ← nEng c
      reservedProg c w.toNat x.annulled) s
  else onUnit (engExists s e) s id

end Sys2Proof.Machine
end

