-- ==== Sys2Proof/Machine/Letters.lean ====
section
/-! DEFINITION. Letters and the output ports of the sorting office: routes of the address book, injection with weights, credits, cells and
frames with their resend buffers, and requests of this device (R503 to R536). -/
namespace Sys2Proof.Machine

open Sys2Proof

/-! ### Ports and routes -/

/-- The device has power, is out of reset and has not tripped: resets take effect, and the port logic runs (R548, R688, R704). -/
def powered (s : State) : Bool := s.sys.phase == .booting || s.sys.phase == .ready

/-- FP_STATUS.STATE. -/
def portState (s : State) (p : Nat) : Nat := fld (getPort s p).status 2 0
/-- A port carries letters of a virtual channel: UP or LOW; MISWIRED carries maintenance letters alone (R524). -/
def portCarries (s : State) (p vc : Nat) : Bool :=
  portState s p == 3 || portState s p == 5 || (portState s p == 4 && vc == 2)

/-- Path k to device dev in the book in force (R520): HOPS and PORTS. -/
def bookPath (b : Book) (dev k : Nat) : Option (Nat × BitVec 40) :=
  let g := dev / 64
  if b.groups ≤ g then none
  else
    let w := wordAt b.words ((192 + 2048 * g + 32 * (dev % 64) + 8 * k) / 8)
    if w.getLsbD 63 then some (wfld w 59 56, w.setWidth 40) else none

/-- Output port of hop h. -/
def hopPort (ports : BitVec 40) (h : Nat) : Nat := ports.toNat / 2 ^ (5 * h) % 32

/-- Own device ID (FX_ID). -/
def ownId (s : State) : BitVec 14 := BitVec.ofNat 14 (fld (fxReg s 0x00) 13 0)
def named (s : State) : Bool := bit (fxReg s 0x00) 31

/-- The candidate paths to a device (R526); a device without a name sends nothing beyond LINK letters (R518), which the model answers as it
answers a device with no path (DESIGN CHOICE, log 22). -/
def candidates (s : State) (dev : Nat) : List (Nat × BitVec 40) :=
  match s.book with
  | none => []
  | some b => if !named s then [] else (List.range 4).filterMap (fun k =>
      match bookPath b dev k with
      | some p => if portCarries s (hopPort p.2 0) 0 then some p else none
      | none => none)

/-- Count dropped letters in FX_DROPS.DROPPED. -/
def dropLetters (n : Nat) (s : State) : State := updFx 0x14 (fun v => setFld v 15 0 ((fld v 15 0 + n) % 65536)) s

/-! ### Output queues -/

/-- The virtual channel of an operation (R517); none for a reserved OP. -/
def opVc (op : Nat) : Option Nat :=
  if op = 0x01 ∨ op = 0x03 ∨ op = 0x05 ∨ op = 0x07 then some 0
  else if op = 0x02 ∨ op = 0x04 ∨ op = 0x06 ∨ op = 0x08 then some 1
  else if 0x10 ≤ op ∧ op ≤ 0x13 then some 2
  else if op = 0x18 then some 3 else none

/-- Letters of a message: its head and its body. -/
def cells (l : Letter) : Nat := 1 + l.body.length

/-- Buffer and channel of a message on the link it came by, and of one about to leave: its hop gives the CLASS (R512). -/
def rxKeyOf (l : Letter) : Nat := 8 * l.vc.toNat + l.cls.toNat
def creditKey (l : Letter) : Nat := 8 * l.vc.toNat + l.hop.toNat

/-- Cells of a message that stand in its buffer. A message of 65 letters cannot stand in a buffer of 64: its head letter has moved on
(DESIGN CHOICE, log 22). -/
def bufCells (l : Letter) : Nat := min 64 (cells l)

/-- Local injection as an input of an output port, beside the other ports by number (R514). -/
def localInput : Nat := 32

/-- A count of a table. -/
def count (t : Tbl Nat) (k : Nat) : Nat := tget (fun _ => 0) t k
def setCount (t : Tbl Nat) (k n : Nat) : Tbl Nat := tset (fun _ => 0) t k n

/-- Cells leave a receive buffer of port i: their credits are owed (R509). -/
def freeCells (i key n : Nat) (s : State) : State :=
  if n = 0 then s
  else updPort s i (fun q => { q with
    held := setCount q.held key (count q.held key - n), owed := setCount q.owed key (count q.owed key + n) })

/-! ### Cells (R503, R515) -/

/-- The 64 bytes of a head letter. -/
def headBits (l : Letter) : BitVec 512 :=
  l.keytag ++ l.args ++ l.addr ++ l.xtag ++ BitVec.ofNat 8 l.body.length ++ l.op ++ (0 : BitVec 6) ++ l.tenant ++ (0 : BitVec 2) ++ l.src ++
    (0 : BitVec 2) ++ l.dest ++ l.hop ++ l.hops ++ l.ports

/-- A message from its letters. -/
def letterOf (vc : BitVec 2) (cls : BitVec 3) (stamp sclk : Nat) (cs : List (BitVec 512)) : Letter :=
  let h := nthD 0 cs 0
  let time := h.extractLsb' 96 8 == 0x11
  { ports := h.extractLsb' 0 40
    hops := h.extractLsb' 40 4
    hop := h.extractLsb' 44 4
    dest := h.extractLsb' 48 14
    src := h.extractLsb' 64 14
    tenant := h.extractLsb' 80 10
    op := h.extractLsb' 96 8
    xtag := h.extractLsb' 112 16
    addr := h.extractLsb' 128 64
    args := h.extractLsb' 192 192
    keytag := h.extractLsb' 384 128
    vc := vc
    cls := cls
    stamp := if time then stamp else 0
    atSclk := if time then sclk else 0
    reservedBad := h.extractLsb' 62 2 != 0 || h.extractLsb' 78 2 != 0 || h.extractLsb' 90 6 != 0 ||
      h.extractLsb' 104 8 != BitVec.ofNat 8 (cs.length - 1)
    body := cs.drop 1 }

/-- The cells of a message as a port sends them: CLASS is the hop, and HOP advances (R512, R527). -/
def cellsOf (l : Letter) : List PortCell :=
  let ds := headBits { l with hop := l.hop + 1 } :: l.body
  (List.range ds.length).map (fun i => ⟨i == 0, i + 1 == ds.length, l.vc, l.hop.setWidth 3, nthD 0 ds i⟩)

/-- The descriptor of a cell. -/
def cellDesc (c : PortCell) : Nat := 128 + 64 * b2n c.head + 32 * b2n c.tail + 8 * c.vc.toNat + c.cls.toNat

/-! ### Grants (R513, R514, R536) -/

/-- Fabric time in 1/16 ticks (R543). -/
def stampNow (s : State) : Nat := s.time.ft / 2 ^ 32

/-- A channel and class is free for a new message, and a credit is there for its head letter. -/
def keyFree (q : Port) (k : Nat) : Bool := (tget (fun _ => Going.none) q.sending k).left.isEmpty && decide (0 < count q.credits k)

/-- Local request messages wait for their tenant's deficit (R536). -/
def isLocalReq (x : Waiting) : Bool := x.msg.vc == 0 && x.input == localInput

/-- The tenant that sends a local request: an ENVELOPE's head names the destination's tenant instead (R515, R536). -/
def senderOf (s : State) (l : Letter) : Nat := ((s.reqs.find? (fun q => q.xtag == l.xtag)).map (·.tenant)).getD l.tenant.toNat

/-- The tenants with a local request in a queue. -/
def waitingTenants (s : State) (q : List Waiting) : List Nat :=
  (q.filter isLocalReq).foldl (fun a x => addOnce a (senderOf s x.msg)) []

/-- The first local request of a tenant in a queue, when its deficit at the port covers it. -/
def coveredReq (s : State) (p n : Nat) (q : List Waiting) : Option Waiting :=
  match q.find? (fun x => isLocalReq x && senderOf s x.msg == n) with
  | some x => if cells x.msg ≤ count (getTen s n).deficit p then some x else none
  | none => none

/-- The waiting tenant that the round robin visits after another. -/
def tenantAfter (ts : List Nat) (v : Option Nat) : Option Nat :=
  let lowest (l : List Nat) : Option Nat := l.foldl (fun a n => some (min n (a.getD n))) none
  match v with
  | none => lowest ts
  | some k => match lowest (ts.filter (fun n => decide (k < n))) with
    | some n => some n
    | none => lowest ts

/-- Move on to the next waiting tenant: the visit adds FABRIC_WEIGHT letters to its deficit (R536). -/
def visitNext (p : Nat) (q : List Waiting) (s : State) : State :=
  match tenantAfter (waitingTenants s q) (getPort s p).visiting with
  | none => s
  | some n => updTen (updPort s p (fun x => { x with visiting := some n })) n (fun t => { t with
      deficit := setCount t.deficit p (count t.deficit p + t.contract.fabricWeight) })

/-- The tenant at its visit, and its next request, when the deficit covers it. -/
def visitedReq (s : State) (p : Nat) (q : List Waiting) : Option (Nat × Waiting) :=
  (getPort s p).visiting.bind (fun n => (coveredReq s p n q).map (fun x => (n, x)))

/-- Visit tenants until one is covered. -/
def coverOne (p : Nat) (q : List Waiting) : Nat → State → State
  | 0, s => s
  | n + 1, s => if (visitedReq s p q).isSome then s else coverOne p q n (visitNext p q s)

/-- The local request that the deficit round robin grants; a tenant with nothing left queued keeps no deficit. At most 65 rounds cover a
message of 65 letters at weight 1. -/
def localGrant (p : Nat) (s : State) : Option (Waiting × State) :=
  let q := (getPort s p).outq
  let s1 := coverOne p q (65 * (waitingTenants s q).length + 1) s
  (visitedReq s1 p q).map (fun x => (x.2, updTen s1 x.1 (fun t => { t with
    deficit := setCount t.deficit p (if x.1 ∈ waitingTenants s1 (q.erase x.2) then count t.deficit p - cells x.2.msg else 0) })))

/-- Until READY first asserts nothing but LINK letters leaves; others wait at their port (R637). -/
def mayLeave (s : State) (op : BitVec 8) : Bool := s.sys.phase != .booting || op == 0x10

/-- The message of an input that a virtual channel of a port may be granted to: the first in arrival order whose channel and class is free. -/
def grantFrom (p vc : Nat) (s : State) (i : Nat) : Option (Waiting × State) :=
  let q := getPort s p
  if vc = 0 ∧ i = localInput then (if mayLeave s 0 && keyFree q 0 && q.outq.any isLocalReq then localGrant p s else none)
  else (q.outq.find? (fun x => x.input == i && x.msg.vc.toNat == vc && mayLeave s x.msg.op && keyFree q (creditKey x.msg))).map (fun x => (x, s))

/-- The message that a virtual channel of a port grants next: round robin among the inputs (R514). -/
def grantNext (p vc : Nat) (s : State) : Option (Waiting × State) :=
  ((List.range 33).map (fun k => (count (getPort s p).turn vc + k) % 33)).findSome? (grantFrom p vc s)

/-- A granted message holds its channel and class, and the next scan begins behind its input. A TIME letter is stamped as its frame starts
to leave (R543). -/
def holdChannel (p : Nat) (x : Waiting) (s : State) : State :=
  let now := stampNow s
  let time := x.msg.op == 0x11
  let l := if time then { x.msg with args := BitVec.ofNat 64 now ++ x.msg.args.extractLsb' 0 128 } else x.msg
  updPort s p (fun q => { q with
    outq := q.outq.erase x, turn := setCount q.turn x.msg.vc.toNat ((x.input + 1) % 33), t1 := if time then now else q.t1,
    sending := tset (fun _ => Going.none) q.sending (creditKey x.msg) ⟨x.input, x.key, x.hold, cellsOf l⟩ })

/-- The next cell of a channel and class leaves: it takes a credit, and its place in the buffer of its input is free (R509). -/
def sendCell (p k : Nat) (s : State) : Option (PortCell × State) :=
  let q := getPort s p
  let g := tget (fun _ => Going.none) q.sending k
  match g.left with
  | [] => none
  | c :: r =>
    if count q.credits k = 0 then none
    else
      let h := min g.hold r.length
      some (c, freeCells g.input g.key (g.hold - h) (updPort s p (fun q => { q with
        credits := setCount q.credits k (count q.credits k - 1),
        sending := tset (fun _ => Going.none) q.sending k (if r.isEmpty then Going.none else { g with hold := h, left := r }) })))

/-- The next cell of a virtual channel: of a message that holds one of its classes, or of a new one. The rule says nothing of their order
(DESIGN CHOICE, log 22). -/
def pickFrom (p : Nat) (s : State) (vc : Nat) : Option (PortCell × State) :=
  match ((List.range 8).map (8 * vc + ·)).findSome? (fun k => sendCell p k s) with
  | some r => some r
  | none => (grantNext p vc s).bind (fun x => sendCell p (creditKey x.1.msg) (holdChannel p x.1 x.2))

/-- The next cell of a port: wake, maintenance, reply, then request letters (R514). Before its keys are installed, and when it is MISWIRED, a
port carries maintenance letters alone (R524, R548). -/
def pickCell (p : Nat) (s : State) : Option (PortCell × State) :=
  (if portCarries s p 0 then [3, 2, 1, 0] else [2]).findSome? (pickFrom p s)

/-- The cells of a frame, at most n more. -/
def fillCells (p : Nat) : Nat → List PortCell → State → List PortCell × State
  | 0, cs, s => (cs, s)
  | n + 1, cs, s => match pickCell p s with
    | none => (cs, s)
    | some (c, s1) => fillCells p n (cs ++ [c]) s1

/-! ### Frames (R503, R505 to R507, R509) -/

/-- A link that carries frames: KEYING, UP, MISWIRED or LOW. -/
def linkUp (s : State) (p : Nat) : Bool := decide (2 ≤ portState s p)

/-- Key-store slots of a port's transmit and receive keys (R424). -/
def linkSlot (p : Nat) (rx : Bool) : Nat := 0x10 + 2 * p + b2n rx

/-- The batch number of the next frame that a port sends: every frame boundary since its key counts, and no number is used twice (R505). -/
def txBatch (s : State) (q : Port) : Nat := max ((framesNow s q - q.txBase) / 512) q.txNext

/-- A port sends no frame while its link is not up, once it is stopped, or after 2^32 batches under one key (R506). -/
def maySend (s : State) (p : Nat) : Bool :=
  let q := getPort s p
  linkUp s p && !q.stopped && ((getKey s (linkSlot p false)).key.isNone || decide (txBatch s q < 2 ^ 32))

/-- The first credit return that a port owes, as a field of a control word. -/
def creditReturn (p : Nat) (s : State) : BitVec 13 × State :=
  match (getPort s p).owed with
  | [] => (0, s)
  | (k, n) :: _ => (BitVec.ofNat 13 (256 * k + min n 255), updPort s p (fun q => { q with owed := setCount q.owed k (n - min n 255) }))

/-- The control word of a frame: FSEQ, ACK, NAK, KEYPHASE and two credit returns. -/
def controlOf (q : Port) (k : Kept) : Word :=
  k.fseq ++ q.rxFseq ++ BitVec.ofBool q.nakSet ++ BitVec.ofBool q.txPhase ++ (0 : BitVec 4) ++ k.credit1 ++ k.credit2

/-- The frame that carries cells and credit returns, under the port's key and batch number. Before the link has keys its frames go in clear with
tag 0 (DEDUCED, log 22). -/
def frameOf (s : State) (p : Nat) (k : Kept) : Frame :=
  let q := getPort s p
  let cs := (List.range 15).map (fun i => nthD 0 (k.cells.map (·.data)) i)
  let d := BitVec.ofNat 128 (forN k.cells.length (fun i a => a + nthD 0 (k.cells.map cellDesc) i * 2 ^ (8 * i)) 0)
  let c := controlOf q k
  match (getKey s (linkSlot p false)).key with
  | none => ⟨[], 0, cs, d, c, 0⟩
  | some key =>
    let e := sealCells key (txBatch s q) cs
    ⟨[], 0, e, d, c, frameTag key (txBatch s q) d c e⟩

/-- A frame leaves. -/
def sendFrame (p : Nat) (k : Kept) (s : State) : State :=
  emit (.frame p (frameOf s p k)) (updPort s p (fun q => { q with txNext := txBatch s q + 1, ackDue := false }))

/-- Send the frames that have something to carry, at most n, while no more than 128 wait for their acknowledgement (R507). A frame with cells or
a credit return takes the next FSEQ; what carries nothing is an idle frame, takes none, and is shown only where it reports an ACK or NAK
(DESIGN CHOICE, log 22). -/
def sendFrames (p : Nat) : Nat → State → State
  | 0, s => s
  | n + 1, s =>
    let q := getPort s p
    if !maySend s p then s
    else
      let r := if q.resend.length < 128 then fillCells p 15 [] s else ([], s)
      if q.resend.length < 128 && !(r.1.isEmpty && q.owed.isEmpty) then
        let a := creditReturn p r.2
        let b := creditReturn p a.2
        let k : Kept := ⟨q.txFseq, r.1, a.1, b.1⟩
        sendFrames p n (sendFrame p k (updPort b.2 p (fun q => { q with resend := q.resend ++ [k], txFseq := q.txFseq + 1 })))
      else if q.ackDue then sendFrame p ⟨q.txFseq, [], 0, 0⟩ s
      else s

/-- A port sends what may leave; then the ports whose buffers it freed return their credits. -/
def drainPort (p : Nat) (s : State) : State :=
  forN 32 (fun i s => if (getPort s i).owed.isEmpty then s else sendFrames i 129 s) (sendFrames p 129 s)

/-- A message joins the queue of an output port. -/
def enqueueFrom (p : Nat) (x : Waiting) (s : State) : State :=
  drainPort p (updPort s p (fun q => { q with outq := q.outq ++ [x] }))
/-- A message of this device joins it. -/
def enqueue (p : Nat) (l : Letter) (s : State) : State := enqueueFrom p ⟨localInput, 0, 0, l⟩ s

/-! ### Requests of this device -/

/-- The words of a digest or of a bound key. -/
def digestWords (d : BitVec 384) : List Word := (List.range 6).map (fun i => d.extractLsb' (64 * i) 64)

/-- KEYTAG: the first 16 bytes of SHA-384 of a tenant's bound key (R418, R531). DESIGN CHOICE (log 51): 0 when no key is bound. -/
def keyTag (s : State) (n : Nat) : BitVec 128 :=
  match (getTen s n).boundKey with
  | some k => (sha384 (digestWords k)).setWidth 128
  | none => 0

/-- Who keeps the message counter of R526: a tile, or the postmaster. -/
def msgCtr (s : State) : Option Nat → BitVec 32
  | some t => (getTile s t).msgCtr
  | none => s.pmMsgCtr
def bumpMsgCtr (w : Option Nat) (s : State) : State :=
  match w with
  | some t => updTile s t (fun tl => { tl with msgCtr := tl.msgCtr + 1 })
  | none => { s with pmMsgCtr := s.pmMsgCtr + 1 }

/-- The path of a message to a device: the first candidate for an ordered one, otherwise by the counter (R526). -/
def choosePath (s : State) (w : Option Nat) (ordered : Bool) (dev : Nat) : Option (Nat × BitVec 40) :=
  let cs := candidates s dev
  if cs.isEmpty then none else cs[if ordered then 0 else (msgCtr s w).toNat % cs.length]?

/-- The head of a letter of this device. -/
def headFor (s : State) (path : Nat × BitVec 40) (dev : BitVec 14) (n : BitVec 10) (op : BitVec 8) : Letter where
  ports := path.2
  hops := BitVec.ofNat 4 path.1
  hop := 0
  dest := dev
  src := ownId s
  tenant := n
  op := op
  xtag := 0
  addr := 0
  args := 0
  keytag := 0
  vc := BitVec.ofNat 2 ((opVc op.toNat).getD 0)
  cls := 0
  stamp := 0
  atSclk := 0
  reservedBad := false
  body := []

/-- Send a request message; none when no path leads there (NO_ROUTE) or the tenant's FABRIC_WEIGHT is 0 (WEIGHT): the reply
status then arises here (R526, R536). -/
def sendRequest (w : Option Nat) (ordered : Bool) (dev n : Nat) (kind : ReqKind) (base lines : Nat)
    (f : Letter → Letter) (s : State) : State × Option Nat :=
  match choosePath s w ordered dev with
  | none => (s, some 1)
  | some path =>
    if (getTen s n).contract.fabricWeight = 0 then (s, some 0x0B)
    else
      let l := f (headFor s path (BitVec.ofNat 14 dev) (BitVec.ofNat 10 n) 0)
      let l1 := { l with xtag := s.nextXtag, vc := BitVec.ofNat 2 ((opVc l.op.toNat).getD 0) }
      let s1 := if ordered then s else bumpMsgCtr w s
      let s2 := { s1 with
        nextXtag := s1.nextXtag + 1,
        reqs := s1.reqs ++ [⟨s.nextXtag, kind, n, base, lines, s.sclk⟩] }
      (enqueue (hopPort path.2 0) l1 s2, none)

/-- A SEG and offset as the ADDR field of a head. -/
def addrField (seg : BitVec 12) (off : Nat) : Word := seg ++ (0 : BitVec 4) ++ BitVec.ofNat 48 off

/-- ARGS of READ and WRITE: LINES in bytes 24 to 27, the span in bytes 32 to 47. -/
def spanArgs (lines first last : Nat) : BitVec 192 := BitVec.ofNat 192 (lines + first * 2 ^ 64 + last * 2 ^ 128)

/-- READs for n lines from line `base`, of at most 4,096 lines each (R530); the status of the first that cannot leave. -/
def sendReads (w : Option Nat) (dev ten : Nat) (kind : ReqKind) (seg : BitVec 12) (first last : Nat) :
    Nat → Nat → Nat → State → State × Option Nat
  | 0, _, _, s => (s, none)
  | fuel + 1, base, n, s =>
    if n = 0 then (s, none)
    else
      let k := min n 4096
      let (s1, e) := sendRequest w false dev ten kind base k (fun l => { l with
        op := 1, addr := addrField seg (64 * base), args := spanArgs k first last, keytag := keyTag s ten }) s
      match e with
      | some c => (s1, some c)
      | none => sendReads w dev ten kind seg first last fuel (base + k) (n - k) s1

/-- The body of lines: a tag letter and the data letters (R516). -/
def lineBody (ls : List (BitVec 512 × BitVec 32)) : List (BitVec 512) :=
  BitVec.ofNat 512 (forN ls.length (fun i a => a + (nthD (0, 0) ls i).2.toNat * 2 ^ (32 * i)) 0) :: ls.map (·.1)

/-- The lines of a body. -/
def bodyLines (b : List (BitVec 512)) : List (BitVec 512 × BitVec 32) :=
  match b with
  | [] => []
  | t :: ds => (List.range ds.length).map (fun i => (nthD 0 ds i, t.extractLsb' (32 * i) 32))

/-- WRITEs of at most 16 lines each (R530). -/
def sendWrites (w : Option Nat) (dev ten : Nat) (kind : ReqKind) (seg : BitVec 12) (first last : Nat) :
    Nat → Nat → List (BitVec 512 × BitVec 32) → State → State × Option Nat
  | 0, _, _, s => (s, none)
  | fuel + 1, base, ls, s =>
    if ls.isEmpty then (s, none)
    else
      let k := min ls.length 16
      let (s1, e) := sendRequest w false dev ten kind base k (fun l => { l with
        op := 3, addr := addrField seg (64 * base), args := spanArgs k first last, keytag := keyTag s ten,
        body := lineBody (ls.take 16) }) s
      match e with
      | some c => (s1, some c)
      | none => sendWrites w dev ten kind seg first last fuel (base + k) (ls.drop 16) s1

end Sys2Proof.Machine
end

