-- ==== Sys2Proof/Machine/Float.lean ====
section
/-! DEFINITION. Floating point of the vector pipes: formats, exact values, one rounding, NaNs and flags (R226 to R234). Exact
values are dyadic, so every operation computes exactly and rounds once. -/
namespace Sys2Proof.Machine

open Sys2Proof

/-- A binary interchange format: exponent and fraction bits (R226). -/
structure FFmt where
  ebits : Nat
  fbits : Nat
  deriving DecidableEq, Repr

def fmt64 : FFmt := ⟨11, 52⟩
def fmt32 : FFmt := ⟨8, 23⟩
def fmtB16 : FFmt := ⟨8, 7⟩

/-- Exponent of the last fraction bit of the smallest normal and of every subnormal number. -/
def FFmt.qmin (f : FFmt) : Int := 2 - 2 ^ (f.ebits - 1) - f.fbits
/-- Largest exponent of a leading bit. -/
def FFmt.emax (f : FFmt) : Int := 2 ^ (f.ebits - 1) - 1
def FFmt.width (f : FFmt) : Nat := f.ebits + f.fbits + 1

/-- A value read from its bits: a NaN with its fraction aligned to 52 bits, an infinity, or (−1)^neg × m × 2^e. -/
inductive FV where
  | nan (neg : Bool) (frac : Nat)
  | inf (neg : Bool)
  | fin (neg : Bool) (m : Nat) (e : Int)
  deriving DecidableEq, Repr

/-- An exact result before its rounding: as FV, with the default NaN and a zero whose sign is settled. -/
inductive XR where
  | nan (neg : Bool) (frac : Nat)
  | dnan
  | inf (neg : Bool)
  | zero (neg : Bool)
  /-- a zero whose sign the rounding direction set (IEEE 754-2019, 6.3) -/
  | zeroRm (neg : Bool)
  | fin (neg : Bool) (m : Nat) (e : Int)
  deriving DecidableEq, Repr

/-- Flags in the bit order of TV_FPFLAGS: IV, DZ, OF, UF, NX. -/
abbrev FFlags := BitVec 5
def flIV : FFlags := 16
def flDZ : FFlags := 8
def flOF : FFlags := 4
def flUF : FFlags := 2
def flNX : FFlags := 1

def unpackF (f : FFmt) (x : Nat) : FV :=
  let frac := x % 2 ^ f.fbits
  let ex := x / 2 ^ f.fbits % 2 ^ f.ebits
  let neg := x.testBit (f.width - 1)
  if ex = 2 ^ f.ebits - 1 then (if frac = 0 then .inf neg else .nan neg (frac * 2 ^ (52 - f.fbits)))
  else if ex = 0 then .fin neg frac f.qmin
  else .fin neg (frac + 2 ^ f.fbits) (f.qmin + (ex - 1 : Nat))

/-- A NaN is signalling when its top fraction bit is clear. -/
def FV.isSig : FV → Bool
  | .nan _ f => !f.testBit 51
  | _ => false
def FV.isNan : FV → Bool
  | .nan _ _ => true
  | _ => false

/-- Bits of sign, biased exponent and fraction. -/
def packBits (f : FFmt) (neg : Bool) (ex frac : Nat) : Nat := b2n neg * 2 ^ (f.width - 1) + ex * 2 ^ f.fbits + frac

/-- Whether a discarded part rounds the kept part up, under RM (R227). -/
def roundUp (rm : Nat) (neg : Bool) (kept rem half : Nat) : Bool :=
  if rm = 2 then false
  else if rm = 3 then rem != 0 && !neg
  else if rm = 4 then rem != 0 && neg
  else decide (half < rem) || (rem == half && kept % 2 == 1)

/-- m × 2^e rounded to a multiple of 2^q: the multiple, and whether it is inexact. -/
def roundAt (rm : Nat) (neg : Bool) (m : Nat) (e q : Int) : Nat × Bool :=
  if q ≤ e then (m * 2 ^ (e - q).toNat, false)
  else
    let d := (q - e).toNat
    let kept := m / 2 ^ d
    let rem := m % 2 ^ d
    (if roundUp rm neg kept (2 * rem) (2 ^ d) then kept + 1 else kept, rem != 0)

/-- One rounding of a non-zero exact value: overflow, underflow with tininess after rounding, inexact (R226). -/
def roundF (f : FFmt) (rm : Nat) (neg : Bool) (m : Nat) (e : Int) : Nat × FFlags :=
  let p := f.fbits + 1
  let q0 := e + (Nat.log2 m + 1 : Nat) - (p : Nat)
  let q := max q0 f.qmin
  let (r, inexact) := roundAt rm neg m e q
  let (r, q) := if r = 2 ^ p then (2 ^ (p - 1), q + 1) else (r, q)
  if f.emax < q + (p - 1 : Nat) then
    let toMax := rm == 2 || (rm == 3 && neg) || (rm == 4 && !neg)
    (if toMax then packBits f neg (2 ^ f.ebits - 2) (2 ^ f.fbits - 1) else packBits f neg (2 ^ f.ebits - 1) 0, flOF ||| flNX)
  else
    let (r0, _) := roundAt rm neg m e q0
    let tiny := decide (q0 < f.qmin) && !(decide (q0 = f.qmin - 1) && r0 == 2 ^ p)
    let fl : FFlags := (if inexact then flNX else 0) ||| (if tiny && inexact then flUF else 0)
    if r < 2 ^ (p - 1) then (packBits f neg 0 r, fl)
    else (packBits f neg (q - f.qmin + 1).toNat (r - 2 ^ (p - 1)), fl)

/-- Round an exact result into a format. -/
def packX (f : FFmt) (rm : Nat) : XR → Nat × FFlags
  | .nan neg fr => (packBits f neg (2 ^ f.ebits - 1) (fr / 2 ^ (52 - f.fbits) ||| 2 ^ (f.fbits - 1)), 0)
  | .dnan => (packBits f false (2 ^ f.ebits - 1) (2 ^ (f.fbits - 1)), 0)
  | .inf neg => (packBits f neg (2 ^ f.ebits - 1) 0, 0)
  | .zero neg => (packBits f neg 0 0, 0)
  | .zeroRm neg => (packBits f neg 0 0, 0)
  | .fin neg m e => if m = 0 then (packBits f neg 0 0, 0) else roundF f rm neg m e

def negV : FV → FV
  | .nan n f => .nan n f
  | .inf n => .inf (!n)
  | .fin n m e => .fin (!n) m e

/-- m × 2^e as a multiple of 2^q, with q ≤ e. -/
def signedAt (neg : Bool) (m : Nat) (e q : Int) : Int :=
  let v : Int := (m * 2 ^ (e - q).toNat : Nat)
  if neg then -v else v

/-- x + y for operands that are no NaN. -/
def addX (rm : Nat) : FV → FV → XR × FFlags
  | .inf a, .inf b => if a = b then (.inf a, 0) else (.dnan, flIV)
  | .inf a, _ => (.inf a, 0)
  | _, .inf b => (.inf b, 0)
  | .fin n1 m1 e1, .fin n2 m2 e2 =>
    if m1 = 0 ∧ m2 = 0 then (if n1 = n2 then .zero n1 else .zeroRm (rm == 4), 0)
    else
      let q := min e1 e2
      let s := signedAt n1 m1 e1 q + signedAt n2 m2 e2 q
      if s = 0 then (.zeroRm (rm == 4), 0) else (.fin (decide (s < 0)) s.natAbs q, 0)
  | _, _ => (.dnan, 0)

/-- x × y exactly; none for 0 × ∞. -/
def mulV : FV → FV → Option FV
  | .inf a, .inf b => some (.inf (a != b))
  | .inf a, .fin b m _ => if m = 0 then none else some (.inf (a != b))
  | .fin a m _, .inf b => if m = 0 then none else some (.inf (a != b))
  | .fin a m e, .fin b n f => some (.fin (a != b) (m * n) (e + f))
  | _, _ => none

/-- An operand as an exact result. -/
def asX : FV → XR
  | .nan n f => .nan n f
  | .inf n => .inf n
  | .fin n m e => if m = 0 then .zero n else .fin n m e

/-- The NaN rule (R228): with a NaN among the sources the first, made quiet, and IV for a signalling one; otherwise the
operation. -/
def nanRule (srcs : List FV) (f : XR × FFlags) : XR × FFlags :=
  match srcs.find? FV.isNan with
  | some (.nan n fr) => (.nan n fr, if srcs.any FV.isSig then flIV else 0)
  | _ => f

/-- ± a × b ± c with one rounding (R226, clause 7.2). -/
def fmaX (rm : Nat) (np nc : Bool) (a b c : FV) : XR × FFlags :=
  let invalid := !a.isNan && !b.isNan && (mulV a b).isNone
  let r := nanRule [a, b, c] (match mulV a b with
    | none => (.dnan, flIV)
    | some p => addX rm (if np then negV p else p) (if nc then negV c else c))
  if invalid then (r.1, r.2 ||| flIV) else r

def faddOp (rm : Nat) (a b : FV) : XR × FFlags := nanRule [a, b] (addX rm a b)
def fsubOp (rm : Nat) (a b : FV) : XR × FFlags := nanRule [a, b] (addX rm a (negV b))
def fmulOp (a b : FV) : XR × FFlags :=
  nanRule [a, b] (match mulV a b with
    | none => (.dnan, flIV)
    | some p => (asX p, 0))

/-- Order of two values that are no NaN; −0 and +0 are equal. -/
def ltV : FV → FV → Bool
  | .inf a, .inf b => a && !b
  | .inf a, _ => a
  | _, .inf b => !b
  | .fin n1 m1 e1, .fin n2 m2 e2 =>
    let q := min e1 e2
    decide (signedAt n1 m1 e1 q < signedAt n2 m2 e2 q)
  | _, _ => false
def eqV (a b : FV) : Bool := !ltV a b && !ltV b a
def signV : FV → Bool
  | .nan n _ => n
  | .inf n => n
  | .fin n _ _ => n

/-- minimum and maximum: −0 is less than +0. -/
def minX (isMax : Bool) (a b : FV) : XR × FFlags :=
  let aLess := ltV a b || (eqV a b && signV a && !signV b)
  nanRule [a, b] (asX (if isMax then (if aLess then b else a) else (if aLess then a else b)), 0)

/-- Integer square root, bit by bit from bit k − 1 down. -/
def isqrt (n : Nat) : Nat → Nat → Nat
  | 0, r => r
  | k + 1, r => if (r + 2 ^ k) * (r + 2 ^ k) ≤ n then isqrt n k (r + 2 ^ k) else isqrt n k r

/-- A positive value to 12 significant bits, nearest even; `sticky`: more follows below m. Beside it, whether it is inexact. -/
def to12 (m : Nat) (e : Int) (sticky : Bool) : (Nat × Int) × Bool :=
  let m2 := 2 * m + b2n sticky
  let q := (e - 1) + (Nat.log2 m2 + 1 : Nat) - 12
  let r := roundAt 1 false m2 (e - 1) q
  ((r.1, q), r.2)

/-- Reciprocal estimate before it is expressed in its format; NX tells that it is not 1/a itself (R232). -/
def rcpX (a : FV) : XR × FFlags :=
  match a with
  | .nan n fr => (.nan n fr, if a.isSig then flIV else 0)
  | .inf n => (.zero n, 0)
  | .fin n m e =>
    if m = 0 then (.inf n, flDZ)
    else
      let k := Nat.log2 m + 18
      let r := to12 (2 ^ k / m) (-e - k) (2 ^ k % m != 0)
      (.fin n r.1.1 r.1.2, if r.2 then flNX else 0)

/-- Reciprocal square-root estimate before it is expressed in its format; NX tells that it is not 1/√a itself (R232). -/
def rsqX (a : FV) : XR × FFlags :=
  match a with
  | .nan n fr => (.nan n fr, if a.isSig then flIV else 0)
  | .inf n => if n then (.dnan, flIV) else (.zero false, 0)
  | .fin n m e =>
    if m = 0 then (.inf n, flDZ)
    else if n then (.dnan, flIV)
    else
      let m1 := if e % 2 = 0 then m else 2 * m
      let e1 := if e % 2 = 0 then e else e - 1
      let k := Nat.log2 m1 + 18
      let x := 2 ^ (2 * k)
      let r0 := isqrt (x / m1) (k + 1) 0
      let r := to12 r0 (-(e1 / 2) - k) (r0 * r0 * m1 != x)
      (.fin false r.1.1 r.1.2, if r.2 then flNX else 0)

/-- A value rounded to an integer of w bits, with saturation (R231). -/
def toIntF (rm : Nat) (w : Nat) (a : FV) : Int × FFlags :=
  let hi : Int := 2 ^ (w - 1) - 1
  let lo : Int := -(2 ^ (w - 1))
  match a with
  | .nan _ _ => (0, flIV)
  | .inf n => (if n then lo else hi, flIV)
  | .fin n m e =>
    let (r, inexact) := roundAt rm n m e 0
    let v : Int := if n then -(r : Int) else r
    if hi < v then (hi, flIV) else if v < lo then (lo, flIV) else (v, if inexact then flNX else 0)

/-- An integer rounded into a format (R231). -/
def ofIntF (f : FFmt) (rm : Nat) (v : Int) : Nat × FFlags :=
  if v = 0 then (0, 0) else roundF f rm (decide (v < 0)) v.natAbs 0

/-- A product below any comparison: 2 − a × b, and (3 − a × b) / 2 (R233). -/
def stepX (rm : Nat) (half : Bool) (a b : FV) : XR × FFlags :=
  let r := nanRule [a, b] (match mulV a b with
    | none => (.dnan, flIV)
    | some p => addX rm (.fin false (if half then 3 else 2) 0) (negV p))
  match r with
  | (.fin n m e, fl) => (.fin n m (if half then e - 1 else e), fl)
  | x => x

end Sys2Proof.Machine
end

