-- ==== Sys2Proof/Machine/VecOps.lean ====
section
/-! DEFINITION. The vector operations element by element: signatures and the type matrix (R212, R213), integer, logic and
floating-point results (R214 to R234), and the transforms of reflected passes (R374 to R378). Elements are bit patterns
as numbers. -/
namespace Sys2Proof.Machine

open Sys2Proof

/-! ### Element types (R201) -/

/-- Width in bits of element type t. -/
def eBits (t : Nat) : Nat :=
  match t with
  | 0 => 64 | 1 => 32 | 2 => 16 | 3 => 64 | 4 => 32 | _ => 1
def isFp (t : Nat) : Bool := decide (t ≤ 2)
def fmtOf (t : Nat) : FFmt :=
  match t with
  | 0 => fmt64 | 1 => fmt32 | _ => fmtB16
/-- Tag of a word written with computed results. -/
def tagOf (t : Nat) : Tag := if t ≤ 2 then 2 else if t ≤ 4 then 1 else 0

/-! ### Operations (R212) -/

/-- Operand roles of the operation table. -/
inductive Role where
  | d | a | b | c | m | t | i | n
  deriving DecidableEq, Repr

/-- Operands of an operation, T first, without the predicate. -/
def sigOf (vop : Nat) : List Role :=
  if vop = 0x0A ∨ vop = 0x0B ∨ vop = 0x0D ∨ vop = 0x0E ∨ vop = 0x0F ∨ vop = 0x15 ∨ vop = 0x1A then [.d, .a]
  else if 0x04 ≤ vop ∧ vop ≤ 0x07 then [.d, .a, .b, .c]
  else if vop = 0x19 then [.d, .a, .b, .m]
  else if vop ≤ 0x1A then [.d, .a, .b]
  else if vop = 0x40 then [.d, .t, .i]
  else if vop = 0x41 then [.d, .a, .i]
  else if vop = 0x42 ∨ vop = 0x46 then [.d, .a, .m, .n]
  else if vop = 0x43 then [.d, .a, .b, .m]
  else if vop = 0x47 ∨ vop = 0x48 then [.d, .a, .b]
  else [.d, .a]

/-- The classes of pipe: 0 FMA, 1 lens, 2 courier. -/
def pipeClass (vop : Nat) : Nat := if vop < 0x40 then 0 else if vop < 0x80 then 1 else 2
/-- The stream whose LENGTH is VL. -/
def vlRole (vop : Nat) : Role := if vop = 0x41 ∨ vop = 0x42 ∨ vop = 0x45 ∨ vop = 0x46 then .a else .d
/-- Operations that accept a predicate (marked P). -/
def takesPred (vop : Nat) : Bool :=
  decide (vop ≤ 0x1A) || vop == 0x40 || vop == 0x44 || vop == 0x45 || vop == 0x47 || vop == 0x48
/-- SUB values with a meaning (SUB encodings). -/
def subOk (vop sub : Nat) : Bool :=
  if vop = 0x0C then decide (sub < 10)
  else if vop = 0x44 then decide (sub % 8 < 6)
  else if vop = 0x45 ∨ vop = 0x46 then decide (sub < 6)
  else sub == 0
/-- A destination: d, or the count n. -/
def isDest (r : Role) : Bool := r == .d || r == .n
/-- The table stream, checked over its own LENGTH (R209, R217, R218). -/
def tableRole (vop : Nat) : Option Role := if vop = 0x40 then some .t else if vop = 0x41 then some .d else none
/-- The destination that receives one element (R207, R211). -/
def oneRole (vop : Nat) : Option Role :=
  if vop = 0x45 then some .d else if vop = 0x42 ∨ vop = 0x46 then some .n else none
/-- A move in the sense of R239 and R240: its data words keep their tags. -/
def isMove (vop : Nat) : Bool :=
  vop == 0x1A || (decide (0x40 ≤ vop) && decide (vop ≤ 0x43)) || vop == 0x48 || vop == 0x49 || decide (0x80 ≤ vop)

/-- The type matrix (R213). -/
def typesOk (vop sub : Nat) (ty : Role → Nat) : Bool :=
  let a := ty .a
  let b := ty .b
  let d := ty .d
  let int (t : Nat) : Bool := t == 3 || t == 4
  let arith (t : Nat) : Bool := t == 0 || t == 1 || int t
  let five (t : Nat) : Bool := decide (t < 5)
  if vop = 0x01 ∨ vop = 0x02 ∨ vop = 0x03 ∨ vop = 0x08 ∨ vop = 0x09 then
    a == b && ((a == d && arith a) || (a == 2 && d == 1))
  else if 0x04 ≤ vop ∧ vop ≤ 0x07 then
    a == b && ty .c == d && ((a == d && (a == 0 || a == 1)) || (a == 2 && d == 1))
  else if vop = 0x0A ∨ vop = 0x0B then a == d && arith a
  else if vop = 0x0C then
    a == b && five a && d == 5 && (!(sub == 6 || sub == 7) || int a) && (!(sub == 8 || sub == 9) || isFp a)
  else if vop = 0x0D then decide (a < 6) && decide (d < 6)
  else if vop = 0x0E ∨ vop = 0x0F then a == d && (a == 0 || a == 1)
  else if vop = 0x10 ∨ vop = 0x11 then a == d && b == d && (a == 0 || a == 1)
  else if vop = 0x12 ∨ vop = 0x13 ∨ vop = 0x14 then a == d && b == d && (int a || a == 5)
  else if vop = 0x15 then a == d && (int a || a == 5)
  else if vop = 0x16 ∨ vop = 0x17 ∨ vop = 0x18 then a == d && b == d && int a
  else if vop = 0x19 then a == d && b == d && decide (a < 6) && ty .m == 5
  else if vop = 0x1A then a == d && decide (a < 6)
  else if vop = 0x40 then ty .t == d && five d && int (ty .i)
  else if vop = 0x41 then a == d && five d && int (ty .i)
  else if vop = 0x42 then a == d && five d && ty .m == 5 && ty .n == 3
  else if vop = 0x43 then a == d && b == d && five d && ty .m == 5
  else if vop = 0x44 ∨ vop = 0x45 then a == d && (((a == 0 || a == 1) && decide (sub % 8 < 3)) || int a)
  else if vop = 0x46 then
    a == d && (((a == 0 || a == 1) && decide (sub % 8 < 3)) || int a) && ty .m == 5 && ty .n == 3
  else if vop = 0x47 then a == 3 && b == 3 && d == 3
  else if vop = 0x48 then a == d && five d && int b
  else if vop = 0x49 then a == d && five d
  else a == d && decide (a < 6)

/-! ### Integers -/

/-- Signed value of a w-bit pattern. -/
def sgn (w x : Nat) : Int := if x.testBit (w - 1) then (x : Int) - 2 ^ w else x
/-- The w-bit pattern of an integer. -/
def pat (w : Nat) (v : Int) : Nat := (v % 2 ^ w).toNat
def notW (w x : Nat) : Nat := 2 ^ w - 1 - x % 2 ^ w
def negW (w x : Nat) : Nat := (2 ^ w - x % 2 ^ w) % 2 ^ w
/-- Rotation left by half the width. -/
def rotW (w x : Nat) : Nat := x % 2 ^ (w / 2) * 2 ^ (w / 2) + x / 2 ^ (w / 2)
/-- The top bit inverted. -/
def topInv (w x : Nat) : Nat := x ^^^ 2 ^ (w - 1)

/-- Compare under SUB on w-bit integers (R214, R230). -/
def cmpInt (w sub a b : Nat) : Bool :=
  match sub with
  | 0 => a == b
  | 1 => a != b
  | 2 => decide (sgn w a < sgn w b)
  | 3 => decide (sgn w a ≤ sgn w b)
  | 4 => decide (sgn w b < sgn w a)
  | 5 => decide (sgn w b ≤ sgn w a)
  | 6 => decide (a < b)
  | _ => decide (b ≤ a)

/-- Integer and logic operations on w-bit patterns (R214 to R216). -/
def intOp (vop w a b : Nat) : Nat :=
  match vop with
  | 0x01 => (a + b) % 2 ^ w
  | 0x02 => (a + (2 ^ w - b)) % 2 ^ w
  | 0x03 => a * b % 2 ^ w
  | 0x08 => if sgn w b < sgn w a then b else a
  | 0x09 => if sgn w a < sgn w b then b else a
  | 0x0A => if sgn w a < 0 then negW w a else a
  | 0x0B => negW w a
  | 0x12 => a &&& b
  | 0x13 => a ||| b
  | 0x14 => a ^^^ b
  | 0x15 => notW w a
  | 0x16 => a * 2 ^ (b % w) % 2 ^ w
  | 0x17 => a / 2 ^ (b % w)
  | 0x18 => pat w (sgn w a / 2 ^ (b % w))
  | _ => a

/-- Minimum or maximum in unsigned order. -/
def minU (isMax : Bool) (a b : Nat) : Nat := if isMax then max a b else min a b

/-- Integer rows of the transform table (R375): the result of pass k. -/
def intPass (k vop w a b : Nat) : Nat :=
  let n (x : Nat) : Nat := notW w x
  let g (x : Nat) : Nat := negW w x
  let r (x : Nat) : Nat := if w = 1 then x else rotW w x
  if k = 0 then intOp vop w a b
  else match vop with
  | 0x01 => if k = 1 then n ((n a + n b + 1) % 2 ^ w) else g (intOp 0x01 w (g a) (g b))
  | 0x02 => if k = 1 then n (intOp 0x01 w (n a) b) else g (intOp 0x02 w (g a) (g b))
  | 0x03 => if k = 1 then g (intOp 0x03 w (g a) b) else g (intOp 0x03 w a (g b))
  | 0x08 => if k = 1 then n (intOp 0x09 w (n a) (n b)) else topInv w (minU false (topInv w a) (topInv w b))
  | 0x09 => if k = 1 then n (intOp 0x08 w (n a) (n b)) else topInv w (minU true (topInv w a) (topInv w b))
  | 0x12 => if k = 1 then n (intOp 0x13 w (n a) (n b)) else r (intOp 0x12 w (r a) (r b))
  | 0x13 => if k = 1 then n (intOp 0x12 w (n a) (n b)) else r (intOp 0x13 w (r a) (r b))
  | 0x14 => if k = 1 then n (intOp 0x14 w (n a) b) else r (intOp 0x14 w (r a) (r b))
  | 0x15 => if k = 1 then n (intOp 0x15 w (n a) b) else r (intOp 0x15 w (r a) b)
  | 0x18 => if k = 1 then n (intOp 0x18 w (n a) b) else intOp vop w a b
  | 0x1A => if k = 1 then n (n a) else r (r a)
  | _ => intOp vop w a b

/-- VCMP on integers in pass k (R375). -/
def cmpIntPass (k w sub a b : Nat) : Bool :=
  if k = 0 then cmpInt w sub a b
  else if k = 1 then cmpInt w sub (notW w b) (notW w a)
  else
    let x := topInv w a
    let y := topInv w b
    match sub with
    | 2 => cmpInt w 6 x y
    | 3 => cmpInt w 7 y x
    | 4 => cmpInt w 6 y x
    | 5 => cmpInt w 7 x y
    | 6 => cmpInt w 2 x y
    | 7 => cmpInt w 5 x y
    | _ => cmpInt w sub x y

/-! ### Floating point with a pass's scaling and negation -/

/-- A value scaled by 2^s; a NaN is unchanged (R377). -/
def scaleV (s : Int) : FV → FV
  | .fin n m e => .fin n m (e + s)
  | v => v
/-- A value with its sign inverted, a NaN's too (R377). -/
def flipV (g : Bool) (v : FV) : FV :=
  if g then (match v with
    | .nan n f => .nan (!n) f
    | .inf n => .inf (!n)
    | .fin n m e => .fin (!n) m e)
  else v
/-- The inverse transform on an exact result: a default NaN and a zero of rounding's sign keep theirs (R377). -/
def invX (s : Int) (g : Bool) : XR → XR
  | .nan n f => .nan (if g then !n else n) f
  | .dnan => .dnan
  | .inf n => .inf (if g then !n else n)
  | .zero n => .zero (if g then !n else n)
  | .zeroRm n => .zeroRm n
  | .fin n m e => .fin (if g then !n else n) m (e + s)

/-- A NaN result with its sign inverted; any other result as it is. -/
def flipNan (g : Bool) : XR → XR
  | .nan n f => .nan (if g then !n else n) f
  | r => r

/-- Compare under SUB (R230): the predicate and the flags. -/
def cmpF (sub : Nat) (a b : FV) : Bool × FFlags :=
  let nan := a.isNan || b.isNan
  let sig := a.isSig || b.isSig
  let fl : FFlags := if (2 ≤ sub ∧ sub ≤ 5 ∧ nan) ∨ sig then flIV else 0
  (match sub with
    | 0 => !nan && eqV a b
    | 1 => nan || !eqV a b
    | 2 => !nan && ltV a b
    | 3 => !nan && !ltV b a
    | 4 => !nan && ltV b a
    | 5 => !nan && !ltV a b
    | 8 => nan
    | _ => !nan, fl)

/-- The comparison that a negated pass runs (R375). -/
def swapCmp (sub : Nat) : Nat :=
  match sub with
  | 2 => 4 | 4 => 2 | 3 => 5 | 5 => 3 | n => n

/-- A floating-point operation of the FMA pipes on scaled (2^s) and negated (g) operands, with the inverse applied to the
exact result before its rounding (R374). A NaN that comes from an operand that is not negated keeps its sign, and the steps, whose other
results need no inverse, restore a NaN's (R377, log 55). -/
def fpOp (vop sub rm : Nat) (df : FFmt) (s : Int) (g : Bool) (a b c : FV) : Nat × FFlags :=
  let t (v : FV) : FV := flipV g (scaleV s v)
  let fin (r : XR × FFlags) (back : Int) : Nat × FFlags :=
    let p := packX df rm (invX back g r.1)
    (p.1, r.2 ||| p.2)
  let prod (r : XR × FFlags) : XR × FFlags := (flipNan (g && !a.isNan && b.isNan) r.1, r.2)
  let step (r : XR × FFlags) : Nat × FFlags :=
    let p := packX df rm (flipNan g r.1)
    (p.1, r.2 ||| p.2)
  let est (r : XR × FFlags) (back : Int) (g : Bool) : Nat × FFlags :=
    let p := packX df 1 (invX back g r.1)
    let fl := r.2 ||| p.2
    let tiny := match r.1 with
      | .fin _ _ _ => decide (p.1 % 2 ^ (df.width - 1) < 2 ^ df.fbits)
      | _ => false
    (p.1, (fl ||| (if tiny && fl &&& flNX != 0 then flUF else 0)) &&& ~~~ flNX)
  match vop with
  | 0x01 => fin (faddOp rm (t a) (t b)) (-s)
  | 0x02 => fin (fsubOp rm (t a) (t b)) (-s)
  | 0x03 => fin (prod (fmulOp (t a) b)) (-s)
  | 0x04 => fin (prod (fmaX rm false false (t a) b (t c))) (-s)
  | 0x05 => fin (prod (fmaX rm false true (t a) b (t c))) (-s)
  | 0x06 => fin (prod (fmaX rm true false (t a) b (t c))) (-s)
  | 0x07 => fin (prod (fmaX rm true true (t a) b (t c))) (-s)
  | 0x08 => fin (minX g (t a) (t b)) (-s)
  | 0x09 => fin (minX (!g) (t a) (t b)) (-s)
  | 0x0C =>
    let r := cmpF (if g then swapCmp sub else sub) (t a) (t b)
    (b2n r.1, r.2)
  | 0x0D => fin (nanRule [t a] (asX (t a), 0)) (-s)
  | 0x0E => est (rcpX (t a)) s g
  | 0x0F => est (rsqX (scaleV (2 * s) a)) s false
  | 0x10 => step (stepX rm false (t a) (flipV g (scaleV (-s) b)))
  | _ => step (stepX rm true (t a) (flipV g (scaleV (-s) b)))

/-! ### One element in one pass -/

/-- Result of an element: value, flags, and whether the pass fell back (R378). -/
structure ERes where
  v : Nat
  fl : FFlags
  fb : Bool
  deriving DecidableEq, Repr, Inhabited

/-- Operands that a pass scales, with their exponents (R375). -/
def scaled (k vop : Nat) : List (Nat × Int) :=
  let s : Int := if k = 1 then 1 else -1
  if vop = 0x01 ∨ vop = 0x02 ∨ vop = 0x08 ∨ vop = 0x09 ∨ vop = 0x0C then [(0, s), (1, s)]
  else if 0x04 ≤ vop ∧ vop ≤ 0x07 then [(0, s), (2, s)]
  else if vop = 0x0F then [(0, 2 * s)]
  else if vop = 0x10 ∨ vop = 0x11 then [(0, s), (1, -s)]
  else [(0, s)]

/-- Admissible operands (R378): zero, infinity, NaN, or normal before and after scaling. -/
def admissible (f : FFmt) (s : Int) : FV → Bool
  | .fin _ m e =>
    m == 0 || (decide (2 ^ f.fbits ≤ m) && decide (f.qmin ≤ e + s) && decide (e + s + f.fbits ≤ f.emax))
  | _ => true

/-- The floating-point operations of the FMA pipes that have a row of their own. -/
def fpRow (vop : Nat) : Bool := decide (vop ≤ 0x11)

/-- The operations on one operand that keep its significand: VABS and VNEG act on the sign bit (R226, clause 5.5.1), VCVT of a type to
itself copies (R231). In a negated pass VABS clears to the other sign, so that the inverse gives its result (R377, log 55). -/
def signOp (vop : Nat) (f : FFmt) (g : Bool) (a : Nat) : Nat :=
  let top := 2 ^ (f.width - 1)
  if vop = 0x0A then a % top + b2n g * top else if vop = 0x0B then a ^^^ top else a

/-- A pattern scaled by 2^s and, under g, with its sign bit inverted; a zero, an infinity and a NaN keep their magnitude (R375, R377). -/
def scaleBits (f : FFmt) (s : Int) (g : Bool) (a : Nat) : Nat :=
  let top := 2 ^ (f.width - 1)
  let b := match unpackF f a with
    | .fin n m e => if s = 0 then a else (packX f 1 (if m = 0 then .zero n else .fin n m (e + s))).1
    | _ => a
  if g then b ^^^ top else b

/-- Pass k of a floating-point row. -/
def fpPass (k vop sub rm : Nat) (df : FFmt) (fs : List FFmt) (xs : List Nat) : ERes :=
  let v (i : Nat) : FV := unpackF (nthD df fs i) (nthD 0 xs i)
  let ok := k == 0 || (scaled k vop).all (fun p => admissible (nthD df fs p.1) p.2 (v p.1))
  let s : Int := if k = 0 ∨ !ok then 0 else if k = 1 then 1 else -1
  let g := k == 2 && vop != 0x0F && (rm == 1 || (vop == 0x0E && ok))
  let keeps := vop == 0x0A || vop == 0x0B || (vop == 0x0D && fs.headD df == df)
  let r := if keeps then (scaleBits df (-s) g (signOp vop df g (scaleBits df s g (nthD 0 xs 0))), 0)
    else fpOp vop sub rm df s g (v 0) (v 1) (v 2)
  ⟨r.1, r.2, !ok⟩

/-- A lens move in pass k: the data elements are inverted on their way through pass 1 (R375). -/
def movePass (k w v : Nat) : Nat := if k = 1 then notW w (notW w v) else v

/-- VCVT (R231), other than between floating-point types. -/
def convert (rm at_ dt a : Nat) : Nat × FFlags :=
  let w := eBits dt
  if at_ = dt then (a, 0)
  else if dt = 5 then
    (b2n (if isFp at_ then a % 2 ^ (eBits at_ - 1) != 0 else a != 0), 0)
  else if at_ = 5 then (if isFp dt then (if a = 1 then (ofIntF (fmtOf dt) rm 1).1 else 0) else a, 0)
  else if isFp at_ then
    let r := toIntF rm w (unpackF (fmtOf at_) a)
    (pat w r.1, r.2)
  else if isFp dt then ofIntF (fmtOf dt) rm (sgn (eBits at_) a)
  else (pat w (sgn (eBits at_) a), 0)

/-- Pass k of an FMA-pipe operation, or of VPERMB: element types of d and of the sources, source elements in operand
order. -/
def elemPass (k vop sub rm dt : Nat) (ts xs : List Nat) : ERes :=
  let a := nthD 0 xs 0
  let b := nthD 0 xs 1
  let at_ := nthD 0 ts 0
  let w := eBits at_
  if vop = 0x0D then
    (if isFp at_ && isFp dt then fpPass k vop sub rm (fmtOf dt) (ts.map fmtOf) xs
     else (let r := convert rm at_ dt a; ⟨r.1, r.2, false⟩))
  else if vop = 0x19 then
    let r := if nthD 0 xs 2 = 1 then a else b
    ⟨if k = 0 then r else if k = 1 then notW w (notW w r) else if w = 1 then r else rotW w (rotW w r), 0, false⟩
  else if vop = 0x47 then
    let r (x : Nat) : Nat := (bperm 0 (BitVec.ofNat 64 x) (BitVec.ofNat 64 (lowNib b))).toNat
    ⟨if k = 0 then r a else notW 64 (r (notW 64 a)), 0, false⟩
  else if isFp at_ && fpRow vop then fpPass k vop sub rm (fmtOf dt) (ts.map fmtOf) xs
  else if vop = 0x0C then ⟨b2n (cmpIntPass k w sub a b), 0, false⟩
  else ⟨intPass k vop w a b, 0, false⟩
where
  /-- Control nibbles 8 to 15 select byte 0 (R216). -/
  lowNib (c : Nat) : Nat := forN 8 (fun j acc => acc + (let x := c / 2 ^ (4 * j) % 16; if x < 8 then x else 0) * 2 ^ (4 * j)) 0

/-! ### Running results and reductions (R220, R221) -/

/-- The identity of a reduction. -/
def identOf (t sub : Nat) : Nat :=
  let w := eBits t
  match sub % 8 with
  | 0 => 0
  | 1 => if isFp t then packBits (fmtOf t) false (2 ^ (fmtOf t).ebits - 1) 0 else 2 ^ (w - 1) - 1
  | 2 => if isFp t then packBits (fmtOf t) true (2 ^ (fmtOf t).ebits - 1) 0 else 2 ^ (w - 1)
  | 3 => 2 ^ w - 1
  | _ => 0

/-- The FMA-pipe operation that combines two values. -/
def redVop (sub : Nat) : Nat :=
  match sub % 8 with
  | 0 => 0x01 | 1 => 0x08 | 2 => 0x09 | 3 => 0x12 | 4 => 0x13 | _ => 0x14

/-- One combination in pass k: integer ADD negates and XOR rotates in pass 1 (R375). -/
def combine (k t sub rm x y : Nat) : ERes :=
  let k' := if k = 1 ∧ !isFp t ∧ (sub % 8 = 0 ∨ sub % 8 = 5) then 2 else k
  elemPass k' (redVop sub) 0 rm t [t, t] [x, y]

/-- Combination with flags and fallbacks gathered. -/
structure Acc where
  v : Nat
  fl : FFlags
  fb : Nat
  deriving DecidableEq, Repr, Inhabited

def accum (k t sub rm : Nat) (r : Acc) (x : Nat) : Acc :=
  let e := combine k t sub rm r.v x
  ⟨e.v, r.fl ||| e.fl, r.fb + b2n e.fb⟩

/-- One level of the fixed tree: elements 2j and 2j + 1 combine. -/
def treeLevel (k t sub rm : Nat) : List Nat → List Nat × FFlags × Nat
  | x :: y :: r =>
    let e := combine k t sub rm x y
    let q := treeLevel k t sub rm r
    (e.v :: q.1, e.fl ||| q.2.1, b2n e.fb + q.2.2)
  | l => (l, 0, 0)

/-- The tree of 256 values, level by level (R221). -/
def treeOf (k t sub rm : Nat) : Nat → List Nat → List Nat × FFlags × Nat
  | 0, l => (l, 0, 0)
  | n + 1, l =>
    let q := treeLevel k t sub rm l
    let r := treeOf k t sub rm n q.1
    (r.1, q.2.1 ||| r.2.1, q.2.2 + r.2.2)

/-- A strip's values padded with the identity to 256. -/
def padStrip (t sub : Nat) (l : List Nat) : List Nat := l ++ List.replicate (256 - l.length) (identOf t sub)

end Sys2Proof.Machine
end

