-- ==== Sys2Proof/Machine/Issue.lean ====
section
/-! DEFINITION. Streams and the issue of vector instructions: VMAKE and VSETL (R195 to R200), the issue checks (R206 to R211,
R723), classification (R242), effective modes (R394 to R397), and the words that wait for units (R129 to R134, R246). -/
namespace Sys2Proof.Machine

open Sys2Proof

/-! ### Words that wait -/

/-- Fetch and decode of a word that may wait, made once: not again while it is under way. -/
def waitHead (c : WCtx) (w : WordSpec) (x : Engine) : NM Unit :=
  if x.mid || x.busy then pure () else do
    beginWord c
    decodeLong c w

/-- What follows the wait: the cycles of a wait that was entered, and the stack. -/
def waitPrep (c : WCtx) (w : WordSpec) (x : Engine) : NM Unit :=
  if x.waiting || x.busy then do
    nWait c
    stackPrep c w.use
  else stackPrep c w.use

/-- A word that may wait: it is fetched and decoded once, and stays until it is ready (R129, R134). -/
def runWait (e : EngineId) (w : WordSpec) (ready : WCtx → NM Bool) (body : WCtx → NM Flow) (s : State) :
    Host.Outcome State Fault Refusal :=
  let c : WCtx := ⟨e, w.op, 0, longWord w.op w.fields⟩
  runProg e (do
    let x ← nEng c
    waitHead c w x
    if x.annulled then nMod c (applyFlow .seq)
    else
      let r ← ready c
      if r then
        waitPrep c w x
        let f ← body c
        addCyc c (if f = .hold then 0 else w.cycles - 1)
        nMod c (applyFlow f)
      else nMod c (fun y => applyFlow .stay { y with waiting := true })) s

/-! ### The stream table -/

def streamAt (t : Tile) (k : Nat) : StreamEntry := tget (fun _ => StreamEntry.empty) t.streams k

/-- A VDESC word is current (R199). -/
def currentWord (t : Tile) (v : Word) : Bool :=
  let e := streamAt t (wfld v 63 58)
  e.valid && e.gen.toNat == wfld v 31 0

/-- The first check of VMAKE that fails, as FADDR (R196). -/
def vmakeBad (s : State) (sw tw : Word) : Option Word :=
  if wfld sw 63 31 != 0 && wfld sw 63 31 != 2 ^ 33 - 1 then some sw
  else if wfld tw 40 20 != 0 || (!tw.getLsbD 55 && wfld tw 54 41 != 0) then some tw
  else if decide (6 ≤ wfld tw 19 17) || wfld tw 57 56 == 3 || decide (65536 < wfld tw 16 0) then some tw
  else if wfld tw 19 17 == 5 && sw != 1 then some sw
  else if tw.getLsbD 55 && (named s && wfld tw 54 41 == (ownId s).toNat) then some tw
  else none

/-- The VDESC word of R197. -/
def vdescWord (tw : Word) (gen : BitVec 32) : Word :=
  BitVec.ofNat 64 (wfld tw 63 58 * 2 ^ 58 + wfld tw 57 56 * 2 ^ 56 + wfld tw 19 17 * 2 ^ 49 + wfld tw 16 0 * 2 ^ 32 + gen.toNat)

/-- The entry that VMAKE writes (R197). -/
def vmakeEntry (old : StreamEntry) (a sw tw : Word) : StreamEntry where
  valid := true
  gen := old.gen + 1
  seg := codeSeg a
  offset := BitVec.ofNat 48 (codeOff a)
  stride := sw.setWidth 32
  remote := tw.getLsbD 55
  device := BitVec.ofNat 14 (wfld tw 54 41)

def putStream (k : Nat) (e : StreamEntry) (t : Tile) : Tile :=
  { t with streams := tset (fun _ => StreamEntry.empty) t.streams k e }

/-- VMAKE writes its stream-table entry, and answers the generation of its VDESC. DEDUCED (log 13): a postmaster has no stream table, so that
its VDESC carries a generation that the spec leaves open. -/
def makeStream (c : WCtx) (a sw tw : Word) : NM (BitVec 32) := do
  let k := wfld tw 63 58
  match engTile c.e with
  | some t =>
    let en := vmakeEntry (streamAt (getTile (← get) t) k) a sw tw
    modify (fun s => updTile s t (putStream k en))
    return en.gen
  | none =>
    let s ← get
    set (tick s)
    return (Config.freeValue s.free).setWidth 32

/-- VMAKE: checks the shape, writes a stream-table entry and pushes its VDESC (R130, R196, R197). -/
def execVmake (e : EngineId) (s : State) : Host.Outcome State Fault Refusal :=
  runLong e (wspec 0x4E 0 4 3 3 1) (fun c => do
    let tw ← needNum c 0
    let sw ← needNum c 1
    let a ← needTag c 2 3 2
    match vmakeBad (← get) sw.data tw.data with
    | some f => rangeFault c f
    | none => pure ()
    let g ← makeStream c a.data sw.data tw.data
    popD c 3
    pushD c ⟨vdescWord tw.data g, 5⟩
    return .seq) s

/-- VSETL: replaces the LENGTH of a VDESC (R130, R198). -/
def execVsetl (e : EngineId) (s : State) : Host.Outcome State Fault Refusal :=
  runLong e (wspec 0x4F 0 3 2 2 1) (fun c => do
    let l ← needNum c 0
    let d ← needTag c 1 5 3
    if 65536 < l.data.toNat then rangeFault c l.data
    popD c 2
    pushD c ⟨(d.data &&& ~~~ BitVec.ofNat 64 (0x1FFFF * 2 ^ 32)) ||| (l.data <<< 32), 5⟩
    return .seq) s

/-! ### Spans (R202 to R204) -/

/-- Bytes of an element address step. -/
def eBytes (t : Nat) : Nat := eBits t / 8

/-- First and last byte of a stream over n ≥ 1 elements; a tile-store destination narrower than a word is widened. -/
def spanOf (offset stride : Int) (ety n : Nat) (widen : Bool) : Int × Int :=
  if ety = 5 then (offset, offset + 8 * (cdiv n 64 : Nat) - 1)
  else
    let z : Int := (eBytes ety : Nat)
    let last := offset + ((n : Int) - 1) * stride * z
    let lo := min offset last
    let hi := max offset last + z - 1
    if widen && eBytes ety < 8 then (lo / 8 * 8, hi / 8 * 8 + 7) else (lo, hi)

/-- Space of a captured stream: 0 tile store, 1 HBM, 2 remote; none when its descriptor grants no access (R723). -/
def spaceOf (c : CStream) : Option Nat := if c.remote then some 2 else if grants c.desc then some c.desc.space.toNat else none

/-- Span of a captured stream in its space: an identification of the space and absolute bytes. -/
def placeOf (c : CStream) (dest : Bool) : Option (Nat × Int × Int) :=
  if c.length = 0 then none
  else
    let sp := spanOf c.offset c.stride c.ety.toNat c.length (dest && spaceOf c == some 0)
    match spaceOf c with
    | some 0 => some (0, sp.1 + c.desc.base.toNat, sp.2 + c.desc.base.toNat)
    | some 1 => some (1 + c.seg.toNat, sp.1, sp.2)
    | _ => none

def overlaps (a b : Option (Nat × Int × Int)) : Bool :=
  match a, b with
  | some x, some y => x.1 == y.1 && decide (x.2.1 ≤ y.2.2) && decide (y.2.1 ≤ x.2.2)
  | _, _ => false

/-! ### Issue checks -/

/-- An operand of an instruction being issued: its role (none for the predicate), its VDESC word and its stream. -/
structure IOp where
  role : Option Role
  word : Word
  st : CStream
  deriving DecidableEq, Repr

/-- MOD fields of form V. -/
def modRm (md : BitVec 12) : Nat := md.toNat / 512
def modPred (md : BitVec 12) : Bool := md.getLsbD 8
def modMerge (md : BitVec 12) : Bool := md.getLsbD 7
def modSub (md : BitVec 12) : Nat := md.toNat / 8 % 16

/-- Step 1 of R206: a reserved MOD, a PRED the operation does not take, a reserved SUB, an unassigned VOP. -/
def vIllegal (vop : Nat) (md : BitVec 12) : Bool :=
  !vopAssigned vop || md.toNat % 8 != 0 || decide (5 ≤ modRm md) || (modPred md && !takesPred vop) || !subOk vop (modSub md)

/-- Roles of the operands in stack order, T first; the predicate is the deepest. -/
def issueRoles (vop : Nat) (pred : Bool) : List (Option Role) :=
  (sigOf vop).map some ++ (if pred then [none] else [])

/-- Elements an operand is used for: a table stream its own LENGTH, every other VL (R205, R209); with VL 0 a destination of one element
that one (R211). -/
def usedLen (vop vl own : Nat) (r : Option Role) : Nat :=
  if r.isSome && r == tableRole vop then own
  else if vl == 0 && r.isSome && r == oneRole vop then 1
  else vl

/-- Capture of an operand at issue (R210). -/
def captureOp (e : StreamEntry) (v : Word) (n : Nat) (d : Desc) : CStream where
  seg := e.seg
  offset := e.offset.toNat
  stride := e.stride.toInt
  remote := e.remote
  device := e.device
  ety := BitVec.ofNat 3 (wfld v 51 49)
  length := n
  desc := d

/-- The stream of a role. -/
def opStream (ops : List IOp) (r : Role) : Option CStream := (ops.find? (fun o => o.role == some r)).map (·.st)
def opTy (ops : List IOp) (r : Role) : Nat := ((opStream ops r).map (·.ety.toNat)).getD 7

/-- A staging area is set, lies in the tenant's banks and clear of the system rows (R207). -/
def stagingOk (t : Tile) : Bool :=
  let v := t.reg 0x314
  bit v 31 && (t.reg 0x008).getLsbD (fld v 21 16 / 4) && fld v 21 16 != 63

/-- The operand a failing rule names: the one nearest T that meets p. -/
def nearest (ops : List IOp) (p : IOp → Bool) : Option Word := (ops.find? p).map (·.word)

def iDest (o : IOp) : Bool := match o.role with | some r => isDest r | none => false

/-- The form rules in R207's order: the VDESC word that the first failing one names (R723). -/
def formFault (t : Tile) (vop : Nat) (md : BitVec 12) (vl : Nat) (ops : List IOp) : Option Word :=
  let dw := (ops.head?.map (·.word))
  let d := (opStream ops .d).getD ⟨0, 0, 0, false, 0, 0, 0, Desc.empty⟩
  let z := eBits d.ety.toNat
  let inOrder := vop != 0x45 && vop != 0x41
  let predOk := ops.all (fun o => o.role.isSome || o.st.ety == 5)
  let remoteOk (o : IOp) : Bool := (vop == 0x80 && o.role == some .a) || (vop == 0x81 && o.role == some .d)
  let courierLap := decide (0x80 ≤ vop) && overlaps ((opStream ops .a).bind (placeOf · false)) (placeOf d true)
  let hbmSrc (o : IOp) : Bool := !iDest o && spaceOf o.st == some 1
  if !(typesOk vop (modSub md) (opTy ops) && predOk) then dw
  else if modMerge md && decide (z < 64) then dw
  else if inOrder && d.stride == 0 && decide (1 < vl) then dw
  else if inOrder && spaceOf d == some 0 && decide (z < 64) && d.stride != 1 then dw
  else if ops.any (fun o => o.st.remote && !remoteOk o) then nearest ops (fun o => o.st.remote && !remoteOk o)
  else if courierLap then dw
  else if vop = 0x49 ∧ vl % 256 ≠ 0 then dw
  else if ops.any hbmSrc && (pipeClass vop == 1 || vop == 0x81) then nearest ops hbmSrc
  else if ops.any hbmSrc && pipeClass vop == 0 && !stagingOk t then nearest ops hbmSrc
  else none

/-- The first misaligned operand, from T downward: its stream and whether it is a destination (R208, R224). -/
def alignFaultOf (vop vl : Nat) (ops : List IOp) : Option (CStream × Bool) :=
  let bad (o : IOp) : Bool :=
    let t := o.st.ety.toNat
    let z := if t = 5 then 8 else eBytes t
    o.st.offset % (z : Nat) != 0 || (iDest o && spaceOf o.st == some 0 && decide (eBits t < 64) && o.st.offset % 8 != 0) ||
    (vop == 0x81 && iDest o && (spaceOf o.st == some 1 || spaceOf o.st == some 2) &&
      (o.st.stride != 1 || o.st.offset % 64 != 0 || (vl != 0 &&
        (let sp := spanOf o.st.offset o.st.stride t vl false; (sp.2 - sp.1 + 1) % 64 != 0))))
  (ops.find? bad).map (fun o => (o.st, iDest o))

/-- Step 6 for one local stream: the offset that F_SEGMENT reports (R209). -/
def segFaultAt (s : State) (e : EngineId) (vop : Nat) (o : IOp) : Option Nat :=
  let c := o.st
  if c.remote || c.length == 0 then none
  else
    let dest := iDest o
    let sp := spanOf c.offset c.stride c.ety.toNat c.length (dest && spaceOf c == some 0)
    let start := (sp.1 % 2 ^ 48).toNat
    let spaceOk := match spaceOf c with
      | some 0 => !(dest && vop == 0x81)
      | some 1 => !dest || vop == 0x81
      | _ => false
    if !spaceOk || !(if dest then c.desc.w else c.desc.r) then some start
    else if sp.1 < 0 then some start
    else if (c.desc.limit.toNat : Int) < sp.2 then some (max sp.1.toNat (c.desc.limit.toNat + 1))
    else if spaceOf c == some 0 then
      (outsideE s e (c.desc.base.toNat + sp.1.toNat) (sp.2 - sp.1 + 1).toNat).map (· - c.desc.base.toNat)
    else none

/-- Classification (R242): 0 re-runnable, 1 in-place aligned, 2 in-place serialised. -/
def classify (vop : Nat) (ops : List IOp) : BitVec 2 :=
  let pairs := (ops.filter iDest).flatMap (fun d => (ops.filter (fun o => !iDest o)).map (fun o => (d, o)))
  let lap := pairs.filter (fun p => overlaps (placeOf p.1.st true) (placeOf p.2.st false))
  let same (p : IOp × IOp) : Bool :=
    p.1.st.seg == p.2.st.seg && p.1.st.offset == p.2.st.offset && p.1.st.stride == p.2.st.stride &&
    p.1.st.ety == p.2.st.ety && p.1.st.length == p.2.st.length
  if lap.isEmpty then 0 else if pipeClass vop == 0 && lap.all same then 1 else 2

/-! ### The reflection log and modes (R394 to R400) -/

/-- Write an event of the tile event log (R400). -/
def tfLog (p kind pipe mode aux : Nat) (round : Bool) (unit strip : Nat) (s : State) : State :=
  let t := getP s p
  let next := fld (t.reg 0x514) 3 0
  let a := BitVec.ofNat 32 (2 ^ 31 + kind * 2 ^ 28 + pipe * 2 ^ 24 + mode * 2 ^ 22 + aux * 2 ^ 20 + b2n round * 2 ^ 19 +
    unit * 2 ^ 13 + strip % 256 * 2 ^ 5)
  setP s p (((t.setReg (0x580 + 8 * next) a).setReg (0x584 + 8 * next) (logTime s)).updReg 0x514 (fun v =>
    let v1 := setFld v 3 0 ((next + 1) % 16)
    if next = 15 then setFld v1 31 16 ((fld v 31 16 + 1) % 65536) else v1))

def tfSet (p b : Nat) (s : State) : State := updP s p (fun t => t.updReg 0x504 (fun v => setBit v b))

/-- A hand-over point: TF_CTRL as written takes effect, with a mode seal when FLOOR or CAP changes (R396, R397). -/
def handOver (p : Nat) (atWindow : Bool) (s : State) : State :=
  let t := getP s p
  let v := t.reg 0x500
  if v = t.tfInForce then s
  else
    tfLog p 1 0xF (fld v 3 2) (fld v 1 0) atWindow 0 0
      (tfSet p 0 (updP s p (fun t => { t with tfInForce := v })))

/-- Effective mode of a single instruction (R394, R365). -/
def effMode (ctl : BitVec 32) (cls own : Nat) : BitVec 2 :=
  let m := min (max own (fld ctl 3 2)) (fld ctl 1 0)
  BitVec.ofNat 2 (if cls = 2 then 0 else if cls = 1 then min m 1 else m)

/-! ### VISSUE -/

/-- Read the operand words, T first (step 3 of R206). -/
def issueWords (c : WCtx) (roles : List (Option Role)) : NM (List (Option Role × Word)) :=
  (List.range roles.length).mapM (fun i => do
    let v ← needTag c i 5 3
    return (nthD none roles i, v.data))

/-- Capture every operand with its descriptor, read from T downward (R723). -/
def captureAll (c : WCtx) (t : Tile) (vop vl : Nat) : List (Option Role × Word) → NM (List IOp)
  | [] => return []
  | (r, v) :: rest => do
    let e := streamAt t (wfld v 63 58)
    let d ← if e.remote then pure Desc.empty else descOf c e.seg e.offset.toNat
    let o : IOp := ⟨r, v, captureOp e v (usedLen vop vl (wfld v 48 32) r) d⟩
    let l ← captureAll c t vop vl rest
    return o :: l

/-- Steps 4 to 6 of R206, and what the accepted instruction captures (R210). -/
def issueChecks (c : WCtx) (t vop : Nat) (id : BitVec 4) (md : BitVec 12) (ws : List (Option Role × Word)) : NM VUnit := do
  let tl := getTile (← get) t
  match ws.find? (fun p => !currentWord tl p.2) with
  | some p => rangeFault c p.2
  | none => pure ()
  let vl := match ws.find? (fun p => p.1 == some (vlRole vop)) with
    | some p => wfld p.2 48 32
    | none => 0
  let ops ← captureAll c tl vop vl ws
  match formFault tl vop md vl ops with
  | some w => rangeFault c w
  | none => pure ()
  match alignFaultOf vop vl ops with
  | some (st, dest) => alignFault c st.seg.toNat (if dest then 2 else 1) (st.offset % 2 ^ 48).toNat
  | none => pure ()
  let s ← get
  match ops.find? (fun o => (segFaultAt s c.e vop o).isSome) with
  | some o => segFault c o.st.seg.toNat (if iDest o then 2 else 1) ((segFaultAt s c.e vop o).getD 0)
  | none => pure ()
  let own := match ws.head? with | some p => wfld p.2 57 56 | none => 0
  let rm := if modRm md = 0 then fld (tl.reg 0x304) 5 3 else modRm md
  return {
    id := id, vop := BitVec.ofNat 8 vop, rm := BitVec.ofNat 3 rm, pred := modPred md, merge := modMerge md,
    sub := BitVec.ofNat 4 (modSub md), mode := BitVec.ofNat 2 own, cls := classify vop ops, vl := vl,
    ops := (ops.filter (·.role.isSome)).map (·.st), pst := (ops.find? (·.role.isNone)).map (·.st),
    started := false, parked := false, holds := [], pipes := [], courier := none, strip := 0, carry := 0, outPos := 0,
    disputed := none, remoteLeft := 0, refused := false, got := [], buf := [], ahead := [], failed := [] }

/-- An instruction is accepted into the counter path: hand-over, effective mode, and its start element (R206, R253,
R396). -/
def acceptUnit (t : Nat) (u : VUnit) (s : State) : State :=
  let s1 := handOver (physOf s t) false s
  let tl := getTile s1 t
  let u1 := { u with mode := effMode tl.tfInForce (pipeClass u.vop.toNat) u.mode.toNat }
  if tl.eng.resume then
    let r := 0x340 + 4 * u.id.toNat
    let from_ := fld (tl.reg r) 16 0
    if u.vl ≤ from_ then updTile s1 t (fun tl => tl.setReg r 0)
    else updTile s1 t (fun tl => { tl with units := tl.units ++ [{ u1 with strip := from_ / 256 }] })
  else updTile s1 t (fun tl => { tl with units := tl.units ++ [u1] })

/-- The outstanding unit of an ID. -/
def unitOf (t : Tile) (id : BitVec 4) : Option VUnit := t.units.find? (fun u => u.id == id)

/-- The ID wait of VISSUE (R129); a handler's VISSUE that names a parked ID faults F_RANGE (R246). A postmaster has no vector
instruction outstanding. -/
def vissueReady (id : BitVec 4) (c : WCtx) : NM Bool := do
  match engTile c.e with
  | none => return true
  | some t =>
    let tl := getTile (← get) t
    match unitOf tl id with
    | some u =>
      if u.parked && decide (0 < tl.eng.hlevel) then rangeFault c (id.setWidth 64)
      return false
    | none => return true

/-- Steps 4 to 6 of R206 and acceptance. DEDUCED (log 13): without a stream table no VDESC word is current, so that in a postmaster step 4
fails on the word nearest T. -/
def issueAt (c : WCtx) (vop : Nat) (id : BitVec 4) (md : BitVec 12) (ws : List (Option Role × Word)) : NM Unit := do
  match engTile c.e with
  | some t =>
    let u ← issueChecks c t vop id md ws
    popD c ws.length
    modify (acceptUnit t u)
  | none => rangeFault c ((ws.head?.map (·.2)).getD 0)

/-- VISSUE of operation vop: the ID wait, the checks of R206 and acceptance. -/
def vissue (e : EngineId) (vop : Nat) (id : BitVec 4) (md : BitVec 12) (s : State) : Host.Outcome State Fault Refusal :=
  let roles := issueRoles vop (modPred md)
  let n := roles.length
  let w := { wspec 0x48 (vop * 65536 + id.toNat * 4096 + md.toNat) 4 n n 0 with illegal := fun _ => vIllegal vop md }
  runWait e w (vissueReady id)
    (fun c => do
      modify (drainAll c.e)
      let ws ← issueWords c roles
      issueAt c vop id md ws
      return .seq) s

/-- VADD: a + b (R212). -/
def execVadd (e : EngineId) (id : BitVec 4) (md : BitVec 12) (s : State) : Host.Outcome State Fault Refusal := vissue e 0x01 id md s
/-- VSUB: a − b. -/
def execVsub (e : EngineId) (id : BitVec 4) (md : BitVec 12) (s : State) : Host.Outcome State Fault Refusal := vissue e 0x02 id md s
/-- VMUL: a × b. -/
def execVmul (e : EngineId) (id : BitVec 4) (md : BitVec 12) (s : State) : Host.Outcome State Fault Refusal := vissue e 0x03 id md s
/-- VFMA: a × b + c. -/
def execVfma (e : EngineId) (id : BitVec 4) (md : BitVec 12) (s : State) : Host.Outcome State Fault Refusal := vissue e 0x04 id md s
/-- VFMS: a × b − c. -/
def execVfms (e : EngineId) (id : BitVec 4) (md : BitVec 12) (s : State) : Host.Outcome State Fault Refusal := vissue e 0x05 id md s
/-- VFNMA: −(a × b) + c. -/
def execVfnma (e : EngineId) (id : BitVec 4) (md : BitVec 12) (s : State) : Host.Outcome State Fault Refusal := vissue e 0x06 id md s
/-- VFNMS: −(a × b) − c. -/
def execVfnms (e : EngineId) (id : BitVec 4) (md : BitVec 12) (s : State) : Host.Outcome State Fault Refusal := vissue e 0x07 id md s
/-- VMIN: minimum. -/
def execVmin (e : EngineId) (id : BitVec 4) (md : BitVec 12) (s : State) : Host.Outcome State Fault Refusal := vissue e 0x08 id md s
/-- VMAX: maximum. -/
def execVmax (e : EngineId) (id : BitVec 4) (md : BitVec 12) (s : State) : Host.Outcome State Fault Refusal := vissue e 0x09 id md s
/-- VABS: absolute value. -/
def execVabs (e : EngineId) (id : BitVec 4) (md : BitVec 12) (s : State) : Host.Outcome State Fault Refusal := vissue e 0x0A id md s
/-- VNEG: negation. -/
def execVneg (e : EngineId) (id : BitVec 4) (md : BitVec 12) (s : State) : Host.Outcome State Fault Refusal := vissue e 0x0B id md s
/-- VCMP: compare under SUB into a mask. -/
def execVcmp (e : EngineId) (id : BitVec 4) (md : BitVec 12) (s : State) : Host.Outcome State Fault Refusal := vissue e 0x0C id md s
/-- VCVT: convert a to d's type (R231). -/
def execVcvt (e : EngineId) (id : BitVec 4) (md : BitVec 12) (s : State) : Host.Outcome State Fault Refusal := vissue e 0x0D id md s
/-- VRCPE: reciprocal estimate (R232). -/
def execVrcpe (e : EngineId) (id : BitVec 4) (md : BitVec 12) (s : State) : Host.Outcome State Fault Refusal := vissue e 0x0E id md s
/-- VRSQE: reciprocal square-root estimate (R232). -/
def execVrsqe (e : EngineId) (id : BitVec 4) (md : BitVec 12) (s : State) : Host.Outcome State Fault Refusal := vissue e 0x0F id md s
/-- VRCPS: 2 − a × b (R233). -/
def execVrcps (e : EngineId) (id : BitVec 4) (md : BitVec 12) (s : State) : Host.Outcome State Fault Refusal := vissue e 0x10 id md s
/-- VRSQS: (3 − a × b) / 2 (R233). -/
def execVrsqs (e : EngineId) (id : BitVec 4) (md : BitVec 12) (s : State) : Host.Outcome State Fault Refusal := vissue e 0x11 id md s
/-- VAND: bitwise AND. -/
def execVand (e : EngineId) (id : BitVec 4) (md : BitVec 12) (s : State) : Host.Outcome State Fault Refusal := vissue e 0x12 id md s
/-- VOR: bitwise OR. -/
def execVor (e : EngineId) (id : BitVec 4) (md : BitVec 12) (s : State) : Host.Outcome State Fault Refusal := vissue e 0x13 id md s
/-- VXOR: bitwise XOR. -/
def execVxor (e : EngineId) (id : BitVec 4) (md : BitVec 12) (s : State) : Host.Outcome State Fault Refusal := vissue e 0x14 id md s
/-- VNOT: bitwise NOT. -/
def execVnot (e : EngineId) (id : BitVec 4) (md : BitVec 12) (s : State) : Host.Outcome State Fault Refusal := vissue e 0x15 id md s
/-- VSHL: shift left. -/
def execVshl (e : EngineId) (id : BitVec 4) (md : BitVec 12) (s : State) : Host.Outcome State Fault Refusal := vissue e 0x16 id md s
/-- VSHR: logical shift right. -/
def execVshr (e : EngineId) (id : BitVec 4) (md : BitVec 12) (s : State) : Host.Outcome State Fault Refusal := vissue e 0x17 id md s
/-- VSAR: arithmetic shift right. -/
def execVsar (e : EngineId) (id : BitVec 4) (md : BitVec 12) (s : State) : Host.Outcome State Fault Refusal := vissue e 0x18 id md s
/-- VSEL: m ? a : b. -/
def execVsel (e : EngineId) (id : BitVec 4) (md : BitVec 12) (s : State) : Host.Outcome State Fault Refusal := vissue e 0x19 id md s
/-- VCOPY: copy. -/
def execVcopy (e : EngineId) (id : BitVec 4) (md : BitVec 12) (s : State) : Host.Outcome State Fault Refusal := vissue e 0x1A id md s
/-- VGATHER: d[k] = t[i[k]] (R217). -/
def execVgather (e : EngineId) (id : BitVec 4) (md : BitVec 12) (s : State) : Host.Outcome State Fault Refusal := vissue e 0x40 id md s
/-- VSCATTER: d[i[k]] = a[k] (R218). -/
def execVscatter (e : EngineId) (id : BitVec 4) (md : BitVec 12) (s : State) : Host.Outcome State Fault Refusal := vissue e 0x41 id md s
/-- VCOMPRESS: pack the selected elements (R219). -/
def execVcompress (e : EngineId) (id : BitVec 4) (md : BitVec 12) (s : State) : Host.Outcome State Fault Refusal := vissue e 0x42 id md s
/-- VEXPAND: spread elements under a mask (R219). -/
def execVexpand (e : EngineId) (id : BitVec 4) (md : BitVec 12) (s : State) : Host.Outcome State Fault Refusal := vissue e 0x43 id md s
/-- VSCAN: prefix scan (R220). -/
def execVscan (e : EngineId) (id : BitVec 4) (md : BitVec 12) (s : State) : Host.Outcome State Fault Refusal := vissue e 0x44 id md s
/-- VRED: reduction (R221). -/
def execVred (e : EngineId) (id : BitVec 4) (md : BitVec 12) (s : State) : Host.Outcome State Fault Refusal := vissue e 0x45 id md s
/-- VSEGRED: one reduction per segment (R221). -/
def execVsegred (e : EngineId) (id : BitVec 4) (md : BitVec 12) (s : State) : Host.Outcome State Fault Refusal := vissue e 0x46 id md s
/-- VPERMB: byte permute (R216). -/
def execVpermb (e : EngineId) (id : BitVec 4) (md : BitVec 12) (s : State) : Host.Outcome State Fault Refusal := vissue e 0x47 id md s
/-- VPERME: element permute within groups of 16. -/
def execVperme (e : EngineId) (id : BitVec 4) (md : BitVec 12) (s : State) : Host.Outcome State Fault Refusal := vissue e 0x48 id md s
/-- VTRANS: transpose of 16 × 16 blocks (R222). -/
def execVtrans (e : EngineId) (id : BitVec 4) (md : BitVec 12) (s : State) : Host.Outcome State Fault Refusal := vissue e 0x49 id md s
/-- VLOAD: courier load (R223). -/
def execVload (e : EngineId) (id : BitVec 4) (md : BitVec 12) (s : State) : Host.Outcome State Fault Refusal := vissue e 0x80 id md s
/-- VSTORE: courier store (R224). -/
def execVstore (e : EngineId) (id : BitVec 4) (md : BitVec 12) (s : State) : Host.Outcome State Fault Refusal := vissue e 0x81 id md s

/-! ### Waits -/

/-- The vector units of an engine's tile. -/
def unitsOf (s : State) : EngineId → List VUnit
  | .tile t => (getTile s t).units
  | _ => []

/-- The wait of VWAIT: no ID of the mask is outstanding; a handler's VWAIT that names a parked ID faults F_RANGE (R246). -/
def vwaitReady (mask : BitVec 16) (c : WCtx) : NM Bool := do
  let s ← get
  let us := (unitsOf s c.e).filter (fun u => mask.getLsbD u.id.toNat)
  if decide (0 < (getEng s c.e).hlevel) && us.any (·.parked) then rangeFault c (mask.setWidth 64)
  return us.isEmpty

/-- The wait of VFENCE: no instruction is outstanding but those that are parked (R246). -/
def vfenceReady (c : WCtx) : NM Bool := do
  let s ← get
  return (unitsOf s c.e).all (·.parked)

/-- VWAIT: waits until no ID of the mask is outstanding, then discards the fetch lines (R246, R264). -/
def execVwait (e : EngineId) (mask : BitVec 16) (s : State) : Host.Outcome State Fault Refusal :=
  runWait e (wspec 0x49 mask.toNat 2 0 0 0) (vwaitReady mask)
    (fun c => do
      nMod c (fun x => { x with lines := [], known := x.cycles })
      return .seq) s

/-- VFENCE: waits for every outstanding ID that is not parked (R246, R264). -/
def execVfence (e : EngineId) (s : State) : Host.Outcome State Fault Refusal :=
  runWait e (wspec 0x4A 0 2 0 0 0) vfenceReady
    (fun c => do
      nMod c (fun x => { x with lines := [], known := x.cycles })
      return .seq) s

end Sys2Proof.Machine
end

