-- ==== Sys2Proof/Machine/Strip.lean ====
section
/-! DEFINITION. One strip of a vector instruction: reading its sources, computing it in each pass, and writing it (R217 to R222,
R235 to R241, R381 to R383). -/
namespace Sys2Proof.Machine

open Sys2Proof

/-! ### Reading sources -/

/-- Who reads: logical tile (its requester number), physical tile, master code, tenant. -/
structure RdCtx where
  t : Nat
  p : Nat
  mc : Nat
  ten : Option Nat
  deriving DecidableEq, Repr

/-- A read in progress: the state, the words read so far by operand and place, newest first (R371), the rows read in the tile store as
(operand, row), newest first, and whether a courier has met an uncorrectable word in a line that it moves (R711). -/
structure Rd where
  s : State
  buf : List (Nat × Option TWord)
  rows : List (Nat × Nat)
  spoilt : Bool

/-- Key of a word: operand and word number. -/
def bufKey (op w : Nat) : Nat := op * 2 ^ 60 + w

/-- The word that the strip buffer delivers: its check bits correct one failing bit, without a log, and detect two (R372). -/
def keptWord (c : Option SWord) : Option TWord :=
  match c with
  | none => none
  | some x => match checkWord x with
    | (.bad, _) => none
    | (_, v) => some v

/-- A word as the strip buffer takes it, with its check bits (R372). -/
def keepCell (w : Option TWord) : Option SWord := w.map (fun v => ⟨v.data, v.tag, 0⟩)

/-- Enter the words of a line that was read whole. -/
def putLineWords (op w0 : Nat) (ws : List (Option TWord)) (b : List (Nat × Option TWord)) : List (Nat × Option TWord) :=
  (List.range ws.length).map (fun i => (bufKey op (w0 + i), nthD none ws i)) ++ b

/-- Read n words upward from word w as master mc. -/
def tsReadUp (p mc : Nat) : Nat → Nat → State → List (Option TWord) × State
  | _, 0, s => ([], s)
  | w, n + 1, s =>
    let a := tsRead p w mc s
    let r := tsReadUp p mc (w + 1) n a.2
    (a.1 :: r.1, r.2)

/-- Words of a line as a reader sees it. -/
def wordsOfLine : Option (BitVec 512 × BitVec 32) → List (Option TWord)
  | some (d, t) => (List.range 8).map (fun i => some (lineWord d t i))
  | none => List.replicate 8 none

/-- An operand's row is read once for the words that follow each other in it. -/
def noteRow (op row : Nat) (rows : List (Nat × Nat)) : List (Nat × Nat) :=
  match rows.find? (fun x => x.1 == op) with
  | some x => if x.2 = row then rows else (op, row) :: rows
  | none => (op, row) :: rows

/-- Byte offset of the word that holds element k, and the element's lowest bit in it (R202, R203). -/
def elemPlace (c : CStream) (k : Nat) : Nat × Nat :=
  if c.ety = 5 then ((c.offset + 8 * (k / 64 : Nat)).toNat, k % 64)
  else
    let o := (c.offset + (k : Int) * c.stride * (eBytes c.ety.toNat : Nat)).toNat
    (o / 8 * 8, o % 8 * 8)

/-- An operand of a unit by its index in the signature; the predicate is operand 15. -/
def unitOp (u : VUnit) (i : Nat) : CStream :=
  if i = 15 then u.pst.getD ⟨0, 0, 0, false, 0, 0, 0, Desc.empty⟩ else nthD ⟨0, 0, 0, false, 0, 0, 0, Desc.empty⟩ u.ops i

/-! ### Staging windows (R259 to R261) -/

/-- Operand i of an FMA-pipe instruction is an HBM source, which the pipe reads from its staging window. -/
def staged (u : VUnit) (i : Nat) : Bool := pipeClass u.vop.toNat == 0 && i != 0 && spaceOf (unitOp u i) == some 1

/-- The window of an operand: a, b, c, p in this order. -/
def windowOf (i : Nat) : Nat := if i = 15 then 3 else i - 1

/-- Number of the line run of element k: each run of consecutive elements within one line is one line of the ring (R223). -/
def runOf (c : CStream) (k : Nat) : Nat :=
  forN k (fun j a => if (elemPlace c (j + 1)).1 / 64 = (elemPlace c j).1 / 64 then a else a + 1) 0

/-- The lines of a source's runs over n elements, in order. -/
def runLines (c : CStream) (n : Nat) : List Nat :=
  ((List.range n).foldl (fun a k =>
    let l := (elemPlace c k).1 / 64
    match a with
    | m :: _ => if m = l then a else l :: a
    | [] => [l]) []).reverse

/-- First word of the place of run q in the window of operand i. -/
def windowWord (s : State) (p i q : Nat) : Nat :=
  fld ((getP s p).reg 0x314) 21 16 * 8192 + windowOf i * 2048 + q % 256 * 8

/-- The courier streams the line of run q of operand i into its window, through a counter slot; one that cannot be read is noted. -/
def streamLine (cx : RdCtx) (courier i q : Nat) (u : VUnit) (s : State) : VUnit × State :=
  let c := unitOp u i
  let a := segReadLine cx.ten c.desc (nthD 0 (runLines c u.vl) q) 1 cx.t s
  match a.1 with
  | none => ({ u with failed := addOnce u.failed (bufKey i q) }, a.2)
  | some (d, tg) =>
    let w := windowWord a.2 cx.p i q
    let b := bankAccesses cx.p [[some ⟨bankOf w, courier, 3⟩]] a.2
    ({ u with failed := dropAll u.failed (bufKey i q) }, tsWriteList cx.p w ((List.range 8).map (lineWord d tg)) b.2)

/-- The courier runs ahead of the pipe until the window is full: 256 lines from that of element lo on (R260). A resumed instruction's lines
begin with that of the element at which it starts (R253). -/
def fillWindow (cx : RdCtx) (courier i lo : Nat) (u : VUnit) (s : State) : VUnit × State :=
  if !staged u i then (u, s)
  else
    let now := runOf (unitOp u i) lo
    let have_ := max (tget (fun _ => 0) u.ahead i) now
    let upto := min (runLines (unitOp u i) u.vl).length (now + 256)
    let r := forN (upto - have_) (fun j a => streamLine cx courier i (have_ + j) a.1 a.2) (u, s)
    ({ r.1 with ahead := tset (fun _ => 0) r.1.ahead i (max have_ upto) }, r.2)

/-- Every window of a unit is filled for the strip that begins at element lo. -/
def fillWindows (cx : RdCtx) (lo : Nat) (u : VUnit) (s : State) : VUnit × State :=
  match u.courier with
  | none => (u, s)
  | some k => [1, 2, 3, 15].foldl (fun a i => fillWindow cx k i lo a.1 a.2) (u, s)

/-! ### Words of a strip -/

/-- The word of operand op that holds element k, read once per strip: a pipe reads words of rows or of its staging windows, a courier
moves whole lines (R223, R260, R711). -/
def readWord (cx : RdCtx) (u : VUnit) (op k : Nat) (r : Rd) : Option TWord × Rd :=
  let c := unitOp u op
  let off := (elemPlace c k).1
  let tile := spaceOf c == some 0
  let w := if tile then (c.desc.base.toNat + off) / 8 else off / 8
  match r.buf.find? (fun x => x.1 == bufKey op w) with
  | some x => (x.2, r)
  | none =>
    if c.remote then
      let ws := wordsOfLine ((u.got.find? (fun x => x.1 == off / 64)).map (·.2))
      (nthD none ws (w % 8), { r with buf := putLineWords op (w / 8 * 8) ws r.buf })
    else if tile then
      if pipeClass u.vop.toNat == 2 then
        let a := tsReadUp cx.p cx.mc (w / 8 * 8) 8 r.s
        let b := putLineWords op (w / 8 * 8) a.1 r.buf
        (nthD none a.1 (w % 8), ⟨a.2, b, noteRow op (w / 32) r.rows, r.spoilt || a.1.any (·.isNone)⟩)
      else
        let a := tsRead cx.p w cx.mc r.s
        (a.1, { r with s := a.2, buf := (bufKey op w, a.1) :: r.buf, rows := noteRow op (w / 32) r.rows })
    else if staged u op then
      let q := runOf c k
      if u.failed.contains (bufKey op q) then (none, { r with buf := (bufKey op w, none) :: r.buf })
      else
        let x := windowWord r.s cx.p op q + w % 8
        let a := tsRead cx.p x cx.mc r.s
        (a.1, { r with s := a.2, buf := (bufKey op w, a.1) :: r.buf, rows := noteRow op (x / 32) r.rows })
    else
      let a := segReadLine cx.ten c.desc (off / 64) 1 cx.t r.s
      let ws := wordsOfLine a.1
      (nthD none ws (w % 8), { r with s := a.2, buf := putLineWords op (w / 8 * 8) ws r.buf })

/-- Element at a bit of a word. -/
def elemOf (ety : Nat) (w : Word) (b : Nat) : Nat := w.toNat / 2 ^ b % 2 ^ eBits ety

/-- Cause of a word that fails its strip, as TV_ABORT_A codes it (R240): 1 UNCORR, 2 POISON, 3 TAG. -/
def wordCause (move : Bool) (w : Option TWord) : Option Nat :=
  match w with
  | none => some 1
  | some v =>
    if v.tag = 0 ∨ v.tag = 1 ∨ v.tag = 2 then none
    else if move then (if v.tag = 3 ∨ v.tag = 5 ∨ v.tag = 6 ∨ v.tag = 0xF then none else some 3)
    else if v.tag = 0xF then some 2 else some 3

/-- Gathering the inputs of a strip: failing words as (element, operand, cause), and the next unused element of VEXPAND. -/
structure Gat where
  r : Rd
  fails : List (Nat × Nat × Nat)
  pos : Nat

/-- Words of one row are read together, the lowest first (R59, R711): elements of a group that share a row, by word address. -/
def insElem (c : CStream) (k : Nat) : List Nat → List Nat
  | [] => [k]
  | j :: r => if (elemPlace c k).1 < (elemPlace c j).1 then k :: j :: r else j :: insElem c k r

/-- Elements of a stream in the order in which a port reads their words: rows in element order, with the elements whose words of the row are
taken, words upward. A stream that is not in the tile store is read in one. -/
def rowReads (c : CStream) (ks : List Nat) : List (Nat × List Nat) :=
  if spaceOf c != some 0 then [(0, ks)]
  else
  let row (k : Nat) : Nat := (c.desc.base.toNat + (elemPlace c k).1) / 256
  (ks.foldl (fun (a : List (Nat × List Nat)) k =>
    match a with
    | (q, l) :: r => if q = row k then (q, insElem c k l) :: r else (row k, [k]) :: a
    | [] => [(row k, [k])]) []).reverse

/-- The time of a strip on one pipe, from the types of a and d (R238). -/
def opTime (vop ta td : Nat) : Nat :=
  let byTy (t : Nat) : Nat := match t with | 0 => 16 | 3 => 16 | 1 => 8 | 4 => 8 | 2 => 4 | _ => 1
  if vop = 0x40 ∨ vop = 0x41 then 64
  else if vop = 0x0D then max (byTy ta) (byTy td)
  else byTy ta

/-- The time of a strip of a unit; a courier has no fixed time. -/
def unitTime (u : VUnit) : Nat :=
  if pipeClass u.vop.toNat = 2 then 1
  else
    let ty (ro : Role) : Nat := (unitOp u (((sigOf u.vop.toNat).findIdx? (· == ro)).getD 14)).ety.toNat
    opTime u.vop.toNat (ty .a) (ty .d)

/-- Insert in ascending order of a number; equals keep their order. -/
def insBy {α : Type} (f : α → Nat) (x : α) : List α → List α
  | [] => [x]
  | y :: r => if f x < f y then x :: y :: r else y :: insBy f x r
def sortBy {α : Type} (f : α → Nat) (l : List α) : List α := l.foldl (fun a x => insBy f x a) []

/-- Operands whose words the strip's element numbers alone name (R236): all sources but the table of VGATHER and a of VEXPAND. -/
def stripOps (u : VUnit) : List Nat :=
  let sig := sigOf u.vop.toNat
  ((List.range sig.length).filter (fun i =>
    !isDest (nthD .d sig i) && !(u.vop == 0x40 && i == 1) && !(u.vop == 0x43 && i == 1))) ++ (if u.pred then [15] else [])

/-- Row reads of operand i, evenly spread over the time of the strip (log 10): TCLK and bank as one number, operand, elements. -/
def timedReads (u : VUnit) (i : Nat) (ks : List Nat) : List (Nat × Nat × List Nat) :=
  let l := rowReads (unitOp u i) ks
  (List.range l.length).map (fun j =>
    let y := nthD (0, []) l j
    (16 * (j * unitTime u / l.length) + y.1 / 1024 % 16, i, y.2))

/-- Every row that a strip's operands name is read, those of one TCLK in ascending bank order (R59). -/
def readRows (cx : RdCtx) (u : VUnit) (lo n : Nat) (r : Rd) : Rd :=
  (sortBy (·.1) ((stripOps u).flatMap (fun i => timedReads u i ((List.range n).map (lo + ·))))).foldl
    (fun r y => y.2.2.foldl (fun r k => (readWord cx u y.2.1 k r).2) r) r

/-- Read element k of operand i; j is the element under which a failure is recorded. -/
def readElem (cx : RdCtx) (u : VUnit) (i k j : Nat) (move : Bool) (g : Gat) : (Nat × Option TWord) × Gat :=
  let c := unitOp u i
  let (w, r) := readWord cx u i k g.r
  let fails := match wordCause move w with
    | some ca => (j, i, ca) :: g.fails
    | none => g.fails
  let v := match w with
    | some x => elemOf c.ety.toNat x.data (elemPlace c k).2
    | none => 0
  ((v, w), { g with r := r, fails := fails })

/-- Index of a role in the signature. -/
def roleIdx (vop : Nat) (ro : Role) : Nat := ((sigOf vop).findIdx? (· == ro)).getD 14

/-- An element that has been read, when its word is there and passes as index, mask or predicate (R240). -/
def goodElem (cx : RdCtx) (u : VUnit) (i k : Nat) (r : Rd) : Option Nat :=
  match (readWord cx u i k r).1 with
  | none => none
  | some w => if (wordCause false (some w)).isSome then none
    else some (elemOf (unitOp u i).ety.toNat w.data (elemPlace (unitOp u i) k).2)

/-- The table elements that a strip of VGATHER reads: those of active elements whose index is good and lies in range (R217). -/
def tableElems (cx : RdCtx) (u : VUnit) (lo n : Nat) (r : Rd) : List Nat :=
  ((List.range n).map (lo + ·)).filterMap (fun k =>
    match (if u.pred && goodElem cx u 15 k r != some 1 then none else goodElem cx u 2 k r) with
    | none => none
    | some v =>
      let ix := sgn (eBits (unitOp u 2).ety.toNat) v
      if 0 ≤ ix ∧ ix < ((unitOp u 1).length : Nat) then some ix.toNat else none)

/-- The rows of a strip's operands, and then those of a table that its indices name. -/
def readStripRows (cx : RdCtx) (u : VUnit) (lo n : Nat) (r : Rd) : Rd :=
  let r1 := readRows cx u lo n r
  if u.vop = 0x40 then (rowReads (unitOp u 1) (tableElems cx u lo n r1)).foldl
    (fun r y => y.2.foldl (fun r k => (readWord cx u 1 k r).2) r) r1
  else r1

/-- Source element of a destination element of VTRANS: the transposed place in its 16 × 16 block (R222). -/
def transIdx (k : Nat) : Nat := k / 256 * 256 + k % 16 * 16 + k % 256 / 16

/-- Inputs of element k. -/
def gatherElem (cx : RdCtx) (u : VUnit) (k : Nat) (g : Gat) : EIn × Gat :=
  let vop := u.vop.toNat
  let move := isMove vop
  let (act, g) := if u.pred then (let q := readElem cx u 15 k k false g; (q.1.1 == 1, q.2)) else (true, g)
  let tagOfW (w : Option TWord) : Tag := (w.map (·.tag)).getD 0
  let one (i : Nat) (mv : Bool) (g : Gat) : (Nat × Option TWord) × Gat := readElem cx u i k k mv g
  let mk (vals : List Nat) (ws : List (Option TWord)) (bad : Bool) (g : Gat) : EIn × Gat :=
    let tags := ws.map tagOfW
    (⟨k, act, vals, tags.headD 0, move && tags.any (· == 0xF), bad⟩, g)
  if vop = 0x40 then
    let (i, g) := one 2 false g
    let ix := sgn (eBits (unitOp u 2).ety.toNat) i.1
    if act && (wordCause false i.2).isNone && decide (0 ≤ ix) && decide (ix < ((unitOp u 1).length : Nat)) then
      let (v, g) := readElem cx u 1 ix.toNat k true g
      mk [v.1, i.1] [v.2] false g
    else mk [0, i.1] [] act g
  else if vop = 0x43 then
    let (b, g) := one 2 true g
    let (m, g) := one 3 false g
    if m.1 = 1 then
      let (a, g) := readElem cx u 1 g.pos k true g
      mk [a.1] [a.2] false { g with pos := g.pos + 1 }
    else mk [b.1] [b.2] false g
  else if vop = 0x48 then
    let (b, g) := one 2 false g
    let src := k / 16 * 16 + b.1 % 16
    let (_, g) := one 1 true g
    if src < u.vl then
      let a := (readElem cx u 1 src k true g).1
      mk [a.1] [a.2] false g
    else
      let v := (Config.freeValue g.r.s.free).toNat % 2 ^ eBits (unitOp u 1).ety.toNat
      mk [v] [some ⟨0, tagOf (unitOp u 0).ety.toNat⟩] false { g with r := { g.r with s := tick g.r.s } }
  else if vop = 0x49 then
    let (a, g) := readElem cx u 1 (transIdx k) (transIdx k) true g
    mk [a.1] [a.2] false g
  else if vop = 0x47 then
    let (a, g) := one 1 false g
    let (b, g) := one 2 false g
    mk [a.1, b.1] [] false g
  else
    let srcs := (List.range (sigOf vop).length).filter (fun i => !isDest (nthD .d (sigOf vop) i))
    let q := forL srcs (fun i (acc : List Nat × List (Option TWord) × Gat) =>
      let ro := nthD .d (sigOf vop) i
      let data := move && (ro == .a || ro == .b)
      let (v, g) := one i data acc.2.2
      (acc.1 ++ [v.1], if data then acc.2.1 ++ [v.2] else acc.2.1, g)) ([], [], g)
    mk q.1 q.2.1 false q.2.2

/-- Inputs of the elements from k on. -/
def gatherAll (cx : RdCtx) (u : VUnit) : Nat → Nat → Gat → List EIn × Gat
  | _, 0, g => ([], g)
  | k, n + 1, g =>
    let a := gatherElem cx u k g
    let r := gatherAll cx u (k + 1) n a.2
    (a.1 :: r.1, r.2)

/-- The first failing word in element order, then operand order. -/
def firstFail (l : List (Nat × Nat × Nat)) : Option Nat :=
  (l.foldl (fun (a : Option (Nat × Nat × Nat)) x => match a with
    | none => some x
    | some y => if x.1 < y.1 ∨ (x.1 = y.1 ∧ x.2.1 < y.2.1) then some x else some y) none).map (·.2.2)

/-! ### Computing a strip -/

/-- The strip whose lines begin at line b of a VSTORE's destination. -/
def storeStrip (u : VUnit) (b : Nat) : Nat :=
  let d := unitOp u 0
  let z := if d.ety = 5 then 512 else 64 / eBytes d.ety.toNat
  (b - (d.offset / 64).toNat) * z / 256

/-- Tag of a moved element: its source word's for 8-byte elements and couriers, otherwise of R201 (R239). -/
def moveTag (vop dt : Nat) (t : Tag) : Tag := if eBits dt = 64 ∨ 0x80 ≤ vop then t else tagOf dt

/-- Elementwise results in pass k: computed, moved, inactive ones zero or left (R235). -/
def elemOuts (k vop sub rm dt : Nat) (ts : List Nat) (merge : Bool) : List EIn → SOut → SOut
  | [], o => o
  | e :: r, o =>
    let o1 :=
      if !e.active then (if merge then o else { o with outs := o.outs ++ [⟨e.k, 0, tagOf dt, false, 0, false⟩] })
      else if vop = 0x40 ∨ vop = 0x43 ∨ 0x48 ≤ vop then
        { o with outs := o.outs ++ [⟨e.k, movePass k (eBits dt) (nthD 0 e.vals 0), if e.idxBad then tagOf dt else moveTag vop dt e.tag, e.poison, 0,
                   e.idxBad⟩],
                 idx := o.idx || e.idxBad }
      else if vop = 0x1A then
        (let q := elemPass k vop sub rm dt ts e.vals
         { o with outs := o.outs ++ [⟨e.k, q.v, moveTag vop dt e.tag, e.poison, 0, false⟩], fb := o.fb + b2n q.fb })
      else
        let q := elemPass k vop sub rm dt ts e.vals
        { o with outs := o.outs ++ [⟨e.k, q.v, tagOf dt, false, q.fl, false⟩], fl := o.fl ||| q.fl, fb := o.fb + b2n q.fb }
    elemOuts k vop sub rm dt ts merge r o1

/-- VSCATTER: elements whose index lies in the table, in ascending k (R218). -/
def scatterOuts (k dt ilen iw : Nat) : List EIn → SOut → SOut
  | [], o => o
  | e :: r, o =>
    let ix := sgn iw (nthD 0 e.vals 1)
    let o1 := if 0 ≤ ix ∧ ix < (ilen : Nat) then
        { o with outs := o.outs ++ [⟨ix.toNat, movePass k (eBits dt) (nthD 0 e.vals 0), moveTag 0x41 dt e.tag, e.poison, 0, false⟩] }
      else { o with idx := true }
    scatterOuts k dt ilen iw r o1

/-- VCOMPRESS: the selected elements, packed (R219). -/
def compressOuts (k dt : Nat) : List EIn → SOut → SOut
  | [], o => o
  | e :: r, o =>
    compressOuts k dt r (if nthD 0 e.vals 1 = 1 then
      { o with outs := o.outs ++ [⟨o.pos, movePass k (eBits dt) (nthD 0 e.vals 0), moveTag 0x42 dt e.tag, e.poison, 0, false⟩], pos := o.pos + 1 } else o)

/-- VSCAN: the running result, inclusive or exclusive, over the active elements (R220, R235). -/
def scanOuts (k t sub rm : Nat) (merge : Bool) : List EIn → SOut → SOut
  | [], o => o
  | e :: r, o =>
    if !e.active then
      scanOuts k t sub rm merge r (if merge then o else { o with outs := o.outs ++ [⟨e.k, 0, tagOf t, false, 0, false⟩] })
    else
      let q := combine k t sub rm o.carry (nthD 0 e.vals 0)
      scanOuts k t sub rm merge r { o with
        outs := o.outs ++ [⟨e.k, if 8 ≤ sub then o.carry else q.v, tagOf t, false, q.fl, false⟩],
        carry := q.v, fl := o.fl ||| q.fl, fb := o.fb + b2n q.fb }

/-- The value of a strip under the fixed tree. -/
def treeValue (k t sub rm : Nat) (l : List Nat) : Acc :=
  let q := treeOf k t sub rm 8 (padStrip t sub l)
  ⟨q.1.headD 0, q.2.1, q.2.2⟩

/-- VRED: the strip's tree, combined with the strips before it (R221). -/
def redOut (k t sub rm : Nat) (es : List EIn) (o : SOut) : SOut :=
  let a := treeValue k t sub rm (es.map (fun e => if e.active then nthD 0 e.vals 0 else identOf t sub))
  let r : Acc := if o.pos = 0 then a else (let c := combine k t sub rm o.carry a.v; ⟨c.v, a.fl ||| c.fl, a.fb + b2n c.fb⟩)
  { o with carry := r.v, pos := o.pos + 1, fl := o.fl ||| r.fl, fb := o.fb + r.fb }

/-- Lengths of the runs of a strip that lie in one segment; a run begins at a set m bit (R221). -/
def segRuns : List EIn → List (List EIn)
  | [] => []
  | e :: r =>
    match segRuns r with
    | [] => [[e]]
    | g :: gs =>
      match g with
      | f :: _ => if nthD 0 f.vals 1 = 1 then [e] :: g :: gs else (e :: g) :: gs
      | [] => [e] :: gs

/-- One run of a segment: its tree with the other lanes at the identity; the run that opens a segment closes the one
before it, whose result is then written. `opens` is false for a run that goes on from the strip before. -/
def segRun (k t sub rm k0 : Nat) (opens : Bool) (run : List EIn) (o : SOut) : SOut :=
  let first := ((run.head?.map (·.k)).getD 0) - k0
  let a := treeValue k t sub rm (List.replicate first (identOf t sub) ++ run.map (fun e => nthD 0 e.vals 0))
  if opens then
    let o1 := if o.cnt.getD 0 = 0 then o else { o with outs := o.outs ++ [⟨o.pos, o.carry, tagOf t, false, 0, false⟩], pos := o.pos + 1 }
    { o1 with carry := a.v, cnt := some 1, fl := o1.fl ||| a.fl, fb := o1.fb + a.fb }
  else
    let c := combine k t sub rm o.carry a.v
    { o with carry := c.v, fl := o.fl ||| a.fl ||| c.fl, fb := o.fb + a.fb + b2n c.fb }

/-- VSEGRED over a strip: `cnt` tells that a segment is open. -/
def segOuts (k t sub rm k0 : Nat) : List (List EIn) → SOut → SOut
  | [], o => o
  | run :: r, o =>
    let e := run.headD default
    segOuts k t sub rm k0 r (segRun k t sub rm k0 (e.k == 0 || nthD 0 e.vals 1 == 1) run o)

/-- What enters a strip: the running result and the output position. -/
def stripEntry (u : VUnit) : SOut := ⟨[], 0, false, u.carry.toNat, u.outPos, none, 0⟩

/-- One pass of a strip on from o: `last` marks the last strip, which writes VRED's result and the counts. -/
def computeFrom (k : Nat) (u : VUnit) (k0 : Nat) (last : Bool) (es : List EIn) (o : SOut) : SOut :=
  let vop := u.vop.toNat
  let sub := u.sub.toNat
  let rm := u.rm.toNat
  let dt := (unitOp u 0).ety.toNat
  let t := (unitOp u 1).ety.toNat
  if vop = 0x41 then scatterOuts k dt (unitOp u 0).length (eBits (unitOp u 2).ety.toNat) es o
  else if vop = 0x42 then
    let r := compressOuts k dt es o
    if last then { r with cnt := some r.pos } else r
  else if vop = 0x44 then scanOuts k t sub rm u.merge es o
  else if vop = 0x45 then
    let r := redOut k t sub rm es o
    if last then { r with outs := [⟨0, r.carry, tagOf dt, false, 0, false⟩] } else r
  else if vop = 0x46 then
    let r := segOuts k t sub rm k0 (segRuns es) { o with cnt := some (if k0 = 0 then 0 else 1) }
    if last then { r with outs := r.outs ++ [⟨r.pos, r.carry, tagOf dt, false, 0, false⟩], pos := r.pos + 1, cnt := some (r.pos + 1) }
    else { r with cnt := none }
  else
    let ts := ((List.range (sigOf vop).length).filter (fun i => !isDest (nthD .d (sigOf vop) i))).map
      (fun i => (unitOp u i).ety.toNat)
    elemOuts k vop sub rm dt ts u.merge es o

/-- One pass of a whole strip. -/
def computeStrip (k : Nat) (u : VUnit) (k0 : Nat) (last : Bool) (es : List EIn) : SOut := computeFrom k u k0 last es (stripEntry u)

/-- A computation upset: the first element a pass produces, or its running result, has the bits of m inverted. -/
def upsetOut (m : Word) (w : Nat) (o : SOut) : SOut :=
  if m = 0 then o
  else match o.outs with
    | e :: r => { o with outs := { e with v := e.v ^^^ (m.toNat % 2 ^ w) } :: r }
    | [] => { o with carry := o.carry ^^^ (m.toNat % 2 ^ w) }

/-- What the comparators compare (R381). -/
def sameOut (a b : SOut) : Bool :=
  a.outs == b.outs && a.fl == b.fl && a.idx == b.idx && a.carry == b.carry && a.pos == b.pos && a.cnt == b.cnt

/-! ### Writing a strip -/

/-- Put an element's bits into a word. -/
def placeElem (ety b v : Nat) (w : Nat) : Nat :=
  let m := (2 ^ eBits ety - 1) * 2 ^ b
  (w &&& (2 ^ 64 - 1 - m)) ||| (v * 2 ^ b % 2 ^ 64 &&& m)

/-- A destination word being put together. -/
structure WOut where
  w : Nat
  data : Nat
  tag : Tag
  poison : Bool
  deriving DecidableEq, Repr, Inhabited

/-- Gather narrow elements into whole words: a word begun below its first element keeps the elements already written
there, and bits that no element fills are zero (R241). -/
def packWords (c : CStream) (cell : Nat → SWord) : List EOut → List WOut → List WOut
  | [], acc => acc
  | e :: r, acc =>
    let pl := elemPlace c e.k
    let w := (c.desc.base.toNat + pl.1) / 8
    match acc with
    | x :: xs =>
      if x.w = w then
        packWords c cell r ({ x with data := placeElem c.ety.toNat pl.2 e.v x.data, poison := x.poison || e.poison,
                                     tag := if x.tag = e.tag then x.tag else tagOf c.ety.toNat } :: xs)
      else packWords c cell r (⟨w, placeElem c.ety.toNat pl.2 e.v (old w pl.2), e.tag, e.poison || oldPoison w pl.2⟩ :: x :: xs)
    | [] => packWords c cell r [⟨w, placeElem c.ety.toNat pl.2 e.v (old w pl.2), e.tag, e.poison || oldPoison w pl.2⟩]
where
  old (w b : Nat) : Nat := if b = 0 then 0 else (cell w).data.toNat % 2 ^ b
  oldPoison (w b : Nat) : Bool := b != 0 && (cell w).tag == 0xF

/-- The word written: POISON when any source word was (R239). -/
def outWord (x : WOut) : TWord := if x.poison then poisonWord else ⟨BitVec.ofNat 64 x.data, x.tag⟩

/-- Write destination elements in a tile store. -/
def writeElems (p : Nat) (c : CStream) (outs : List EOut) (s : State) : State :=
  let st := (getP s p).store
  let ws := (packWords c st.cell outs []).reverse
  forL ws (fun x s => tsWrite p x.w (outWord x) s) s

/-- Write 8-byte elements one word each, in order. -/
def writeWide (p : Nat) (c : CStream) (outs : List EOut) (s : State) : State :=
  forL outs (fun e s => tsWrite p ((c.desc.base.toNat + (elemPlace c e.k).1) / 8) (outWord ⟨0, e.v, e.tag, e.poison⟩) s) s

/-- The word of d that element e of a VSCATTER goes to, when its index lies in the table (R218). -/
def scatterWord (u : VUnit) (e : EIn) : Option Nat :=
  let d := unitOp u 0
  let ix := sgn (eBits (unitOp u 2).ety.toNat) (nthD 0 e.vals 1)
  if 0 ≤ ix ∧ ix < (d.length : Nat) then some ((d.desc.base.toNat + (elemPlace d ix.toNat).1) / 8) else none

/-- The merge of a narrow VSCATTER: every destination word that receives an element is read through port D (R722), once; with each word
the element that needs it first. -/
def mergeReads (cx : RdCtx) (u : VUnit) : List EIn → List (Nat × Nat × Option TWord) → Rd → List (Nat × Nat × Option TWord) × Rd
  | [], ws, r => (ws, r)
  | e :: es, ws, r =>
    match scatterWord u e with
    | none => mergeReads cx u es ws r
    | some w =>
      if ws.any (fun x => x.2.1 == w) then mergeReads cx u es ws r
      else
        let a := tsRead cx.p w cx.mc r.s
        mergeReads cx u es (ws ++ [(e.k, w, a.1)]) { r with s := a.2, rows := noteRow 0 (w / 32) r.rows }

/-- Cause of a merged word that fails the strip (R722). -/
def mergeCause (w : Option TWord) : Option Nat :=
  match w with
  | none => some 1
  | some v => if v.tag = 0xF then some 2 else wordCause true w

/-- Write the merged words back whole. -/
def writeMerged (p : Nat) (c : CStream) (ws : List (Nat × Nat × Option TWord)) (outs : List EOut) (s : State) : State :=
  forL ws (fun x s =>
    let mine := outs.filter (fun e => (c.desc.base.toNat + (elemPlace c e.k).1) / 8 == x.2.1)
    let d := mine.foldl (fun a e => placeElem c.ety.toNat (elemPlace c e.k).2 e.v a) ((x.2.2.getD ⟨0, 0⟩).data.toNat)
    tsWrite p x.2.1 (outWord ⟨x.2.1, d, tagOf c.ety.toNat, mine.any (·.poison)⟩) s) s

/-! ### Bank accesses of a strip (R42 to R45, R204, R238, R721) -/

/-- The read port of an operand: sources take A, B, C in order, p the first port left; with none left, p and the merge of VSCATTER use the
write port (R721, R722). -/
def portNo (u : VUnit) (i : Nat) : Nat :=
  let sig := sigOf u.vop.toNat
  let srcs := (List.range sig.length).filter (fun i => !isDest (nthD .d sig i))
  let ports := if pipeClass u.vop.toNat = 0 then 3 else if pipeClass u.vop.toNat = 1 then 2 else 1
  let n := if i = 15 then srcs.length else (srcs.findIdx? (· == i)).getD 3
  if n < ports then n else 3

/-- The accesses of one port spread evenly over the time of the strip (DEDUCED, log 10). -/
def spread (time : Nat) (l : List BankAcc) : List (Option BankAcc) :=
  (List.range l.length).flatMap (fun i =>
    some (nthD ⟨0, 0, 0⟩ l i) :: List.replicate ((i + 1) * time / l.length - i * time / l.length - 1) none)

/-- The rows that a strip read, by port, ask for their banks: the masters' waits are counted (R44). -/
def readAccesses (cx : RdCtx) (u : VUnit) (r : Rd) : State :=
  let acc (q : Nat) : List BankAcc :=
    (r.rows.reverse.filter (fun x => portNo u x.1 == q)).map (fun x => ⟨x.2 / 1024, cx.mc, q⟩)
  (bankAccesses cx.p ((List.range 4).map (fun q => spread (unitTime u) (acc q))) r.s).2

/-- The rows of the words that a strip writes ask for their banks through the write port. -/
def writeAccesses (p mc : Nat) (u : VUnit) (ws : List Nat) (s : State) : State :=
  let rows := ws.foldl (fun a w => match a with | r :: _ => if r = w / 32 then a else w / 32 :: a | [] => [w / 32]) []
  (bankAccesses p [spread (unitTime u) (rows.reverse.map (fun r => ⟨r / 1024, mc, 3⟩))] s).2

end Sys2Proof.Machine
end

