-- ==== Sys2Proof/Machine/Vector.lean ====
section
/-! DEFINITION. The counter path of a tile: starting instructions on pipes, committing strips, reflection with its third pass,
charging and retirement, aborts, deferrable causes and pipe power (R237 to R263, R366 to R393). -/
namespace Sys2Proof.Machine

open Sys2Proof

/-! ### Pipes (R254 to R259, R366, R367) -/

/-- Header word i of a sheet (R281). -/
def sheetWord (sh : Sheet) (i : Nat) : Word := (nthD 0 sh.entries (i / 2)).extractLsb' (64 * (i % 2)) 64
def sheetAt (t : Tile) (k : Nat) : Sheet := tget (fun _ => Sheet.empty) t.sheets k

/-- Master codes that a sheet declares: pipes and couriers. -/
def sheetCodes (sh : Sheet) : List Nat :=
  let w := sheetWord sh 3
  (List.range 10).filter (fun c => w.getLsbD (6 + c)) ++ (if w.getLsbD 4 then [0xA] else []) ++ (if w.getLsbD 5 then [0xB] else [])

/-- Codes held by a round that runs, is stalled or waits to start. -/
def roundCodes (t : Tile) : List Nat :=
  match t.round with
  | some r => if r.st == 4 then [] else sheetCodes (sheetAt t r.slot)
  | none => []

/-- Codes held by started instructions. -/
def unitCodes (t : Tile) : List Nat :=
  t.units.flatMap (fun u => u.pipes ++ (match u.courier with | some c => [c] | none => []))

def retired (t : Tile) (c : Nat) : Bool := decide (c < 8) && bit (t.reg 0x30C) (24 + c) && !t.retiring.any (fun x => x.1 == c)
def pipeFree (t : Tile) (c : Nat) : Bool := !(unitCodes t).contains c && !(roundCodes t).contains c && !retired t c
def pipeAwake (t : Tile) (c : Nat) : Bool := decide (10 ≤ c) || bit (t.reg 0x30C) c

/-- next(p): the first FMA pipe above p, cyclically, that is not retired (R366). -/
def nextPipe (t : Tile) (p : Nat) : Nat :=
  (((List.range 8).map (fun i => (p + 1 + i) % 8)).find? (fun c => !retired t c)).getD p

/-- The pipe set of an instruction whose pass 0 runs on p. -/
def pipeSet (t : Tile) (cls mode p : Nat) : List Nat :=
  if cls = 2 then []
  else if cls = 1 then (if mode = 0 then [p] else [p, 17 - p])
  else if mode = 0 then [p]
  else if mode = 1 then [p, nextPipe t p]
  else [p, nextPipe t p, nextPipe t (nextPipe t p)]

/-- The pipes that third passes of disputed strips wait for: they run there ahead of instructions that have not started (R386). -/
def thirdPipes (t : Tile) : List Nat :=
  (t.units.filter (·.disputed.isSome)).map (fun u => nextPipe t (nthD 0 u.pipes 1))

/-- The pipe set an instruction takes now, if one is available (R257, R367). -/
def choosePipes (t : Tile) (cls mode : Nat) : Option (List Nat) :=
  if cls = 2 then some []
  else
    let ps := if cls = 1 then [8, 9] else List.range 8
    let sets := (ps.map (pipeSet t cls mode)).filter (fun l => l.all (fun c => pipeFree t c && !(thirdPipes t).contains c) && decide (l.Nodup))
    match sets.find? (fun l => l.all (pipeAwake t)) with
    | some l => some l
    | none => sets.head?

/-- Wake the pipes of a list that sleep (R254). -/
def wakePipes (cs : List Nat) (t : Tile) : Tile :=
  { t with waking := (cs.filter (fun c => !pipeAwake t c)).foldl addOnce t.waking }

/-! ### Flags, counters and records -/

/-- Raise sticky flags of a tile, and those newly set in its tenant's flag word (R229). -/
def raiseFlags (p : Nat) (fl : FFlags) (s : State) : State :=
  let t := getP s p
  let old := t.reg 0x308
  let new : BitVec 5 := fl &&& ~~~ (old.setWidth 5)
  let s1 := updP s p (fun t => t.updReg 0x308 (fun v => v ||| fl.setWidth 32))
  if new = 0 then s1
  else match t.owner with
    | some (n, _) => updTen s1 n (fun x => { x with fpflags := x.fpflags ||| new })
    | none => s1

def tvSet (p b : Nat) (s : State) : State := updP s p (fun t => t.updReg 0x300 (fun v => setBit v b))

/-- Drop the remote requests of a vector instruction; their replies are discarded. -/
def dropUnitReqs (t : Nat) (id : BitVec 4) (s : State) : State :=
  { s with reqs := s.reqs.filter (fun q => match q.kind with
      | .unitRead u i => !(u == t && i == id)
      | .unitWrite u i => !(u == t && i == id)
      | _ => true) }

/-- An FMA-pipe instruction with a source in HBM uses the staging area (R259, R260). -/
def usesStaging (u : VUnit) : Bool :=
  pipeClass u.vop.toNat == 0 && (((u.ops.drop 1) ++ (match u.pst with | some c => [c] | none => [])).any (fun c => spaceOf c == some 1))

/-- The contents of the staging area are not defined (R261): each of its 8,192 words is a free value. -/
def freeStaging (p : Nat) (s : State) : State :=
  let base := fld ((getP s p).reg 0x314) 21 16 * 8192
  let k := s.free
  forN 8192 (fun i s => tsWrite p (base + i) (Config.stagingWord (k + i)) s) { s with free := k + 8192 }

/-- A unit leaves VPEND. -/
def removeUnit (t : Nat) (u : VUnit) (s : State) : State :=
  let p := physOf s t
  let s1 := updP s p (fun tl => { tl with
    units := tl.units.filter (fun v => v.id != u.id), retiring := tl.retiring.filter (fun x => x.2 != u.id.toNat) })
  let s2 := dropUnitReqs t u.id s1
  if usesStaging u && u.started then freeStaging p s2 else s2

/-- A pending asynchronous fault of a tile's engine (R249). -/
def pendAsync (t : Nat) (a : Async) (s : State) : State := updEng s (.tile t) (fun x => { x with pending := x.pending ++ [a] })

/-- Write the abort record when none is held, and mark it (R250). -/
def recordAbort (p : Nat) (a b : BitVec 32) (inPlace : Bool) (s : State) : State :=
  let held := bit ((getP s p).reg 0x300) 3
  let s1 := if held then s else updP s p (fun t => (t.setReg 0x318 a).setReg 0x31C b)
  let s2 := tvSet p 3 s1
  if inPlace then tvSet p 4 s2 else s2

/-- The first uncommitted strip of an instruction: a strip of a remote VSTORE has committed when its lines are acknowledged (R225, R238). -/
def openStrip (s : State) (t : Nat) (u : VUnit) : Nat :=
  (s.reqs.filter (fun q => q.kind == .unitWrite t u.id)).foldl (fun a q => min a (storeStrip u q.base)) u.strip

/-- Abort a vector instruction at its first uncommitted strip (R249, R250, R252). -/
def abortUnit (t : Nat) (u : VUnit) (cause pipe : Nat) (s : State) : State :=
  let p := physOf s t
  let elem := 256 * openStrip s t u
  let a := BitVec.ofNat 32 (2 ^ 31 + u.id.toNat * 2 ^ 27 + u.cls.toNat * 2 ^ 24 + cause * 2 ^ 20 + elem)
  let b := BitVec.ofNat 32 (u.vop.toNat * 2 ^ 8 + pipe * 2 ^ 4)
  let s1 := recordAbort p a b (u.cls != 0) s
  let s2 := if (getEng s (.tile t)).resume then
      updP s1 p (fun tl => tl.setReg (0x340 + 4 * u.id.toNat) (BitVec.ofNat 32 elem)) else s1
  let f : Word := u.id.setWidth 64
  pendAsync t (if cause = 4 then .reflect f else .vector f) (removeUnit t u s2)

/-- The master code on which a unit's strips run: its pass-0 pipe, or its courier. -/
def unitCode (u : VUnit) : Nat := u.pipes.headD (u.courier.getD 0)

/-! ### Charging and retirement (R390 to R393) -/

/-- A charge window closes and its count returns to 0. -/
def closeWindow (c : Nat) (t : Tile) : Tile :=
  { (((t.setReg (0x520 + 4 * c) 0).updReg 0x508 (fun v => setFld v (2 * c + 1) (2 * c) 0))) with closing := dropAll t.closing c }

/-- Charge FMA pipe c, the odd pass of a strip (R390 to R392). -/
def chargePipe (p c odd : Nat) (round : Bool) (unit strip mode : Nat) (s : State) : State :=
  let t0 := getP s p
  let t := if t0.closing.contains c then closeWindow c t0 else t0
  if bit (t.reg (0x520 + 4 * c)) 20 then
    let n := fld (t.reg 0x508) (2 * c + 1) (2 * c) + 1
    if n < 3 then setP s p (t.updReg 0x508 (fun v => setFld v (2 * c + 1) (2 * c) n))
    else
      let t1 := retirePipe (closeWindow c t) c
      let s1 := setP s p { t1 with retiring := t1.retiring ++ [(c, if round then 16 else unit)] }
      let s2 := raiseChute (144 + p / 17) (tfLog p 5 c mode odd round unit strip (tfSet p 3 s1))
      match t.owner with
      | some (n, i) => unsolicited (.vf n) 0x0604 (BitVec.ofNat 64 (i + c * 2 ^ 8)) s2
      | none => s2
  else
    setP s p ((t.setReg (0x520 + 4 * c) (BitVec.ofNat 32 (2 ^ 20))).updReg 0x508 (fun v => setFld v (2 * c + 1) (2 * c) 1))

/-- A strip that an FMA pipe runs adds 1 to STRIPS of its open window; at 2^20 the window is about to close (R390). -/
def countStrip (c : Nat) (t : Tile) : Tile :=
  if 8 ≤ c then t
  else
    let r := t.reg (0x520 + 4 * c)
    if !bit r 20 then t
    else if fld r 19 0 = 2 ^ 20 - 1 then { t with closing := addOnce t.closing c }
    else t.setReg (0x520 + 4 * c) (r + 1)

def countMismatch (p : Nat) (s : State) : State := updP s p (fun t => t.updReg 0x50C (fun v => setFld v 31 16 ((fld v 31 16 + 1) % 65536)))
def countRecompute (p : Nat) (s : State) : State := updP s p (fun t => t.updReg 0x50C (fun v => setFld v 15 0 ((fld v 15 0 + 1) % 65536)))
def countFallback (p n : Nat) (s : State) : State := updP s p (fun t => t.updReg 0x510 (fun v => v + BitVec.ofNat 32 n))

/-- A strip was resolved by majority: the odd pass's FMA pipe is charged and the event logged (R384, R386). -/
def correctedStrip (p kind pipe odd mode : Nat) (round : Bool) (unit strip : Nat) (s : State) : State :=
  let s1 := tfLog p kind pipe mode odd round unit strip (tfSet p 1 s)
  if pipe < 8 then chargePipe p pipe odd round unit strip mode s1 else s1

/-- A strip has no majority: its record (R388). -/
def noMajority (p pipe mode : Nat) (round : Bool) (unit strip : Nat) (s : State) : State :=
  tfLog p 4 pipe mode 3 round unit strip (tfSet p 2 s)

/-! ### Starting (R211, R257 to R259) -/

/-- The lines of elements lo to n − 1 of a remote source, as ascending runs of lines (first line, number), in element order. -/
def lineRuns (c : CStream) (lo n : Nat) : List (Nat × Nat) :=
  ((List.range (n - lo)).foldl (fun (a : List (Nat × Nat)) i =>
    let l := (elemPlace c (lo + i)).1 / 64
    match a with
    | (b, m) :: r => if b ≤ l ∧ l < b + m then a else if l = b + m then (b, m + 1) :: r else (l, 1) :: a
    | [] => [(l, 1)]) []).reverse

/-- A byte of a span as a letter carries it: 64 bits, so that one below the segment lies above every LIMIT (R225). -/
def spanByte (b : Int) : Nat := (b % 2 ^ 64).toNat

/-- Ask for the lines of a remote VLOAD from its first strip on (R253); a request that cannot leave refuses the instruction (R225, R526). -/
def askLines (t ten : Nat) (u : VUnit) (s : State) : State :=
  let c := unitOp u 1
  let sp := spanOf c.offset c.stride c.ety.toNat u.vl false
  let r := forL (lineRuns c (256 * u.strip) u.vl) (fun x (a : State × Option Nat) =>
    match a.2 with
    | some _ => a
    | none => sendReads (some t) c.device.toNat ten (.unitRead t u.id) c.seg (spanByte sp.1) (spanByte sp.2) 17 x.1 x.2 a.1) (s, none)
  if r.2.isSome then
    updTile r.1 t (fun tl => { tl with units := tl.units.map (fun v => if v.id == u.id then { v with refused := true } else v) })
  else r.1

/-- An instruction of VL 0: the identity or the count that R211 lists, and completion. -/
def runEmpty (t : Nat) (u : VUnit) (s : State) : State :=
  let p := physOf s t
  let vop := u.vop.toNat
  let wr (c : CStream) (v : Nat) (s : State) : State :=
    let w := (c.desc.base.toNat + (elemPlace c 0).1) / 8
    tsWrite p w ⟨BitVec.ofNat 64 v, tagOf c.ety.toNat⟩ (bankAccesses p [[some ⟨bankOf w, 12, 3⟩]] s).2
  let s1 := if vop = 0x45 then wr (unitOp u 0) (identOf (unitOp u 1).ety.toNat u.sub.toNat) s
    else if vop = 0x42 ∨ vop = 0x46 then wr (unitOp u 3) 0 s
    else s
  let s2 := removeUnit t u s1
  if (getEng s (.tile t)).resume then updP s2 p (fun tl => tl.setReg (0x340 + 4 * u.id.toNat) 0) else s2

def putUnit (t : Nat) (u : VUnit) (s : State) : State :=
  updTile s t (fun tl => { tl with units := tl.units.map (fun v => if v.id == u.id then u else v) })

/-- VECTOR_START: the earliest accepted instruction that has not started takes its pipes and courier port and starts; when
none is available it waits (R258). -/
def execVectorStart (t : Nat) (s : State) : Host.Outcome State Fault Refusal :=
  onTile t s (fun s =>
    let tl := getTile s t
    match (if bit (tl.reg 0x004) 0 then none else tl.units.find? (fun u => !u.started && !u.parked)) with
    | none => s
    | some u =>
      if u.vl = 0 then runEmpty t u s
      else
        let cls := pipeClass u.vop.toNat
        let needK := cls == 2 || usesStaging u
        let k := [0xA, 0xB].find? (pipeFree tl)
        match choosePipes tl cls u.mode.toNat with
        | none => s
        | some ps =>
          if needK && k.isNone then s
          else
            let ident := BitVec.ofNat 64 (identOf (unitOp u 1).ety.toNat u.sub.toNat)
            let u1 := { u with started := true, pipes := ps, courier := if needK then k else none, carry := ident, outPos := 0 }
            let s1 := updTile (putUnit t u1 (updTile s t beginWork)) t (wakePipes ps)
            if u.vop = 0x80 && (unitOp u 1).remote then askLines t ((tl.owner.map (·.1)).getD 0) u1 s1 else s1)

/-! ### Committing a strip -/

/-- Words of a strip as whole HBM lines: line number, data and tags. -/
def linesOf (ws : List WOut) : List (Nat × BitVec 512 × BitVec 32) :=
  let ls := ws.foldl (fun a x => addOnce a (x.w / 8)) []
  ls.map (fun l =>
    let at_ (i : Nat) : TWord := ((ws.find? (fun x => x.w == 8 * l + i)).map outWord).getD ⟨0, 0⟩
    let t8 := (List.range 8).map at_
    (l, lineData t8, lineTags t8))

/-- Write what a strip commits. A VSTORE's lines go to HBM, or leave as WRITEs whose acknowledgement the instruction then
awaits; a refusal at the source ends it. -/
def writeStrip (t : Nat) (u : VUnit) (o : SOut) (merged : List (Nat × Nat × Option TWord)) (s : State) : State :=
  let p := physOf s t
  let d := unitOp u 0
  let ten := (getTile s t).owner.map (·.1)
  if u.vop = 0x81 then
    let d0 := { d with desc := { d.desc with base := 0 } }
    let ls := linesOf (packWords d0 (fun _ => SWord.unwritten) o.outs []).reverse
    if d.remote then
      let sp := spanOf d.offset d.stride d.ety.toNat u.vl false
      match ls with
      | [] => s
      | (b, _) :: _ =>
        let r := sendWrites (some t) d.device.toNat (ten.getD 0) (.unitWrite t u.id) d.seg (spanByte sp.1) (spanByte sp.2) (ls.length + 1) b
          (ls.map (·.2)) s
        updTile r.1 t (fun tl => { tl with units := tl.units.map (fun v => if v.id == u.id then
          { v with remoteLeft := v.remoteLeft + ls.length, refused := v.refused || r.2.isSome } else v) })
    else forL ls (fun x s => segWriteLine ten d.desc x.1 t x.2 s) s
  else
    let ws := o.outs.map (fun e => (d.desc.base.toNat + (elemPlace d e.k).1) / 8)
    let s0 := writeAccesses p (unitCode u) u ws s
    let s1 := if eBits d.ety.toNat = 64 then writeWide p d o.outs s0
      else if u.vop = 0x41 then writeMerged p d merged o.outs s0
      else writeElems p d o.outs s0
    match o.cnt with
    | some c =>
      let n := unitOp u 3
      let w := (n.desc.base.toNat + (elemPlace n 0).1) / 8
      tsWrite p w ⟨BitVec.ofNat 64 c, 1⟩ (writeAccesses p (unitCode u) u [w] s1)
    | none => s1

/-- Elements that STRIP_COMMIT of strip j moves. A VSTORE of MASK elements commits with the line that its half-line strips share: two
strips at once (R224, R238, log 58). -/
def stripRange (u : VUnit) : Nat × Nat :=
  let j := u.strip
  if u.vop = 0x81 ∧ (unitOp u 0).ety = 5 then (let lo := 256 * (j - j % 2); (lo, min u.vl (lo + 512) - lo))
  else (256 * j, min u.vl (256 * (j + 1)) - 256 * j)

/-- The strip after those of a commit. -/
def nextStrip (u : VUnit) : Nat := if u.vop = 0x81 ∧ (unitOp u 0).ety = 5 then u.strip - u.strip % 2 + 2 else u.strip + 1

/-- The line of a courier's source that holds the last element moved stays with it for the next strip (R223). -/
def keepLines (u : VUnit) (b : List (Nat × Option TWord)) : Tbl (Option SWord) :=
  if pipeClass u.vop.toNat = 2 then
    let c := unitOp u 1
    let rg := stripRange u
    let off := (elemPlace c (rg.1 + rg.2 - 1)).1
    let w := if spaceOf c == some 0 then (c.desc.base.toNat + off) / 8 else off / 8
    (b.filter (fun x => x.1 / 8 == bufKey 1 w / 8)).map (fun x => (x.1, keepCell x.2))
  else []

/-- What follows a commit: the next strip, or completion (R262). -/
def afterCommit (t : Nat) (id : BitVec 4) (o : SOut) (buf : List (Nat × Option TWord)) (s : State) : State :=
  match unitOf (getTile s t) id with
  | none => s
  | some u =>
    let u1 := { u with
      strip := if u.refused then u.strip else nextStrip u, carry := BitVec.ofNat 64 o.carry, outPos := o.pos, disputed := none,
      buf := keepLines u buf }
    if u.vl ≤ 256 * u1.strip ∧ u.remoteLeft = 0 ∧ !u.refused then
      let s1 := removeUnit t u1 s
      if (getEng s (.tile t)).resume then updTile s1 t (fun tl => tl.setReg (0x340 + 4 * id.toNat) 0) else s1
    else putUnit t u1 s

/-- Commit an agreed result: its data, flags and IDX, then what follows. -/
def commitOut (t : Nat) (u : VUnit) (o : SOut) (merged : List (Nat × Nat × Option TWord)) (buf : List (Nat × Option TWord)) (s : State) : State :=
  let p := physOf s t
  let s1 := raiseFlags p o.fl (writeStrip t u o merged s)
  let s2 := if o.idx then tvSet p 2 s1 else s1
  afterCommit t u.id o buf s2

/-- The inputs of a strip: its elements, the words that a narrow VSCATTER merges, the cause of the first failing word, the next unused
element of VEXPAND, and the read state. -/
structure StripIn where
  es : List EIn
  merged : List (Nat × Nat × Option TWord)
  cause : Option Nat
  pos : Nat
  r : Rd

/-- Inputs from words read or captured: the elements in order, then the merge reads, and the first failing word in element order
(R240, R722); after those, an uncorrectable word of a courier's line that no element uses (R711). -/
def gatherStrip (cx : RdCtx) (u : VUnit) (r : Rd) : StripIn :=
  let rg := stripRange u
  let g := gatherAll cx u rg.1 rg.2 ⟨r, [], u.outPos⟩
  let line : Option Nat := if g.2.r.spoilt then some 1 else none
  if u.vop = 0x41 ∧ eBits (unitOp u 0).ety.toNat < 64 then
    let m := mergeReads cx u (g.1.filter (fun e => !g.2.fails.any (fun f => f.1 == e.k))) [] g.2.r
    let fs := m.1.filterMap (fun x => (mergeCause x.2.2).map (fun c => (x.1, 0, c)))
    ⟨g.1, m.1, firstFail (g.2.fails ++ fs), g.2.pos, m.2⟩
  else ⟨g.1, [], (firstFail g.2.fails).or line, g.2.pos, g.2.r⟩

/-- Who reads for a unit. -/
def unitCtx (t : Nat) (u : VUnit) (s : State) : RdCtx := ⟨t, physOf s t, unitCode u, (getTile s t).owner.map (·.1)⟩

/-- The words that a unit's strip buffer holds. -/
def heldWords (u : VUnit) : List (Nat × Option TWord) := u.buf.map (fun x => (x.1, keptWord x.2))

/-- The next strip of a unit is read: its staging windows are filled, its rows are read, and their accesses ask for the banks. -/
def stripInputs (t : Nat) (u0 : VUnit) (s0 : State) : VUnit × StripIn :=
  let cx := unitCtx t u0 s0
  let rg := stripRange u0
  let f := fillWindows cx rg.1 u0 s0
  let u := f.1
  let i := gatherStrip cx u (readStripRows cx u rg.1 rg.2 ⟨putUnit t u f.2, heldWords u, [], false⟩)
  (u, { i with r := { i.r with s := readAccesses cx u i.r } })

/-- The inputs of a disputed strip, from the strip buffer (R371, R372). -/
def heldInputs (t : Nat) (u : VUnit) (s : State) : StripIn := gatherStrip (unitCtx t u s) u ⟨s, heldWords u, [], false⟩

/-- The result of pass k of a strip. VEXPAND's next position comes with its inputs. -/
def passOut (k : Nat) (u : VUnit) (up : Word) (es : List EIn) : SOut :=
  let lo := (stripRange u).1
  let last := decide (u.vl ≤ 256 * nextStrip u)
  let o := computeStrip k u lo last es
  upsetOut up (eBits (unitOp u 0).ety.toNat) o

/-- Position of VEXPAND after a strip: one more for each set bit of m. -/
def expandPos (u : VUnit) (r : Nat) (o : SOut) : SOut := if u.vop = 0x43 then { o with pos := r } else o

/-- STRIP_COMMIT with its inputs read: compare the passes and commit, dispute or abort (R363, R381 to R388). An uncorrectable error in the
strip buffer of a reflected strip fails it with cause UNCORR (R372), and comparators that disagree leave it without a majority (R382). -/
def resolveStrip (t : Nat) (u : VUnit) (ups : Upset) (i : StripIn) : State :=
  let s := i.r.s
  let es := i.es
  let merged := i.merged
  let buf := i.r.buf
  let pos := i.pos
  let p := physOf s t
  let o0 := expandPos u pos (passOut 0 u ups.pass0 es)
  let mode := u.mode.toNat
  let s := updP s p (fun tl => u.pipes.foldl (fun a c => countStrip c a) tl)
  if mode = 0 then commitOut t u o0 merged buf s
  else if ups.buf then abortUnit t u 1 (unitCode u) s
  else if ups.cmp then abortUnit t u 4 (unitCode u) (noMajority p (unitCode u) mode false u.id.toNat u.strip (countMismatch p s))
  else
    let o1 := expandPos u pos (passOut 1 u ups.pass1 es)
    let id := u.id.toNat
    if mode = 1 then
      let s := countFallback p o1.fb s
      if sameOut o0 o1 then commitOut t u o0 merged buf s
      else
        let s := countMismatch p s
        if pipeClass u.vop.toNat = 1 then
          abortUnit t u 4 (unitCode u) (noMajority p (unitCode u) mode false id u.strip s)
        else putUnit t { u with disputed := some (ups.pass0, ups.pass1), buf := buf.map (fun x => (x.1, keepCell x.2)) } s
    else
      let o2 := expandPos u pos (passOut 2 u ups.pass2 es)
      let s := countFallback p (o1.fb + o2.fb) s
      if sameOut o0 o1 && sameOut o0 o2 then commitOut t u o0 merged buf s
      else
        let s := countMismatch p s
        let pipe (k : Nat) : Nat := nthD 0 u.pipes k
        if sameOut o0 o1 then commitOut t u o0 merged buf (correctedStrip p 2 (pipe 2) 2 mode false id u.strip s)
        else if sameOut o0 o2 then commitOut t u o0 merged buf (correctedStrip p 2 (pipe 1) 1 mode false id u.strip s)
        else if sameOut o1 o2 then commitOut t u o1 merged buf (correctedStrip p 2 (pipe 0) 0 mode false id u.strip s)
        else abortUnit t u 4 (unitCode u) (noMajority p (unitCode u) mode false id u.strip s)

/-- The lines of a remote source that the next strip needs have arrived. -/
def arrived (u : VUnit) : Bool :=
  let c := unitOp u 1
  !c.remote || (let rg := stripRange u
    (List.range rg.2).all (fun i => u.got.any (fun x => x.1 == (elemPlace c (rg.1 + i)).1 / 64)))

/-- STRIP_COMMIT: the next strip of a started instruction whose pipes are awake reads its sources, is computed and commits;
a failing word or a remote refusal aborts the instruction (R237, R249). -/
def execStripCommit (t : Nat) (id : BitVec 4) (ups : Upset) (s : State) : Host.Outcome State Fault Refusal :=
  onTile t s (fun s =>
    let tl := getTile s t
    match unitOf tl id with
    | none => s
    | some u =>
      if !u.started || u.parked || u.disputed.isSome || u.pipes.any tl.waking.contains then s
      else if u.refused then abortUnit t u 5 (unitCode u) s
      else if u.vl ≤ 256 * u.strip || !arrived u then s
      else
        let x := stripInputs t u s
        match x.2.cause with
        | some c => abortUnit t x.1 c (unitCode u) x.2.r.s
        | none => resolveStrip t x.1 ups x.2)

/-- THIRD_PASS: the disputed strip of a PAIR instruction is computed on next(next(p)) once that pipe is free and awake, and
the majority of the three commits (R386, R388). `w` is an upset of that pass. -/
def execThirdPass (t : Nat) (id : BitVec 4) (w : Word) (s : State) : Host.Outcome State Fault Refusal :=
  onTile t s (fun s =>
    let tl := getTile s t
    match unitOf tl id with
    | none => s
    | some u =>
      match u.disputed with
      | none => s
      | some (m0, m1) =>
        let q := nextPipe tl (nthD 0 u.pipes 1)
        if !pipeFree tl q && !u.pipes.contains q then s
        else if !pipeAwake tl q then updTile s t (wakePipes [q])
        else
          let p := physOf s t
          let i := heldInputs t u s
          match i.cause with
          | some c => abortUnit t u c (unitCode u) i.r.s
          | none =>
            let s1 := updP (countRecompute p i.r.s) p (countStrip q)
            let o0 := expandPos u i.pos (passOut 0 u m0 i.es)
            let o1 := expandPos u i.pos (passOut 1 u m1 i.es)
            let o2 := expandPos u i.pos (passOut 2 u w i.es)
            let s2 := countFallback p o2.fb s1
            let idn := id.toNat
            if sameOut o0 o2 then
              commitOut t u o0 i.merged i.r.buf (correctedStrip p 3 (nthD 0 u.pipes 1) 1 1 false idn u.strip s2)
            else if sameOut o1 o2 then
              commitOut t u o1 i.merged i.r.buf (correctedStrip p 3 (nthD 0 u.pipes 0) 0 1 false idn u.strip s2)
            else abortUnit t u 4 (unitCode u) (noMajority p (unitCode u) 1 false idn u.strip s2))

/-- CHARGE_WINDOW_CLOSE: the window whose STRIPS has reached 2^20 closes (R390). -/
def execChargeWindowClose (t pipe : Nat) (s : State) : Host.Outcome State Fault Refusal :=
  onUnit (decide (t < nTiles s) && decide (pipe < 8)) s (fun s =>
    updTile s t (fun tl => if tl.closing.contains pipe then closeWindow pipe tl else tl))

/-- PIPE_WAKE_DONE: a waking pipe is awake (R254). -/
def execPipeWakeDone (t pipe : Nat) (s : State) : Host.Outcome State Fault Refusal :=
  onUnit (decide (t < nTiles s) && decide (pipe < 10)) s (fun s =>
    updTile s t (fun tl =>
      if tl.waking.contains pipe then { (tl.updReg 0x30C (fun v => setBit v pipe)) with waking := dropAll tl.waking pipe } else tl))

/-- PIPE_SLEEP: an awake pipe that nothing uses goes to sleep (R255, R256). -/
def execPipeSleep (t pipe : Nat) (s : State) : Host.Outcome State Fault Refusal :=
  onUnit (decide (t < nTiles s) && decide (pipe < 10)) s (fun s =>
    updTile s t (fun tl =>
      if (unitCodes tl).contains pipe || (roundCodes tl).contains pipe then tl else tl.updReg 0x30C (fun v => clrBit v pipe)))

end Sys2Proof.Machine
end

