-- ==== Sys2Proof/Machine/Sheet.lean ====
section
/-! DEFINITION. Round sheets: the image layout (R281 to R284), the thirteen checks of RLOAD (R300, R301), and the load itself. -/
namespace Sys2Proof.Machine

open Sys2Proof

/-! ### The image -/

/-- Bits hi to lo of an entry. -/
def ent (e : BitVec 128) (hi lo : Nat) : Nat := e.toNat / 2 ^ lo % 2 ^ (hi - lo + 1)

/-- A round stream: its STREAM entry with the STEP that completes it. -/
structure RStream where
  at_ : Nat
  idx : Nat
  seg : BitVec 12
  ty : Nat
  remote : Bool
  device : Nat
  offset : Nat
  len : Nat
  stride : Int
  adv : Int
  ring : Nat
  deriving DecidableEq, Repr

structure ROp where
  at_ : Nat
  idx : Nat
  vop : Nat
  md : BitVec 12
  pipe : Nat
  mode : Nat
  refs : List Nat
  pred : Nat
  strips : Nat
  deriving DecidableEq, Repr

structure RStart where
  at_ : Nat
  t : Nat
  lag : Nat
  op : Nat
  strip : Nat
  deriving DecidableEq, Repr

structure RAcc where
  at_ : Nat
  t : Nat
  lag : Nat
  bank : Nat
  mc : Nat
  port : Nat
  stream : Nat
  interval : Nat
  count : Nat
  deriving DecidableEq, Repr

structure RRelay where
  at_ : Nat
  t : Nat
  tend : Nat
  latch : Nat
  src : Nat
  dst : Nat
  port : Nat
  deriving DecidableEq, Repr

structure RSlot where
  at_ : Nat
  srel : Nat
  lag : Nat
  cour : Nat
  out : Bool
  hst : Nat
  tst : Nat
  line : Nat
  count : Nat
  deriving DecidableEq, Repr

structure RPost where
  at_ : Nat
  token : Nat
  rst : Nat
  tst : Nat
  lines : Nat
  cour : Nat
  deriving DecidableEq, Repr

/-- A sheet taken apart. -/
structure SheetV where
  entries : Nat
  period : Nat
  phase : Nat
  maxIter : Nat
  lead : Nat
  hbm : Bool
  inplace : Bool
  owners : Word
  banks : Nat
  latches : Nat
  tokens : Nat
  pipes : Nat
  couriers : Nat
  streams : List RStream
  ops : List ROp
  starts : List RStart
  accs : List RAcc
  relays : List RRelay
  slots : List RSlot
  posts : List RPost
  /-- entry and TOKENS of the WAIT entry -/
  waits : List (Nat × Nat)
  deriving DecidableEq, Repr

def kindOf (e : BitVec 128) : Nat := ent e 127 124
def idxOf (e : BitVec 128) : Nat := ent e 123 118

/-- Body entries with their entry indices. -/
def bodyOf (es : List (BitVec 128)) : List (Nat × BitVec 128) := (List.range (es.length - 4)).map (fun i => (4 + i, nthD 0 es (4 + i)))

def parseStream (b : List (Nat × BitVec 128)) (p : Nat × BitVec 128) : RStream :=
  let e := p.2
  let st := ((b.find? (fun q => kindOf q.2 == 2 && idxOf q.2 == idxOf e)).map (·.2)).getD 0
  { at_ := p.1, idx := idxOf e, seg := BitVec.ofNat 12 (ent e 117 106), ty := ent e 105 103, remote := e.getLsbD 102,
    device := ent e 101 88, offset := ent e 87 48, len := ent e 47 31, stride := sgn 32 (ent st 117 86),
    adv := sgn 32 (ent st 85 54), ring := ent st 53 38 }

def parseOp (p : Nat × BitVec 128) : ROp :=
  let e := p.2
  { at_ := p.1, idx := idxOf e, vop := ent e 117 110, md := BitVec.ofNat 12 (ent e 109 98), pipe := ent e 97 94,
    mode := ent e 93 92, refs := [ent e 91 85, ent e 84 78, ent e 77 71, ent e 70 64], pred := ent e 63 57, strips := ent e 56 49 }

def parseStart (p : Nat × BitVec 128) : RStart := ⟨p.1, ent p.2 123 108, ent p.2 107 106, ent p.2 105 100, ent p.2 99 92⟩
def parseAcc (p : Nat × BitVec 128) : RAcc :=
  let e := p.2
  ⟨p.1, ent e 123 108, ent e 107 106, ent e 105 102, ent e 101 98, ent e 97 96, ent e 95 90, ent e 89 86, ent e 85 78⟩
def parseRelay (p : Nat × BitVec 128) : RRelay :=
  let e := p.2
  ⟨p.1, ent e 123 108, ent e 105 90, ent e 89 86, ent e 85 82, ent e 81 78, ent e 77 76⟩
def parseSlot (p : Nat × BitVec 128) : RSlot :=
  let e := p.2
  ⟨p.1, ent e 123 110, ent e 109 108, ent e 107 107, e.getLsbD 106, ent e 105 100, ent e 99 94, ent e 93 78, ent e 77 68⟩
def parsePost (p : Nat × BitVec 128) : RPost :=
  let e := p.2
  ⟨p.1, ent e 123 120, ent e 119 114, ent e 113 108, ent e 107 92, ent e 91 91⟩

/-- The sheet that a list of entries spells. -/
def parseSheet (es : List (BitVec 128)) : SheetV :=
  let hw (i : Nat) : Word := (nthD 0 es (i / 2)).extractLsb' (64 * (i % 2)) 64
  let b := bodyOf es
  let of (k : Nat) : List (Nat × BitVec 128) := b.filter (fun p => kindOf p.2 == k)
  { entries := wfld (hw 0) 47 32, period := wfld (hw 0) 31 16 + 1, phase := wfld (hw 0) 15 4, maxIter := wfld (hw 1) 63 32,
    lead := wfld (hw 1) 10 8, hbm := (hw 1).getLsbD 2, inplace := (hw 1).getLsbD 1, owners := hw 2, banks := wfld (hw 3) 63 48,
    latches := wfld (hw 3) 47 32, tokens := wfld (hw 3) 31 16, pipes := wfld (hw 3) 15 6, couriers := wfld (hw 3) 5 4,
    streams := (of 1).map (parseStream b), ops := (of 3).map parseOp, starts := (of 4).map parseStart, accs := (of 5).map parseAcc,
    relays := (of 6).map parseRelay, slots := (of 7).map parseSlot, posts := (of 8).map parsePost,
    waits := (of 9).map (fun p => (p.1, ent p.2 123 108)) }

def lagMax (v : SheetV) : Nat :=
  max ((v.starts.map (·.lag)).foldl max 0) (max ((v.accs.map (·.lag)).foldl max 0) ((v.slots.map (·.lag)).foldl max 0))
/-- Copies of a post box (R295). -/
def copiesOf (v : SheetV) : Nat := v.lead + lagMax v + 1

def noStream : RStream := ⟨0, 0, 0, 0, false, 0, 0, 0, 0, 0, 0⟩
def streamOf (v : SheetV) (x : Nat) : RStream := (v.streams.find? (fun r => r.idx == x)).getD noStream
def noOp : ROp := ⟨0, 0, 0, 0, 0, 0, [], 0x7F, 0⟩
def opOf (v : SheetV) (x : Nat) : ROp := (v.ops.find? (fun o => o.idx == x)).getD noOp

/-! ### Streams of a round (R284, R285) -/

/-- Bits between element addresses of a type: a MASK element takes one bit. -/
def stepBits (ty : Nat) : Nat := eBits ty
/-- Iteration index of a stream: i mod RING (R284). -/
def ringOf (x : RStream) (i : Nat) : Nat := if x.ring = 0 then i else i % x.ring
/-- Segment byte offset, times 8, of element e of a stream. -/
def bitAt (x : RStream) (e : Int) : Int :=
  if x.ty = 5 then (x.offset : Int) * 8 + e else ((x.offset : Int) + e * x.stride * (eBits x.ty / 8 : Nat)) * 8
/-- Segment byte offset of iteration block i. -/
def blockAt (x : RStream) (i : Nat) : Int := bitAt x ((ringOf x i : Nat) * x.adv) / 8
/-- Lines of an iteration block. -/
def blockLines (x : RStream) : Nat := cdiv (x.len * stepBits x.ty) 512
/-- Iterations over which a stream moves (step 8 of R300). -/
def itersOf (v : SheetV) (x : RStream) : Nat := if x.ring = 0 then v.maxIter else min v.maxIter x.ring

/-- Byte span of a stream over its iterations; that of a narrow destination in the tile store is widened to whole words (R204). -/
def roundSpan (v : SheetV) (x : RStream) (wide : Bool) : Int × Int :=
  let last : Int := ((itersOf v x : Int) - 1) * x.adv
  let es : List Int := [0, (x.len : Int) - 1, last, last + x.len - 1]
  let bs := es.map (bitAt x)
  let lo := bs.foldl min (bs.headD 0)
  let hi := bs.foldl max (bs.headD 0)
  let top := hi / 8 + (eBits x.ty / 8 : Nat) - 1
  if x.ty = 5 then (lo / 64 * 8, hi / 64 * 8 + 7)
  else if wide && decide (eBits x.ty < 64) then (lo / 64 * 8, top / 8 * 8 + 7)
  else (lo / 8, top)

/-! ### Step 1: form (R281 to R283) -/

def declKind (k : Nat) : Bool := k == 1 || k == 2 || k == 3 || k == 8 || k == 9
def timedKind (k : Nat) : Bool := decide (4 ≤ k) && decide (k ≤ 7)
def groupOf (k : Nat) : Nat := if declKind k then 0 else if timedKind k then 1 else 2
def timeOf (e : BitVec 128) : Nat := if kindOf e = 7 then 4 * ent e 123 110 else ent e 123 108
/-- Low n bits of an entry are zero. -/
def lowZero (e : BitVec 128) (n : Nat) : Bool := e.toNat % 2 ^ n == 0
def refOk (r : Nat) : Bool := decide (r < 0x50) || r == 0x7F

/-- Reserved fields and values of an entry by its kind. -/
def fieldsOk (last : Bool) (e : BitVec 128) : Bool :=
  match kindOf e with
  | 0x1 => decide (ent e 105 103 < 6) && (e.getLsbD 102 || ent e 101 88 == 0) && decide (1 ≤ ent e 47 31) &&
      decide (ent e 47 31 ≤ 65536) && lowZero e 31
  | 0x2 => lowZero e 38
  | 0x3 =>
    let o := parseOp (0, e)
    decide (o.vop < 0x80) && !vIllegal o.vop o.md && decide (o.pipe < 10) && decide (o.mode < 3) && o.refs.all refOk &&
      (o.pred == 0x7F || (refOk o.pred && modPred o.md)) && decide (1 ≤ o.strips) && lowZero e 49
  | 0x4 => lowZero e 92
  | 0x5 =>
    let a := parseAcc (0, e)
    decide (a.mc < 10) && !(a.port == 2 && decide (8 ≤ a.mc)) && decide (1 ≤ a.interval) && decide (1 ≤ a.count) && lowZero e 78
  | 0x6 =>
    let r := parseRelay (0, e)
    decide (r.src < 10) && decide (r.dst < 10) && decide (r.port < 3) && !(r.port == 2 && decide (8 ≤ r.dst)) && lowZero e 76
  | 0x7 => decide (1 ≤ ent e 77 68) && lowZero e 68
  | 0x8 => decide (1 ≤ ent e 107 92) && lowZero e 91
  | 0x9 => lowZero e 108
  | 0xF => last && lowZero e 124
  | _ => false

/-- References of an entry: round streams and operations, all declared. -/
def refsOk (v : SheetV) (e : BitVec 128) (b : List (Nat × BitVec 128)) : Bool :=
  let hasS (x : Nat) : Bool := v.streams.any (fun r => r.idx == x)
  let has (k : Nat) : Bool := b.any (fun q => kindOf q.2 == k && idxOf q.2 == idxOf e)
  match kindOf e with
  | 0x1 => has 2
  | 0x2 => has 1
  | 0x3 => let o := parseOp (0, e); (o.pred :: o.refs).all (fun r => decide (0x40 ≤ r) || hasS r)
  | 0x4 => let s := parseStart (0, e); v.ops.any (fun o => o.idx == s.op) && decide (s.strip < (opOf v s.op).strips)
  | 0x5 => hasS (parseAcc (0, e)).stream
  | 0x7 => hasS (parseSlot (0, e)).hst && hasS (parseSlot (0, e)).tst
  | 0x8 => hasS (parsePost (0, e)).rst && hasS (parsePost (0, e)).tst
  | _ => true

/-- The header's own fields. -/
def headerOk (es : List (BitVec 128)) : Bool :=
  let hw (i : Nat) : Word := (nthD 0 es (i / 2)).extractLsb' (64 * (i % 2)) 64
  wfld (hw 0) 63 56 == 1 && wfld (hw 0) 55 48 == 0 && decide (1 ≤ wfld (hw 0) 47 32) && decide (wfld (hw 0) 47 32 ≤ 2048) &&
  decide (15 ≤ wfld (hw 0) 31 16) && wfld (hw 0) 3 0 == 0 && decide (1 ≤ wfld (hw 1) 63 32) && wfld (hw 1) 31 11 == 0 &&
  wfld (hw 1) 7 3 == 0 && !(hw 1).getLsbD 0 && (List.range 16).all (fun b => !badOwner (wfld (hw 2) (4 * b + 3) (4 * b))) &&
  wfld (hw 3) 3 0 == 0 && hw 4 == 0 && hw 5 == 0 && hw 6 == 0 && hw 7 == 0

/-- An entry that breaks step 1, judged with the entry before it and the earlier ones. -/
def entryBad (v : SheetV) (b : List (Nat × BitVec 128)) (p : Nat × BitVec 128) : Bool :=
  let e := p.2
  let k := kindOf e
  let last := p.1 == v.entries + 3
  let before := (b.find? (fun q => q.1 + 1 == p.1)).map (·.2)
  let dup := (k == 1 || k == 2 || k == 3 || k == 9) &&
    b.any (fun q => decide (q.1 < p.1) && kindOf q.2 == k && (k == 9 || idxOf q.2 == idxOf e))
  let order := match before with
    | some q => decide (groupOf (kindOf q) ≤ groupOf k) && (!(timedKind (kindOf q) && timedKind k) || decide (timeOf q ≤ timeOf e))
    | none => true
  !fieldsOk last e || (last && k != 0xF) || dup || !order || !refsOk v e b

/-- First entry that breaks step 1. -/
def formStep (es : List (BitVec 128)) (v : SheetV) : Option Nat :=
  if !headerOk es then some 0 else (let b := bodyOf es; (b.find? (entryBad v b)).map (·.1))

/-! ### Steps 3 and 4 -/

def periodStep (v : SheetV) : Option Nat :=
  let p := v.period
  if v.hbm && !(((isPow2 p && decide (p ≤ 4096)) || p % 4096 == 0) && v.phase % 4 == 0) then some 0
  else
    let bad := (v.starts.filter (fun x => decide (p ≤ x.t))).map (·.at_) ++ (v.accs.filter (fun x => decide (p ≤ x.t))).map (·.at_) ++
      (v.relays.filter (fun x => decide (p ≤ x.t) || decide (p ≤ x.tend))).map (·.at_) ++
      (v.slots.filter (fun x => decide (p ≤ 4 * x.srel))).map (·.at_)
    bad.foldl (fun a i => match a with | some j => some (min i j) | none => some i) none

/-- Descriptor of a round stream in a tenant's table. -/
def rDesc (s : State) (n : Nat) (x : RStream) : Desc := tenDesc s n x.seg.toNat

/-- Pipes of every pass of an operation (R366, R369). -/
def passPipes (o : ROp) : List Nat :=
  if o.mode = 0 then [o.pipe]
  else if 8 ≤ o.pipe then [o.pipe, 17 - o.pipe]
  else if o.mode = 1 then [o.pipe, (o.pipe + 1) % 8] else [o.pipe, (o.pipe + 1) % 8, (o.pipe + 2) % 8]

def maskOfList (l : List Nat) : Nat := l.foldl (fun a b => a ||| 2 ^ b) 0

/-- First and last byte address in the tile store of lines LINE to LINE + n − 1 of iteration block i. -/
def linesAt (d : Desc) (x : RStream) (i line n : Nat) : Int × Int :=
  let a := (d.base.toNat : Int) + blockAt x i + 64 * (line : Int)
  (a, a + 64 * (n : Int) - 1)
/-- Rows that a range of bytes covers: the first row and their number. -/
def rowsIn (r : Int × Int) : Nat × Nat := ((r.1 / 256).toNat, ((r.2 / 256) - (r.1 / 256) + 1).toNat)

/-- Some c + i * d with i < n lies in lo to hi - 1. -/
def hitsRange (c d : Int) (n : Nat) (lo hi : Int) : Bool :=
  let i : Int := if 0 < d then max 0 (-((c - lo) / d)) else if d < 0 then max 0 ((c - hi) / (-d) + 1) else 0
  decide (i < (n : Int)) && decide (lo ≤ c + i * d) && decide (c + i * d < hi)

/-- The iterations of a run in four classes, by iteration modulo 4: in each a block begins at one place of a row, because blocks begin on
multiples of 64. First byte, bytes from one iteration of the class to the next, iterations, rows of the run. -/
def runClasses (s : State) (n : Nat) (v : SheetV) (x : RSlot) : List (Int × Int × Nat × Nat) :=
  let t := streamOf v x.tst
  let d := rDesc s n t
  let m := itersOf v t
  (List.range 4).filterMap (fun j =>
    if j < m then
      (let r := linesAt d t j x.line x.count
       some (r.1, 4 * (blockAt t 1 - blockAt t 0), cdiv (m - j) 4, (rowsIn r).2))
    else none)

/-- The tile-store accesses of a run over all iterations, class by class: rows of the run, row, bank. -/
def runUses (s : State) (n : Nat) (v : SheetV) (x : RSlot) : List (List (Nat × Nat × Nat)) :=
  if !grants (rDesc s n (streamOf v x.tst)) then []
  else (runClasses s n v x).map (fun c => (List.range c.2.2.2).flatMap (fun (k : Nat) =>
    ((List.range 16).filter (fun (q : Nat) =>
      hitsRange (c.1 / 256 * 256 + 256 * (k : Nat)) c.2.1 c.2.2.1 (2 ^ 18 * (q : Nat)) (2 ^ 18 * ((q + 1 : Nat))))).map
        (fun q => (c.2.2.2, k, q))))

/-- Uses of the classes together: what an earlier class uses already is not listed again. -/
def joinUses {α : Type} [BEq α] (l : List (List α)) : List α := l.foldl (fun a u => a ++ u.filter (fun y => !a.contains y)) []

/-- Banks of a post box over its copies. -/
def postBanks (s : State) (n : Nat) (v : SheetV) (x : RPost) : List Nat :=
  let t := streamOf v x.tst
  let d := rDesc s n t
  let r := linesAt d t 0 0 (copiesOf v * x.lines)
  if !grants d then [] else (List.range 16).filter (fun q => decide (r.1 / 2 ^ 18 ≤ (q : Int)) && decide ((q : Int) ≤ r.2 / 2 ^ 18))

/-- Masters that access each bank: (bank, code). -/
def bankUsers (s : State) (n : Nat) (v : SheetV) : List (Nat × Nat) :=
  v.accs.map (fun a => (a.bank, a.mc)) ++
  v.slots.flatMap (fun x => (runUses s n v x).flatten.map (fun y => (y.2.2, 0xA + x.cour))) ++
  v.posts.flatMap (fun x => (postBanks s n v x).map (fun b => (b, 0xA + x.cour)))

/-- Step 4: the header says what the body uses. -/
def headerStep (s : State) (n : Nat) (v : SheetV) : Option Nat :=
  let us := bankUsers s n v
  let lat := (v.ops.flatMap (fun o => (o.pred :: o.refs).filter (fun r => decide (0x40 ≤ r) && decide (r < 0x50)))).map (· - 0x40) ++
    v.relays.map (·.latch)
  let pip := v.ops.flatMap passPipes ++ v.accs.map (·.mc) ++ v.relays.flatMap (fun r => [r.src, r.dst])
  let cou := v.slots.map (·.cour) ++ v.posts.map (·.cour)
  let ownOk := (List.range 16).all (fun b =>
    let o := wfld v.owners (4 * b + 3) (4 * b)
    let m := us.filter (fun u => u.1 == b)
    if m.isEmpty then o == 0xF else m.any (fun u => u.2 == o))
  if ownOk && v.banks == maskOfList (us.map (·.1)) && v.latches == maskOfList lat && v.tokens == maskOfList (v.posts.map (·.token)) &&
      v.pipes == maskOfList pip && v.couriers == maskOfList cou && (v.hbm == !v.slots.isEmpty) then none else some 0

/-! ### Step 5: operations -/

/-- Index of a role in an operation's signature. -/
def refFor (o : ROp) (r : Role) : Nat := nthD 0x7F o.refs (((sigOf o.vop).findIdx? (· == r)).getD 9)

/-- Type of an operand; a latch takes the first type that its producer can write (R213, R290). -/
def refTy (v : SheetV) : Nat → Nat → Nat
  | _, 0 => 7
  | r, fuel + 1 =>
    if r < 0x40 then (streamOf v r).ty
    else if r < 0x50 then
      match v.ops.find? (fun o => refFor o .d == r) with
      | none => 7
      | some o => ((List.range 6).find? (fun ty =>
          typesOk o.vop (modSub o.md) (fun ro => if ro == .d || refFor o ro == r then ty else refTy v (refFor o ro) fuel))).getD 7
    else 7

def opTys (v : SheetV) (o : ROp) (r : Role) : Nat := refTy v (refFor o r) 17

/-- An operand of a round operation as the form rules see it. -/
def refIOp (s : State) (n : Nat) (v : SheetV) (o : ROp) (role : Option Role) (r : Nat) : IOp :=
  let x := streamOf v r
  let vl := 256 * o.strips
  if r < 0x40 then
    ⟨role, 0, ⟨x.seg, x.offset, x.stride, x.remote, BitVec.ofNat 14 x.device, BitVec.ofNat 3 x.ty, vl, rDesc s n x⟩⟩
  else ⟨role, 0, ⟨0, 0, 1, false, 0, BitVec.ofNat 3 (refTy v r 17), vl, Desc.empty⟩⟩

/-- All operands of a round operation. -/
def refIOps (s : State) (n : Nat) (v : SheetV) (o : ROp) : List IOp :=
  (List.range (sigOf o.vop).length).map (fun i => refIOp s n v o (some (nthD .d (sigOf o.vop) i)) (nthD 0x7F o.refs i)) ++
  (if o.pred = 0x7F then [] else [refIOp s n v o none o.pred])

/-- Step 5 for one operation. -/
def opBad (s : State) (t n : Nat) (v : SheetV) (o : ROp) : Bool :=
  let k := (sigOf o.vop).length
  let full := (List.range 4).all (fun i => (nthD 0x7F o.refs i != 0x7F) == decide (i < k)) && (modPred o.md == (o.pred != 0x7F))
  let cls := pipeClass o.vop == (if 8 ≤ o.pipe then 1 else 0)
  let ios := refIOps s n v o
  let lens := (o.pred :: o.refs).all (fun r => decide (0x40 ≤ r) || decide (256 * o.strips ≤ (streamOf v r).len))
  !full || !cls || (decide (0x40 ≤ o.pred) && o.pred != 0x7F) || !lens ||
    (formFault (getTile s t) o.vop o.md (256 * o.strips) (ios.map (fun i => { i with word := 1 }))).isSome

/-! ### Steps 6 to 9 -/

/-- What the body needs of stream x: read right, write right, HBM, tile store. -/
structure Needs where
  r : Bool
  w : Bool
  hbm : Bool
  tile : Bool

/-- An operation writes stream x. -/
def dstOf (v : SheetV) (x : Nat) : Bool :=
  v.ops.any (fun o => (List.range 4).any (fun i => nthD 0x7F o.refs i == x && isDest (nthD .a (sigOf o.vop) i)))

def needsOf (v : SheetV) (x : Nat) : Needs :=
  let src := v.ops.any (fun o => (o.pred == x) || (List.range 4).any (fun i => nthD 0x7F o.refs i == x && !isDest (nthD .a (sigOf o.vop) i)))
  let dst := dstOf v x
  let hin := v.slots.any (fun y => y.hst == x && !y.out)
  let hout := v.slots.any (fun y => y.hst == x && y.out)
  let tin := v.slots.any (fun y => y.tst == x && !y.out) || v.posts.any (fun y => y.tst == x)
  let tout := v.slots.any (fun y => y.tst == x && y.out)
  ⟨src || hin || tout, dst || hout || tin, hin || hout, src || dst || tin || tout⟩

/-- R285 for a stream that a courier moves by lines. -/
def lineForm (x : RStream) : Bool :=
  x.stride == 1 && x.offset % 64 == 0 && (x.adv * (stepBits x.ty : Nat)) % 512 == 0

/-- Step 8 for one stream. -/
def streamBad (s : State) (t n : Nat) (v : SheetV) (x : RStream) : Bool :=
  let nd := needsOf v x.idx
  let byLines := v.slots.any (fun y => y.hst == x.idx || y.tst == x.idx) || v.posts.any (fun y => y.rst == x.idx || y.tst == x.idx)
  if byLines && !lineForm x then true
  else if x.remote then false
  else
    let d := rDesc s n x
    let box := v.posts.foldl (fun a y => if y.tst == x.idx then max a (copiesOf v * y.lines) else a) 0
    let sp0 := roundSpan v x (dstOf v x.idx && d.space == 0)
    let b := blockAt x 0
    let sp := if 0 < box then (min sp0.1 b, max sp0.2 (b + 64 * (box : Int) - 1)) else sp0
    !grants d || (nd.r && !d.r) || (nd.w && !d.w) || (nd.hbm && d.space != 1) || (nd.tile && d.space != 0) ||
    decide (sp.1 < 0) || decide ((d.limit.toNat : Int) < sp.2) ||
    (d.space == 0 && (firstOutside (getTile s t) (d.base.toNat + sp.1.toNat) (sp.2 - sp.1 + 1).toNat).isSome)

/-- A run or a fetch that passes the end of an iteration block, or a post box whose stream is not remote. -/
def runBad (v : SheetV) (x : RSlot) : Bool :=
  decide (blockLines (streamOf v x.hst) < x.line + x.count) || decide (blockLines (streamOf v x.tst) < x.line + x.count)
def postBad (v : SheetV) (x : RPost) : Bool := decide (blockLines (streamOf v x.rst) < x.lines) || !(streamOf v x.rst).remote

/-- Allocatable index of slot position p, when p is allocatable (R271). -/
def allocIdx (p : Nat) : Option Nat :=
  if p % 16 = 15 ∨ p % 64 = 7 ∨ p % 64 = 39 then none
  else some (p - (p + 1) / 16 - (p + 57) / 64 - (p + 25) / 64)

/-- Positions that a SLOT entry uses (R301). -/
def slotPositions (v : SheetV) (x : RSlot) : List Nat :=
  let b := v.phase / 4 + x.srel
  if v.period ≤ 4096 then (List.range (4096 / v.period)).map (fun j => (b + v.period / 4 * j) % 1024) else [b % 1024]

/-- The plan that a sheet is judged against (R301, R717). -/
def planFor (s : State) : Plan := match s.nextPlan with | some p => p.1 | none => s.plan

/-- Tenant to which position p of die d is scheduled. -/
def planTenant (pl : Plan) (d p : Nat) : Option Nat :=
  match allocIdx p with
  | none => none
  | some a => tget (fun _ => none) pl.sched (1024 * d + a)

/-- Step 9 for one SLOT entry. -/
def slotBad (s : State) (n : Nat) (v : SheetV) (x : RSlot) : Bool :=
  let h := streamOf v x.hst
  let d := rDesc s n h
  let dies := if d.global then List.range 8 else [d.homedie.toNat]
  h.remote || (slotPositions v x).any (fun p => dies.any (fun k => planTenant (planFor s) k p != some n))

/-! ### Steps 10 to 13 -/

/-- Delay of the implied tile-store access of row 0 from the slot, for a run of r rows (R292). -/
def impliedAt (s : State) (t n : Nat) (v : SheetV) (x : RSlot) (r : Nat) : Int :=
  let d := rDesc s n (streamOf v x.hst)
  let near := !d.global && d.homedie.toNat == physOf s t / 17
  if x.out then (if near then -16 - (r : Int) else -40 - (r : Int)) else (if near then 40 else 64)

/-- Times modulo P of the grants of an ACCESS entry. -/
def accTimes (v : SheetV) (a : RAcc) : List Nat := (List.range a.count).map (fun i => (a.t + a.interval * i) % v.period)
/-- Time modulo P of the implied access to row k of a run that has r rows. -/
def runTime (s : State) (t n : Nat) (v : SheetV) (x : RSlot) (r k : Nat) : Nat :=
  ((4 * (x.srel : Int) + impliedAt s t n v x r + (k : Nat)) % (v.period : Int)).toNat
/-- Bank accesses of a run: bank, time modulo P. -/
def runTimes (s : State) (t n : Nat) (v : SheetV) (x : RSlot) : List (Nat × Nat) :=
  joinUses ((runUses s n v x).map (fun l => l.map (fun y => (y.2.2, runTime s t n v x y.1 y.2.1))))
/-- Times modulo P in which a run holds its courier's port to the store. -/
def runPortTimes (s : State) (t n : Nat) (v : SheetV) (x : RSlot) : List Nat :=
  joinUses ((runClasses s n v x).map (fun c => (List.range c.2.2.2).map (fun k => runTime s t n v x c.2.2.2 k)))

/-- Bank accesses of every entry: entry, bank, time. -/
def bankUses (s : State) (t n : Nat) (v : SheetV) : List (Nat × Nat × Nat) :=
  v.accs.flatMap (fun a => (accTimes v a).map (fun u => (a.at_, a.bank, u))) ++
  v.slots.flatMap (fun x => (runTimes s t n v x).map (fun y => (x.at_, y.1, y.2)))

/-- The later entries of clashing uses. -/
def clashes {α : Type} (clash : α → α → Bool) : List (Nat × α) → List Nat
  | [] => []
  | (i, a) :: r => (r.filter (fun q => clash a q.2)).map (fun q => max i q.1) ++ clashes clash r

def leastOf (l : List Nat) : Option Nat := l.foldl (fun a i => match a with | some j => some (min i j) | none => some i) none

def bankStep (s : State) (t n : Nat) (v : SheetV) : Option Nat :=
  leastOf (clashes (fun a b => a == b) (bankUses s t n v))

/-- Strip time of an operation on its pipe (R238). -/
def stripTime (v : SheetV) (o : ROp) : Nat := opTime o.vop (opTys v o .a) (opTys v o .d)

/-- A use of a resource of step 11: kind (0 bank port, 1 pipe, 2 courier slot, 3 relay port), unit, first time, length. -/
structure PUse where
  kind : Nat
  unit : Nat
  t : Nat
  n : Nat
  deriving DecidableEq, Repr

def portUses (s : State) (t n : Nat) (v : SheetV) : List (Nat × PUse) :=
  v.accs.flatMap (fun a => (accTimes v a).map (fun u => (a.at_, ⟨0, a.mc * 4 + a.port, u, 1⟩))) ++
  v.slots.flatMap (fun x => (runPortTimes s t n v x).map (fun u => (x.at_, ⟨0, (0xA + x.cour) * 4, u, 1⟩))) ++
  v.relays.map (fun r => (r.at_, ⟨3, r.dst * 4 + r.port, r.t, (r.tend + v.period - r.t) % v.period + 1⟩)) ++
  v.starts.flatMap (fun x =>
    let o := opOf v x.op
    let ps := passPipes o
    (List.range ps.length).map (fun k => (x.at_, ⟨1, nthD 0 ps k, (x.t + k) % v.period, stripTime v o⟩))) ++
  v.slots.map (fun x => (x.at_, ⟨2, x.cour, 4 * x.srel, 1⟩))

/-- Two stretches of time meet modulo P. -/
def meet (p t1 n1 t2 n2 : Nat) : Bool := decide ((t2 + p - t1) % p < n1) || decide ((t1 + p - t2) % p < n2)

def portStep (s : State) (t n : Nat) (v : SheetV) : Option Nat :=
  let us := portUses s t n v
  let own := (us.filter (fun u => u.2.kind == 1 && decide (v.period < u.2.n))).map (·.1)
  let c (a b : PUse) : Bool :=
    a.unit == b.unit && meet v.period a.t a.n b.t b.n &&
    ((a.kind == b.kind && a.kind != 3) || (a.kind == 0 && b.kind == 3) || (a.kind == 3 && b.kind == 0))
  leastOf (own ++ clashes c us)

def relayStep (v : SheetV) : Option Nat :=
  let bk (r : RRelay) : Nat := (r.tend + v.period - r.t) % v.period + 1
  leastOf (clashes (fun (a b : RRelay) => a.latch == b.latch && meet v.period a.t (bk a) b.t (bk b)) (v.relays.map (fun r => (r.at_, r))))

def tokenStep (v : SheetV) : Option Nat :=
  if v.posts.isEmpty && v.lead != 0 then some 0
  else
    let toks := maskOfList (v.posts.map (·.token))
    leastOf ((v.waits.filter (fun w => w.2 &&& toks != w.2)).map (·.1) ++
      clashes (fun (a b : RPost) => a.token == b.token) (v.posts.map (fun x => (x.at_, x))))

/-- Entries held by loaded sheets. -/
def entriesUsed (t : Tile) : Nat := (List.range 8).foldl (fun a k => let sh := sheetAt t k; if sh.loaded then a + (sh.entries.length - 4) else a) 0
/-- The first free sheet slot. -/
def freeSlot (t : Tile) : Option Nat := (List.range 8).find? (fun k => !(sheetAt t k).loaded)

/-- The checks of R300 in order: the status and index of the first that fails; `full` when no slot is free for the sheet. -/
def sheetCheck (s : State) (t n : Nat) (full : Bool) (es : List (BitVec 128)) : Option (Nat × Nat) :=
  let v := parseSheet es
  let tl := getTile s t
  let or_ (code : Nat) (o : Option Nat) (k : Option (Nat × Nat)) : Option (Nat × Nat) := match o with | some i => some (code, i) | none => k
  or_ 0x0301 (formStep es v)
    (or_ 0x0302 (if full || decide (2048 < entriesUsed tl + v.entries) then some 0 else none)
    (or_ 0x0303 (periodStep v)
    (or_ 0x0304 (headerStep s n v)
    (or_ 0x0305 (leastOf ((v.ops.filter (opBad s t n v)).map (·.at_)))
    (or_ 0x0306 (if (List.range 8).any (fun c => v.pipes.testBit c && bit (tl.reg 0x30C) (24 + c)) then some 0 else none)
    (or_ 0x0307 (if v.banks &&& (tl.reg 0x008).toNat % 65536 == v.banks then none else some 0)
    (or_ 0x0308 (leastOf ((v.streams.filter (streamBad s t n v)).map (·.at_) ++ (v.slots.filter (runBad v)).map (·.at_) ++
        (v.posts.filter (postBad v)).map (·.at_)))
    (or_ 0x0309 (leastOf ((v.slots.filter (slotBad s n v)).map (·.at_)))
    (or_ 0x030A (bankStep s t n v)
    (or_ 0x030B (portStep s t n v)
    (or_ 0x030C (relayStep v)
    (or_ 0x030D (tokenStep v) none))))))))))))

/-! ### RLOAD (R131, R303) -/

/-- Load a sheet that passed: its slot, with the generation advanced, and its pipes begin to wake. -/
def placeSheet (t k : Nat) (es : List (BitVec 128)) (s : State) : State :=
  updTile s t (fun tl =>
    let sh : Sheet := ⟨true, (sheetAt tl k).gen + 1, es⟩
    wakePipes ((sheetCodes sh).filter (· < 10)) { tl with sheets := tset (fun _ => Sheet.empty) tl.sheets k sh })

/-- The SHEET word of a slot. -/
def sheetHandle (t : Tile) (k : Nat) : Word := BitVec.ofNat 64 ((sheetAt t k).gen.toNat * 256 + k)

/-- Validate a sheet for tile t and load it: the SHEET word, or the status and entry index (R300). -/
def loadSheet (t : Nat) (es : List (BitVec 128)) (s : State) : State × (Word ⊕ (Nat × Nat)) :=
  let tl := getTile s t
  let n := (tl.owner.map (·.1)).getD 0
  match sheetCheck s t n (freeSlot tl).isNone es with
  | some e => (s, .inr e)
  | none =>
    let k := (freeSlot tl).getD 0
    let s1 := placeSheet t k es s
    (s1, .inl (sheetHandle (getTile s1 t) k))

/-- Read n aligned words of a checked tile-store segment through the Ndoat port. -/
def readWords (c : WCtx) (d : Desc) (seg : BitVec 12) (off : Nat) : Nat → NM (List Word)
  | 0 => return []
  | n + 1 => do
    let a ← readAt c d seg 1 off
    if a.tag == 0xF then uncorrFault c seg.toNat 1 off
    let r ← readWords c d seg (off + 8) n
    return a.data :: r

/-- Read n 16-byte entries at a byte offset. DESIGN CHOICE (log 58): no rule aligns a sheet's ADDR, so its entries may lie at any byte. -/
def readEntries (c : WCtx) (d : Desc) (seg : BitVec 12) (off n : Nat) : NM (List (BitVec 128)) := do
  let sh := off % 8
  let ws ← readWords c d seg (off - sh) (2 * n + (if sh = 0 then 0 else 1))
  return (List.range n).map (fun i => BitVec.ofNat 128
    (((wordAt ws (2 * i + 2)).toNat * 2 ^ 128 + (wordAt ws (2 * i + 1)).toNat * 2 ^ 64 + (wordAt ws (2 * i)).toNat) / 2 ^ (8 * sh)))

/-- The outcome of a load on an engine. DEDUCED (log 13): a postmaster has no sheet memory, so that a sheet of correct form finds no free
slot there. -/
def loadOn (e : EngineId) (es : List (BitVec 128)) (s : State) : State × (Word ⊕ (Nat × Nat)) :=
  match e with
  | .tile t => loadSheet t es s
  | _ => (s, .inr (match formStep es (parseSheet es) with | some i => (0x0301, i) | none => (0x0302, 0)))

/-- RLOAD: copies the sheet whose ADDR is at T and validates it (R131, R165, R300 to R303). -/
def execRload (e : EngineId) (s : State) : Host.Outcome State Fault Refusal :=
  runLong e (wspec 0x4B 0 1 1 1 1) (fun c => do
    let a ← needTag c 0 3 2
    modify (drainAll c.e)
    let seg := codeSeg a.data
    let off := codeOff a.data
    let d ← accessCheck c 1 (fun d => d.sheet) false seg off 64
    let hd ← readEntries c d seg off 4
    let n := ent (nthD 0 hd 0) 47 32
    let body ← if 1 ≤ n ∧ n ≤ 2048 then (do
        let _ ← accessCheck c 1 (fun d => d.sheet) false seg off (64 + 16 * n)
        readEntries c d seg (off + 64) n) else pure []
    addCyc c (5 + cdiv n 16)
    let r ← modifyGet (fun s => let q := loadOn c.e (hd ++ body) s; (q.2, q.1))
    popD c 1
    match r with
    | .inl w =>
      pushD c ⟨w, 6⟩
      setFlags c { FlagUpd.none with v := some false }
    | .inr (code, i) =>
      pushD c ⟨BitVec.ofNat 64 (i * 65536 + code), 1⟩
      setFlags c { FlagUpd.none with v := some true }
    return .seq) s

end Sys2Proof.Machine
end

