-- ==== Sys2Proof/Machine/Replay.lean ====
section
/-! DEFINITION. The replay of a window of a round TCLK by TCLK: grants, row registers, strips in all their passes, relay latches and
shadows, row writes, commits and courier runs (R286 to R294, R304, R368 to R391). -/
namespace Sys2Proof.Machine

open Sys2Proof

/-- What the replay of one window needs: logical and physical tile, tenant, sheet, iterations, window, and the computation
upsets that strips meet. -/
structure RX where
  t : Nat
  p : Nat
  n : Nat
  v : SheetV
  iters : Nat
  w : Nat
  ups : List (Nat × Nat × Upset)

/-- The machine and the round's replay state. -/
abbrev RS := State × Replay

/-- Iteration on which an entry of lag l acts in window w, when it acts (R280). -/
def iterAt (x : RX) (w l : Nat) : Option Nat := if l ≤ w ∧ w - l < x.iters then some (w - l) else none

def tsCell (x : RX) (s : State) (w : Nat) : TWord := (checkWord ((getP s x.p).store.cell w)).2

/-! ### Elements of round streams -/

/-- Word index in the tile store and lowest bit of element e of iteration block i (R284). -/
def rPlace (x : RX) (s : State) (r i e : Nat) : Nat × Nat :=
  let st := streamOf x.v r
  let b := bitAt st ((ringOf st i : Nat) * st.adv + (e : Nat)) + 8 * ((rDesc s x.n st).base.toNat : Int)
  ((b / 64).toNat, (b % 64).toNat)

def latchKey (r k : Nat) : Nat := 256 * (r - 0x40) + k % 256
/-- A relay latch element as pass k sees it: the latch, or the pass's shadow (R373). -/
def latchAt (t : Tile) (pass key : Nat) : Word :=
  tget (fun _ => 0) (if pass = 0 then t.latches else if pass = 1 then t.shadows1 else t.shadows2) key
/-- Pass k writes its copy of a latch element. -/
def putLatch (pass key : Nat) (v : Word) (t : Tile) : Tile :=
  if pass = 0 then { t with latches := tset (fun _ => 0) t.latches key v }
  else if pass = 1 then { t with shadows1 := tset (fun _ => 0) t.shadows1 key v }
  else { t with shadows2 := tset (fun _ => 0) t.shadows2 key v }
/-- A read-port row register, by 8 × master + 2 × port + row mod 2 (R287): zero RAW words until a row has reached it (log 2). -/
def emptyRow (_ : Nat) : List (Option TWord) := List.replicate 32 (some ⟨0, 0⟩)
def rEty (x : RX) (r : Nat) : Nat := refTy x.v r 17

/-- Reference of operand i of an operation; 15 is the predicate. -/
def refAt (o : ROp) (i : Nat) : Nat := if i = 15 then o.pred else nthD 0x7F o.refs i

/-- What element k of the iteration of an operand holds now, without an access: a look-ahead at indices and masks. -/
def peekElem (x : RX) (q : RS) (o : ROp) (i it k : Nat) : Nat :=
  let r := refAt o i
  if r < 0x40 then (let pl := rPlace x q.1 r it k; elemOf (rEty x r) (tsCell x q.1 pl.1).data pl.2)
  else (latchAt (getP q.1 x.p) 0 (latchKey r k)).toNat % 2 ^ eBits (rEty x r)

/-- Running result and output position that enter a strip (R379). -/
def carryIn (x : RX) (q : Replay) (o : ROp) (it strip : Nat) : Word × Nat :=
  let id : Word := BitVec.ofNat 64 (identOf (opTys x.v o .a) (modSub o.md))
  if strip = 0 then (id, 0) else tget (fun _ => (0, 0)) q.carries (64 * it + o.idx)

def roleAt (o : ROp) (i : Nat) : Role := nthD .d (sigOf o.vop) i

/-- The element of operand i that destination element k (of the iteration) needs, when it needs one (R217 to R222). -/
def needElem (x : RX) (q : RS) (o : ROp) (i it k pos : Nat) : Option Nat :=
  let ix (j : Nat) : Option Nat :=
    let v := sgn (eBits (rEty x (refAt o j))) (peekElem x q o j it k)
    let l := (streamOf x.v (refAt o i)).len
    if 0 ≤ v ∧ v < (l : Nat) then some v.toNat else none
  if i = 15 then some k
  else if o.vop = 0x40 ∧ i = 1 then (if modPred o.md && peekElem x q o 15 it k != 1 then none else ix 2)
  else if o.vop = 0x41 ∧ i = 0 then ix 2
  else if o.vop = 0x49 ∧ i = 1 then some (transIdx k)
  else if o.vop = 0x43 ∧ i = 1 then
    (if peekElem x q o 3 it k = 1 then
      some (pos + ((List.range (k % 256)).filter (fun j => peekElem x q o 3 it (k / 256 * 256 + j) == 1)).length)
     else none)
  else some k

/-- Rows of the tile store that a strip needs of an operand, numbered in the order in which it first needs them (R286). -/
def stripRows (x : RX) (q : RS) (o : ROp) (i it strip pos : Nat) : List Nat :=
  (List.range 256).foldl (fun a k =>
    match needElem x q o i it (256 * strip + k) pos with
    | some e => addOnce a ((rPlace x q.1 (refAt o i) it e).1 / 32)
    | none => a) []

/-- Source operands of an operation, in order. -/
def sourcesOf (o : ROp) : List Nat := (List.range (sigOf o.vop).length).filter (fun i => !isDest (roleAt o i))
/-- Read ports of a pipe: A, B and, on an FMA pipe, C. -/
def readPorts (pipe : Nat) : Nat := if pipe < 8 then 3 else 2
/-- The port through which an operand is read (R721); 3 is port D. -/
def portOf (o : ROp) (i : Nat) : Nat :=
  let ss := sourcesOf o
  let n := if i = 15 then ss.length else (ss.findIdx? (· == i)).getD 9
  if n < readPorts o.pipe then n else 3
/-- The operand read through a port of an operation from a stream. -/
def portOperand (o : ROp) (port stream : Nat) : Option Nat :=
  ((sourcesOf o) ++ (if o.pred = 0x7F then [] else [15])).find? (fun i => portOf o i == port && refAt o i == stream)

/-! ### Grants to read ports (R286, R287, R304) -/

/-- Strips of an iteration whose operation reads a stream through a port, in the order in which they start. -/
def portStrips (x : RX) (mc port stream : Nat) : List (ROp × Nat × Nat) :=
  let l := x.v.starts.filterMap (fun st =>
    let o := opOf x.v st.op
    if o.pipe = mc then (portOperand o port stream).map (fun i => (st.lag * x.v.period + st.t, o, i, st.strip)) else none)
  (l.mergeSort (fun a b => decide (a.1 ≤ b.1))).map (·.2)

/-- Every row that those strips need: operation, strip, row number in its strip, row. -/
def portRows (x : RX) (q : RS) (it : Nat) (l : List (ROp × Nat × Nat)) : List (Nat × Nat × Nat × Nat) :=
  l.flatMap (fun y =>
    let rows := stripRows x q y.1 y.2.1 it y.2.2 (carryIn x q.2 y.1 it y.2.2).2
    (List.range rows.length).map (fun m => (y.1.idx, y.2.2, m, nthD 0 rows m)))

/-- Read the words of row r as master mc; only the words that the strip uses are checked and counted. -/
def readRow (x : RX) (mc r : Nat) (used : List Nat) (s : State) : List (Option TWord) × State :=
  (List.range 32).foldl (fun (a : List (Option TWord) × State) k =>
    let w := 32 * r + k
    if used.contains w then (let y := tsRead x.p w mc a.2; (a.1 ++ [y.1], y.2)) else (a.1 ++ [some (tsCell x a.2 w)], a.2)) ([], s)

def missBank (x : RX) (s : State) : State :=
  updP s x.p (fun t => (t.updReg 0x400 (fun v => setBit v 2)).updReg 0x424 (fun v => setFld v 15 0 ((fld v 15 0 + 1) % 65536)))
def missSlot (x : RX) (s : State) : State :=
  updP s x.p (fun t => (t.updReg 0x400 (fun v => setBit v 1)).updReg 0x424 (fun v => setFld v 31 16 ((fld v 31 16 + 1) % 65536)))

def grantsOf (q : Replay) (k : Nat × Nat × Nat × Nat) : Nat := ((q.granted.find? (fun g => g.1 == k)).map (·.2)).getD 0
def putGrants (k : Nat × Nat × Nat × Nat) (n : Nat) (q : Replay) : Replay :=
  { q with granted := (k, n) :: q.granted.filter (fun g => g.1 != k) }

/-- The words of row r that a strip uses of an operand. -/
def usedWords (x : RX) (q : RS) (o : ROp) (i it strip pos r : Nat) : List Nat :=
  ((List.range 256).filterMap (fun k => (needElem x q o i it (256 * strip + k) pos).map (fun e => (rPlace x q.1 (refAt o i) it e).1))).filter
    (fun w => w / 32 == r)

/-- A grant to a read port in TCLK u: the next row goes to its register three TCLK later. After a failure only strips already
started are served (R313). -/
def readGrant (x : RX) (u : Nat) (a : RAcc) (it : Nat) (q : RS) : RS :=
  let key := (a.mc, a.port, a.stream, it)
  let items := portStrips x a.mc a.port a.stream
  match (portRows x q it items)[grantsOf q.2 key]? with
  | none => q
  | some (op, strip, m, r) =>
    if q.2.fail.isSome && !q.2.strips.any (fun st => st.op == op && st.strip == strip && st.iter == it) then q
    else if r / 1024 ≠ a.bank then (missBank x q.1, q.2)
    else
      let o := opOf x.v op
      let i := (portOperand o a.port a.stream).getD 1
      let used := usedWords x q o i it strip (carryIn x q.2 o it strip).2 r
      let y := readRow x a.mc r used q.1
      let rp := putGrants key (grantsOf q.2 key + 1) q.2
      (y.2, { rp with coming := rp.coming ++ [((u : Int) + 4, 8 * a.mc + 2 * a.port + m % 2, y.1)] })

/-! ### Consumption (R287, R288, R290) -/

/-- The operand that element e of operand i of a strip is for pass k: what the port's row register holds, the same for every pass (R371),
or pass k's copy of the relay latch element (R373). -/
def takeElem (x : RX) (st : RStrip) (o : ROp) (pass i e : Nat) (q : RS) : Nat × Option TWord :=
  let r := refAt o i
  let ty := rEty x r
  if r < 0x40 then
    let pl := rPlace x q.1 r st.iter e
    let m := ((stripRows x q o i st.iter st.strip st.pos).findIdx? (· == pl.1 / 32)).getD 0
    let w := nthD none (tget emptyRow (getP q.1 x.p).rowRegs (8 * o.pipe + 2 * portOf o i + m % 2)) (pl.1 % 32)
    (match w with | some v => elemOf ty v.data pl.2 | none => 0, w)
  else
    let v := (latchAt (getP q.1 x.p) pass (latchKey r e)).toNat % 2 ^ eBits ty
    (v, some ⟨BitVec.ofNat 64 v, tagOf ty⟩)

/-- The operands of one element as taken: operand, value, word; the first failing operand with its cause; the latch elements read. -/
structure Took where
  ops : List (Nat × Nat × Option TWord)
  bad : Option (Nat × Nat)
  keys : List Nat

/-- Take one operand more. The failing operand nearest to T counts (R240). -/
def takeOp (x : RX) (st : RStrip) (o : ROp) (pass : Nat) (q : RS) (i e : Nat) (data : Bool) (a : Took) : Took :=
  let y := takeElem x st o pass i e q
  { ops := a.ops ++ [(i, y)]
    bad := match wordCause (isMove o.vop && data) y.2, a.bad with
      | some c, some b => some (if i < b.1 then (i, c) else b)
      | some c, none => some (i, c)
      | none, b => b
    keys := if refAt o i < 0x40 then a.keys else latchKey (refAt o i) e :: a.keys }

def tookVal (a : Took) (i : Nat) : Nat := ((a.ops.find? (fun y => y.1 == i)).map (·.2.1)).getD 0
def tookOk (a : Took) (i : Nat) : Bool := a.bad.all (fun b => b.1 != i)

/-- A strip consumes element k in one pass: its inputs, the cause of the first failing word in operand order (R240), the elements of a
that a VEXPAND used, and the latch elements read. Every element of a VPERME's a is read and judged as itself, whichever b selects (R236,
R240). A table element is read only by an index that is good, an element of a VEXPAND's a only for a set mask bit (R217, R219). -/
def takeInputs (x : RX) (st : RStrip) (o : ROp) (k pass : Nat) (q : RS) : EIn × Option Nat × Nat × List Nat :=
  let take (i e : Nat) (data : Bool) (a : Took) : Took := takeOp x st o pass q i e data a
  let dataRole (i : Nat) : Bool := roleAt o i == .a || roleAt o i == .b && o.vop != 0x48 || roleAt o i == .t
  let ctl := (sourcesOf o).filter (fun i => !(o.vop == 0x40 && i == 1) && !(o.vop == 0x43 && i == 1))
  let a0 := ctl.foldl (fun a i => take i (if o.vop = 0x49 then transIdx k else k) (dataRole i) a) ⟨[], none, []⟩
  let a1 := if o.pred = 0x7F then a0 else take 15 k false a0
  let act := o.pred == 0x7F || tookVal a1 15 == 1
  let late : Option Nat :=
    if o.vop = 0x40 then
      (let ix := sgn (eBits (rEty x (refAt o 2))) (tookVal a1 2)
       let r := refAt o 1
       let l := if r < 0x40 then (streamOf x.v r).len else 256
       if act && tookOk a1 2 && decide (0 ≤ ix) && decide (ix < (l : Nat)) then some ix.toNat else none)
    else if o.vop = 0x43 then (if tookVal a1 3 = 1 then some st.next else none)
    else if o.vop = 0x48 then some (k / 16 * 16 + tookVal a1 2 % 16)
    else none
  let a2 := match late with
    | some e =>
      let a := take 1 e true { a1 with ops := a1.ops.filter (fun y => y.1 != 1) }
      if o.vop = 0x48 then { a with bad := a1.bad } else a
    | none => a1
  let idxBad := o.vop == 0x40 && act && late.isNone
  let dataIdx := if o.vop = 0x43 ∧ late.isNone then [2] else if o.vop = 0x43 ∨ o.vop = 0x40 ∨ o.vop = 0x48 then [1]
    else (sourcesOf o).filter dataRole
  let ws := a2.ops.filter (fun y => dataIdx.contains y.1)
  let tags := ws.map (fun y => (y.2.2.map (·.tag)).getD 0)
  let vals := if o.vop = 0x43 then ws.map (·.2.1)
    else if o.vop = 0x40 ∨ o.vop = 0x48 then [tookVal a2 1, tookVal a2 2]
    else (sourcesOf o).map (tookVal a2)
  (⟨k, act, vals, tags.headD 0, isMove o.vop && tags.any (· == 0xF), idxBad⟩, a2.bad.map (·.2),
   if o.vop = 0x43 ∧ late.isSome then 1 else 0, a2.keys)

/-- The unit that a strip's results are computed as. -/
def stripUnit (x : RX) (st : RStrip) : VUnit :=
  let o := opOf x.v st.op
  let cs (r : Nat) : CStream := ⟨0, 0, 1, false, 0, BitVec.ofNat 3 (rEty x r), if r < 0x40 then (streamOf x.v r).len else 256, Desc.empty⟩
  { id := 0, vop := BitVec.ofNat 8 o.vop, rm := st.rm, pred := modPred o.md, merge := modMerge o.md, sub := BitVec.ofNat 4 (modSub o.md),
    mode := st.mode, cls := 0, vl := 256 * o.strips, ops := o.refs.map cs, pst := none, started := true, parked := false, holds := [], pipes := [],
    courier := none, strip := st.strip, carry := st.carry, outPos := st.pos, disputed := none, remoteLeft := 0, refused := false,
    got := [], buf := [], ahead := [], failed := [] }

/-! ### The passes of a strip (R368, R373, R374, R381 to R387) -/

/-- Passes of a strip: 1, 2 or 3. -/
def passCount (st : RStrip) : Nat := st.mode.toNat + 1
/-- The elements that pass k of a strip has consumed. -/
def elsOf (st : RStrip) (pass : Nat) : List EIn := if pass = 0 then st.els else if pass = 1 then st.els1 else st.els2

/-- The upset of a pass. -/
def upsetOf (u : Upset) (pass : Nat) : Word := if pass = 0 then u.pass0 else if pass = 1 then u.pass1 else u.pass2

/-- The result of pass k over the first n elements, on from what the passes agreed on at the last relay write (R384), with the upset that the
pass meets. -/
def passOf (x : RX) (st : RStrip) (pass n : Nat) : SOut :=
  let o := opOf x.v st.op
  let last := st.strip + 1 == o.strips && decide (256 ≤ n)
  let u := stripUnit x st
  if st.base.1 = 0 then
    upsetOut (upsetOf st.up pass) (eBits (opTys x.v o .d)) (computeStrip pass u (256 * st.strip) last ((elsOf st pass).take n))
  else if n ≤ st.base.1 then st.base.2
  else computeFrom pass u (256 * st.strip) last (((elsOf st pass).take n).drop st.base.1) st.base.2

/-- What the comparators find over the first n elements: the agreed result and the odd pass; none when the passes have no majority, or the
two comparators disagree (R382). -/
def agreedOf (x : RX) (st : RStrip) (n : Nat) : Option (SOut × Option Nat) :=
  let o0 := passOf x st 0 n
  if st.mode.toNat = 0 then some (o0, none)
  else if st.up.cmp then none
  else
    let o1 := passOf x st 1 n
    if st.mode.toNat = 1 then (if sameOut o0 o1 then some (o0, none) else none)
    else
      let o2 := passOf x st 2 n
      if sameOut o0 o1 && sameOut o0 o2 then some (o0, none)
      else if sameOut o0 o1 then some (o0, some 2)
      else if sameOut o0 o2 then some (o0, some 1)
      else if sameOut o1 o2 then some (o1, some 0)
      else none

/-- The result that counts over the first n elements. -/
def agreedOut (x : RX) (st : RStrip) (n : Nat) : SOut := ((agreedOf x st n).map (·.1)).getD (passOf x st 0 n)

/-- The odd pass is odd only in elements that it inherited from a shadow or latch not yet replaced (R385). -/
def inherited (x : RX) (st : RStrip) (n odd : Nat) (good : SOut) : Bool :=
  let bad := passOf x st odd n
  st.inh.any (fun y => y.1 == odd) &&
  (List.range (max bad.outs.length good.outs.length)).all (fun i =>
    bad.outs[i]? == good.outs[i]? || st.inh.contains (odd, ((good.outs[i]?).map (·.k)).getD 0))

/-! ### Strips over time -/

def depthOf (o : ROp) : Nat := if o.pipe < 8 then 12 else 20
/-- Extra TCLK of a reflected operation's commit and row writes (R370). -/
def passLag (o : ROp) (mode : Nat) : Nat := if mode = 0 then 0 else if 8 ≤ o.pipe ∨ mode = 1 then 2 else 3

/-- Elements that a strip has consumed by the end of TCLK u. -/
def consumedBy (x : RX) (st : RStrip) (u : Int) : Nat :=
  let n := stripTime x.v (opOf x.v st.op)
  if u < st.start then 0 else min 256 (256 * ((u - st.start).toNat + 1) / n)

def putStrip (st : RStrip) (q : Replay) : Replay :=
  { q with strips := q.strips.map (fun y => if y.op == st.op && y.iter == st.iter && y.strip == st.strip then st else y) }
def sameStrip (a b : RStrip) : Bool := a.op == b.op && a.iter == b.iter && a.strip == b.strip
def dropStrip (st : RStrip) (q : Replay) : Replay := { q with strips := q.strips.filter (fun y => !sameStrip y st) }

/-- Record the failure of a strip: it commits nothing (R313). DEDUCED (log 19): the rows that it has written are as they were before. -/
def failStrip (x : RX) (st : RStrip) (cause : Nat) (q : RS) : RS :=
  let o := opOf x.v st.op
  (forL st.undo (fun y s => updP s x.p (fun t => { t with store := t.store.put y.1 y.2 })) q.1,
   { dropStrip st q.2 with fail := q.2.fail.or (some ⟨cause, o.vop, o.pipe, o.idx, st.strip⟩) })

/-- The words of row r that a write of a strip has changed, as they were before: of what is held already, the older counts. -/
def noteWrites (x : RX) (r : Nat) (before : State) (q : RS) (st : RStrip) : RStrip :=
  let old := (getP before x.p).store
  let new := (getP q.1 x.p).store
  { st with undo := st.undo ++ (List.range 32).filterMap (fun k =>
      let w := 32 * r + k
      if old.cell w == new.cell w || st.undo.any (fun y => y.1 == w) then none else some (w, old.cell w)) }

/-- Element k is consumed in every pass: a latch element that is about to be replaced in a pass's copy marks the element of that pass as
inherited (R385). -/
def consumeElem (x : RX) (u : Int) (o : ROp) (k : Nat) (a : RStrip × Option Nat) (q : RS) : RStrip × Option Nat :=
  let st := a.1
  let y := takeInputs x st o k 0 q
  let pass (i : Nat) : List EIn := if i < passCount st then [(takeInputs x st o k i q).1] else []
  let stale (i : Nat) : List (Nat × Nat) :=
    if (takeInputs x st o k i q).2.2.2.any (fun key => q.2.fixes.any (fun f => f.pass == i && f.key == key && decide (u < f.due))) then [(i, k)]
    else []
  ({ st with
      els := st.els ++ [y.1], els1 := st.els1 ++ pass 1, els2 := st.els2 ++ pass 2, next := st.next + y.2.2.1,
      inh := st.inh ++ (if st.mode = 2 then stale 0 ++ stale 1 else []) },
   a.2.or y.2.1)

/-- A strip consumes its elements of TCLK u. Every pass takes them here; the passes' lags of one and two TCLK show only in the time at which
their results are compared (R368). An uncorrectable error in the strip buffer of a reflected strip fails it with cause UNCORR (R372). -/
def consume (x : RX) (u : Int) (st : RStrip) (q : RS) : RS :=
  let o := opOf x.v st.op
  let n := consumedBy x st u - st.els.length
  let r := forN n (fun j a => consumeElem x u o (256 * st.strip + st.els.length + j) a q) (st, none)
  match if st.up.buf && st.mode != 0 && decide (0 < n) then some 1 else r.2 with
  | some c => failStrip x st c q
  | none =>
    if n = 0 then q
    else if r.1.els.length = 256 then
      let so := agreedOut x r.1 256
      let pos := if o.vop = 0x43 then r.1.next else so.pos
      (q.1, { putStrip r.1 q.2 with
        carries := tset (fun _ => (0, 0)) q.2.carries (64 * st.iter + o.idx) (BitVec.ofNat 64 so.carry, pos) })
    else (q.1, putStrip r.1 q.2)

/-- The elements whose results reach a relay latch in TCLK u: those consumed one depth and one TCLK before (R288). -/
def relayGroup (x : RX) (u : Int) (st : RStrip) : Nat × Nat :=
  let v := u - (depthOf (opOf x.v st.op) : Nat) - 1
  (consumedBy x st (v - 1), consumedBy x st v)

/-- An operation writes a relay latch. -/
def toLatch (o : ROp) : Bool := decide (0x40 ≤ refFor o .d ∧ refFor o .d < 0x50)

/-- The results of a group among those of a strip. -/
def groupOuts (o : ROp) (st : RStrip) (g : Nat × Nat) (so : SOut) : List EOut :=
  so.outs.filter (fun e => decide (256 * st.strip + g.1 ≤ e.k ∧ e.k < 256 * st.strip + g.2) ||
    o.vop == 0x41 || o.vop == 0x42 || o.vop == 0x45 || o.vop == 0x46)

/-- A reduction has no result before the end of its strip: its passes go on apart until then. -/
def cuts (o : ROp) (n : Nat) : Bool := !(o.vop == 0x45 || o.vop == 0x46) || n == 256

/-- A strip whose passes have agreed on a result over the first n elements goes on from it (R384). -/
def cutAt (x : RX) (n : Nat) (good : SOut) (st : RStrip) : RStrip :=
  let fb := ((List.range (passCount st)).drop 1).foldl (fun a k => a + (passOf x st k n).fb) 0
  { st with base := (n, { good with fb := 0 }), fbs := st.fbs + (if st.base.1 < n then fb else 0) }

/-- Results written into a relay latch and its shadows in TCLK u (R288, R290, R373): each pass writes its own copy. They are compared when
the last pass has written (R382); then the odd pass's copy is replaced by the agreed value, and its running result with it (R384). -/
def relayWrite (x : RX) (u : Int) (st : RStrip) (q : RS) : RS :=
  let o := opOf x.v st.op
  let g := relayGroup x u st
  if !toLatch o || decide (g.2 ≤ g.1) then q
  else
    let key (e : EOut) : Nat := latchKey (refFor o .d) e.k
    let found := agreedOf x st g.2
    let odd := found.bind (·.2)
    let good := (found.map (·.1)).getD default
    let s1 := updP q.1 x.p (fun t => forN (passCount st) (fun k t =>
      let late := odd == some k && k + 1 == passCount st
      (groupOuts o st g (if late then good else passOf x st k g.2)).foldl (fun t e => putLatch k (key e) (BitVec.ofNat 64 e.v) t) t) t)
    let due : Int := u + (passCount st - 1 : Nat)
    let st1 := { st with verdicts := st.verdicts ++ (match found with
      | none => [⟨due, none⟩]
      | some (_, none) => []
      | some (so, some k) => [⟨due, some (k, inherited x st g.2 k so)⟩]) }
    let st2 := if found.isSome && cuts o g.2 then cutAt x g.2 good st1 else st1
    let fixes : List LatchFix := match odd with
      | some k => if k + 1 = passCount st then [] else (groupOuts o st g good).map (fun e =>
          ⟨u + (passCount st - 1 - k : Nat), k, key e, BitVec.ofNat 64 e.v⟩)
      | none => []
    (s1, { putStrip st2 q.2 with fixes := q.2.fixes ++ fixes })

/-- Copies of latch elements whose replacement falls due. -/
def applyFixes (x : RX) (u : Int) (q : RS) : RS :=
  (forL (q.2.fixes.filter (fun f => decide (f.due ≤ u))) (fun f s => updP s x.p (putLatch f.pass f.key f.val)) q.1,
   { q.2 with fixes := q.2.fixes.filter (fun f => decide (u < f.due)) })

/-- The comparisons on a strip whose outcome is to be acted on in TCLK u: of relay writes whose last shadow is written, and of its commit
(R382), each with the pipe that its event names (R388, R400). -/
def dueVerdicts (x : RX) (u : Int) (commits : Bool) (st : RStrip) : List (Nat × RStrip × Option (Nat × Bool)) :=
  let o := opOf x.v st.op
  let pipe (odd : Option (Nat × Bool)) : Nat := match odd with
    | some y => nthD 0 (passPipes { o with mode := st.mode.toNat }) y.1
    | none => o.pipe
  let relay := (st.verdicts.filter (fun v => decide (v.due ≤ u))).map (·.odd)
  let commit := if commits then (match agreedOf x st 256 with
    | none => [none]
    | some (_, none) => []
    | some (so, some k) => [some (k, inherited x st 256 k so)]) else []
  (relay ++ commit).map (fun d => (pipe d, st, d))

/-- What a comparison found is acted on: no majority fails the strip with its record (R387, R388); a majority is logged, and the odd pass's
pipe is charged unless all that is odd was inherited (R384, R385). A strip is counted once, and charged once for a pipe (R391). -/
def judgeStrip (x : RX) (pipe : Nat) (st0 : RStrip) (d : Option (Nat × Bool)) (q : RS) : RS :=
  match q.2.strips.find? (sameStrip st0) with
  | none => q
  | some st =>
    let o := opOf x.v st.op
    let mode := st.mode.toNat
    let s1 := if st.odd.isEmpty then countMismatch x.p q.1 else q.1
    match d with
    | none => failStrip x st 4 (noMajority x.p o.pipe mode true o.idx st.strip s1, q.2)
    | some (k, inh) =>
      let s2 := if st.odd.any (fun y => y.1 == k) then s1 else tfLog x.p 2 pipe mode k true o.idx st.strip (tfSet x.p 1 s1)
      let s3 := if !inh && decide (pipe < 8) && !st.odd.contains (k, true) then chargePipe x.p pipe k true o.idx st.strip mode s2 else s2
      (s3, putStrip { st with odd := st.odd ++ [(k, !inh)] } q.2)

/-- The comparisons of one TCLK, in ascending order of the pipes that their events name (R400). -/
def judgeAll (x : RX) (u : Int) (commits : RStrip → Bool) (q : RS) : RS :=
  let q1 := (sortBy (·.1) (q.2.strips.flatMap (fun st => dueVerdicts x u (commits st) st))).foldl (fun q y => judgeStrip x y.1 y.2.1 y.2.2 q) q
  (q1.1, { q1.2 with strips := q1.2.strips.map (fun st => { st with verdicts := st.verdicts.filter (fun v => decide (u < v.due)) }) })

/-- Elements whose results have left the pipe and may be written in TCLK u. -/
def writableEls (x : RX) (st : RStrip) (u : Int) : List EIn :=
  let o := opOf x.v st.op
  st.els.take (consumedBy x st (u - (depthOf o + passLag o st.mode.toNat : Nat)))

/-- A MASK destination may begin within a word: elements count from the word's first bit (R284). -/
def destOuts (x : RX) (r it : Nat) (outs : List EOut) : List EOut :=
  let y := streamOf x.v r
  if y.ty = 5 then outs.map (fun e => { e with k := e.k + ((bitAt y ((ringOf y it : Nat) * y.adv)) % 64).toNat }) else outs

/-- A destination stream as the packing functions read it, for one iteration. -/
def destStream (x : RX) (s : State) (r it : Nat) : CStream :=
  let y := streamOf x.v r
  let d := rDesc s x.n y
  { seg := y.seg, offset := (if y.ty = 5 then bitAt y ((ringOf y it : Nat) * y.adv) / 64 * 8 else bitAt y ((ringOf y it : Nat) * y.adv) / 8), stride := y.stride, remote := false, device := 0,
    ety := BitVec.ofNat 3 y.ty, length := y.len, desc := d }

/-- Words ready to be written in a row: whole words whose last element has left the pipe. The word of the newest element is whole when the
next element lies in another. -/
def rowWords (x : RX) (q : RS) (r it row : Nat) (fin : Bool) (outs : List EOut) : List WOut :=
  let c := destStream x q.1 r it
  let ws := packWords c (getP q.1 x.p).store.cell outs []
  let full := match outs.getLast? with
    | some e => (elemPlace c (e.k + 1)).1 != (elemPlace c e.k).1
    | none => true
  let ready := if fin || full then ws else ws.drop 1
  ready.reverse.filter (fun y => y.w / 32 == row)

/-- A grant to the write port in TCLK u for a strip: a merge read, or the next row of results (R286, R288, R722). -/
def writeGrant (x : RX) (u : Int) (a : RAcc) (st : RStrip) (q : RS) : RS :=
  let o := opOf x.v st.op
  let els := writableEls x st u
  let fin := els.length == 256
  let so0 := agreedOut x st els.length
  let so := { so0 with outs := destOuts x a.stream st.iter so0.outs }
  if (agreedOf x st els.length).isNone then q
  else if refFor o .n = a.stream then
    match so.cnt with
    | none => q
    | some c =>
      let pl := rPlace x q.1 a.stream st.iter 0
      if pl.1 / 32768 ≠ a.bank then (missBank x q.1, q.2)
      else
        let q1 : RS := (tsWrite x.p pl.1 ⟨BitVec.ofNat 64 c, 1⟩ q.1, q.2)
        (q1.1, putStrip (noteWrites x (pl.1 / 32) q.1 q1 st) q1.2)
  else
    let scatter := o.vop == 0x41
    let narrow := scatter && decide (eBits (opTys x.v o .d) < 64)
    let c := destStream x q.1 a.stream st.iter
    let wordAtK (e : EOut) : Nat := (c.desc.base.toNat + (elemPlace c e.k).1) / 8
    let rows := if scatter then stripRows x q o 0 st.iter st.strip st.pos else so.outs.foldl (fun l e => addOnce l (wordAtK e / 32)) []
    let readsDone := ((st.merged.map (fun y => y.2.1 / 32)).foldl addOnce []).length
    if narrow && decide (readsDone < rows.length) then
      let r := nthD 0 rows readsDone
      if r / 1024 ≠ a.bank then (missBank x q.1, q.2)
      else
        let used := usedWords x q o 0 st.iter st.strip st.pos r
        let y := readRow x a.mc r used q.1
        let ws := (List.range 32).filterMap (fun k => if used.contains (32 * r + k) then some (0, 32 * r + k, nthD none y.1 k) else none)
        match ws.findSome? (fun w => mergeCause w.2.2) with
        | some cause => failStrip x st cause (y.2, q.2)
        | none => (y.2, putStrip { st with merged := st.merged ++ ws } q.2)
    else
      match rows[st.written]? with
      | none => q
      | some r =>
        if r / 1024 ≠ a.bank then (missBank x q.1, q.2)
        else
          let note (s : State) : RS := (s, putStrip (noteWrites x r q.1 (s, q.2) { st with written := st.written + 1 }) q.2)
          let mine := so.outs.filter (fun e => wordAtK e / 32 == r)
          note (if narrow then writeMerged x.p c (st.merged.filter (fun y => y.2.1 / 32 == r)) mine q.1
            else if eBits (opTys x.v o .d) = 64 then writeWide x.p c mine q.1
            else forL (rowWords x q a.stream st.iter r fin so.outs) (fun y s => tsWrite x.p y.w (outWord y) s) q.1)

/-- The strip that a write-port grant serves: the first in flight with a row of that stream still to come. -/
def writeStripFor (x : RX) (q : RS) (a : RAcc) (it : Nat) : Option RStrip :=
  q.2.strips.find? (fun st =>
    let o := opOf x.v st.op
    o.pipe == a.mc && st.iter == it && (refFor o .n == a.stream || (refFor o .d == a.stream && !doneRows x q.1 st)))
where
  /-- every row of a strip whose elements are all consumed has been written -/
  doneRows (x : RX) (s : State) (st : RStrip) : Bool :=
    let o := opOf x.v st.op
    let so := agreedOut x st st.els.length
    let rowK (e : EOut) : Nat := (rPlace x s (refFor o .d) st.iter e.k).1 / 32
    st.els.length == 256 && decide (((so.outs.map rowK).eraseDups).length ≤ st.written)

/-- A grant of an ACCESS entry that acted in window w (a run of grants may pass the end of its window). -/
def grant (x : RX) (u w : Nat) (a : RAcc) (q : RS) : RS :=
  match iterAt x w a.lag with
  | none => q
  | some it =>
    let reads := a.port != 3 || (x.v.ops.any (fun o => o.pipe == a.mc && (portOperand o 3 a.stream).isSome))
    if reads then readGrant x u a it q
    else match writeStripFor x q a it with
      | none => q
      | some st => writeGrant x u a st q

/-- The TCLK in which a strip commits (R238, R370), and that in which the last pass's last relay write is compared (R382). -/
def commitTime (x : RX) (st : RStrip) : Int :=
  let o := opOf x.v st.op
  st.start + (stripTime x.v o : Nat) - 1 + (depthOf o + passLag o st.mode.toNat : Nat)
def relayEnd (x : RX) (st : RStrip) : Int :=
  let o := opOf x.v st.op
  if toLatch o then st.start + (stripTime x.v o : Nat) + (depthOf o : Nat) + (passCount st - 1 : Nat) else st.start

/-- A strip that has committed and written its latch is done. -/
def retireStrip (x : RX) (u : Int) (st : RStrip) (q : RS) : RS :=
  if st.committed && decide (relayEnd x st ≤ u) then (q.1, dropStrip st q.2) else q

/-- A strip commits in TCLK u. -/
def commitsAt (x : RX) (u : Int) (st : RStrip) : Bool := !st.committed && decide (commitTime x st ≤ u) && decide (256 ≤ st.els.length)

/-- A committing strip adds to the strips of its pipes and to the fallbacks (R378, R390). -/
def countRound (x : RX) (st : RStrip) (q : RS) : RS :=
  let s1 := updP q.1 x.p (fun t => (passPipes { opOf x.v st.op with mode := st.mode.toNat }).foldl (fun a c => countStrip c a) t)
  let fb := ((List.range (passCount st)).drop 1).foldl (fun a k => a + (passOf x st k 256).fb) st.fbs
  (if fb = 0 then s1 else countFallback x.p fb s1, q.2)

/-- The commit of a strip: its flags and IDX (R237, R238, R370, R383). -/
def commitRound (x : RX) (st : RStrip) (q : RS) : RS :=
  match agreedOf x st 256 with
  | some (so, _) =>
    let s1 := raiseFlags x.p so.fl q.1
    (if so.idx then tvSet x.p 2 s1 else s1, putStrip { st with committed := true } q.2)
  | none => q

/-- A START entry: the strip begins with what enters it (R288, R379). -/
def startStrip (x : RX) (u : Nat) (e : RStart) (q : RS) : RS :=
  match iterAt x x.w e.lag with
  | none => q
  | some it =>
    let o := opOf x.v e.op
    let tl := getP q.1 x.p
    let c := carryIn x q.2 o it e.strip
    let rm := if modRm o.md = 0 then fld (tl.reg 0x304) 5 3 else modRm o.md
    let mode := min (if 8 ≤ o.pipe then min o.mode 1 else o.mode) (fld tl.tfInForce 1 0)
    let w := eBits (opTys x.v o .d)
    let up : Upset := match x.ups.find? (fun y => y.1 == e.op && y.2.1 == e.strip) with
      | some y => { y.2.2 with
          pass0 := BitVec.ofNat 64 (y.2.2.pass0.toNat % 2 ^ w), pass1 := BitVec.ofNat 64 (y.2.2.pass1.toNat % 2 ^ w),
          pass2 := BitVec.ofNat 64 (y.2.2.pass2.toNat % 2 ^ w) }
      | none => Upset.none
    let st : RStrip := {
      op := e.op, iter := it, strip := e.strip, start := u, carry := c.1, pos := c.2, rm := BitVec.ofNat 3 rm,
      mode := BitVec.ofNat 2 mode, els := [], els1 := [], els2 := [], next := c.2, written := 0, merged := [], up := up,
      base := (0, default), fbs := 0, verdicts := [], inh := [], odd := [], undo := [], committed := false }
    (q.1, { q.2 with strips := q.2.strips ++ [st] })

/-! ### Couriers (R292 to R294) -/

/-- Rows of a run in an iteration: the first row and their number. -/
def runRowsAt (x : RX) (s : State) (e : RSlot) (it : Nat) : Nat × Nat :=
  let t := streamOf x.v e.tst
  rowsIn (linesAt (rDesc s x.n t) t it e.line e.count)

/-- Words of a run in the tile store. -/
def runWord0 (x : RX) (s : State) (e : RSlot) (it : Nat) : Nat :=
  let t := streamOf x.v e.tst
  ((linesAt (rDesc s x.n t) t it e.line e.count).1 / 8).toNat

/-- Read row k of a write run as its courier. -/
def readAhead (x : RX) (w : Nat) (e : RSlot) (it k : Nat) (q : RS) : RS :=
  let rr := runRowsAt x q.1 e it
  let w0 := runWord0 x q.1 e it
  let r := rr.1 + k
  let used := (List.range 32).filterMap (fun j => if w0 ≤ 32 * r + j ∧ 32 * r + j < w0 + 8 * e.count then some (32 * r + j) else none)
  let y := readRow x (0xA + e.cour) r used q.1
  (y.2, { q.2 with ahead := q.2.ahead ++ [((w, e.at_, k), y.1)] })

/-- Implied reads of write runs that fall in TCLK u (before the window when u is negative), of this window and of the windows after it:
the bank and the read (R292). -/
def aheadAt (x : RX) (u : Int) (q : RS) : List (Nat × (RS → RS)) :=
  (x.v.slots.filter (·.out)).flatMap (fun e =>
    (List.range 21).filterMap (fun d =>
      match iterAt x (x.w + d) e.lag with
      | none => none
      | some it =>
        let rr := runRowsAt x q.1 e it
        let k := u - ((d * x.v.period : Nat) : Int) - 4 * (e.srel : Int) - impliedAt q.1 x.t x.n x.v e rr.2
        if 0 ≤ k ∧ k < (rr.2 : Int) ∧ !q.2.ahead.any (fun z => z.1 == (x.w + d, e.at_, k.toNat)) then
          some ((rr.1 + k.toNat) / 1024, readAhead x (x.w + d) e it k.toNat)
        else none))

/-- Line l of an HBM stream's segment: its pseudo-channel. -/
def linePc (x : RX) (s : State) (e : RSlot) (l : Nat) : Nat := (linePlace (rDesc s x.n (streamOf x.v e.hst)) l).1

def courFail (e : RSlot) (cause : Nat) (q : Replay) : Replay :=
  { q with fail := q.fail.or (some ⟨cause, 0x80, 0xA + e.cour, e.hst, 0xFF⟩) }

/-- The first cause in the words of a line that a courier moves (R240). -/
def lineCause (ws : List (Option TWord)) : Option Nat := ws.findSome? (wordCause true)

/-- Line c of a run moves in its slot. DESIGN CHOICE (log 20): the row group of a courier (R60) is the 64-byte line; a line with a failing
word is not written, and the run's other lines are. -/
def moveLine (x : RX) (u : Nat) (e : RSlot) (it c : Nat) (q : RS) : RS :=
  let h := streamOf x.v e.hst
  let d := rDesc q.1 x.n h
  let l := (blockAt h it / 64).toNat + e.line + c
  let w0 := runWord0 x q.1 e it + 8 * c
  let r0 := (runRowsAt x q.1 e it).1
  if e.out then
    let wordsOf : List (Option TWord) := (List.range 8).map (fun j =>
      nthD none (((q.2.ahead.find? (fun a => a.1 == (x.w, e.at_, (w0 + j) / 32 - r0))).map (·.2)).getD []) ((w0 + j) % 32))
    match lineCause wordsOf with
    | some cause => (q.1, courFail e cause q.2)
    | none =>
      let ws := wordsOf.map (·.getD ⟨0, 0⟩)
      (segWriteSched (some x.n) d l (lineData ws, lineTags ws) q.1, q.2)
  else
    let y := segReadLine (some x.n) d l 0 x.t q.1
    match y.1 with
    | none => (y.2, courFail e 1 q.2)
    | some (dt, tg) =>
      let ws := (List.range 8).map (fun j => lineWord dt tg j)
      match lineCause (ws.map some) with
      | some cause => (y.2, courFail e cause q.2)
      | none =>
        let dly := impliedAt q.1 x.t x.n x.v e (runRowsAt x q.1 e it).2
        (y.2, { q.2 with land := q.2.land ++ (List.range 8).map (fun j =>
          ((u : Int) + dly + ((w0 + j) / 32 - r0 : Nat), w0 + j, nthD ⟨0, 0⟩ ws j)) })

/-- The lines of the runs whose slot begins in TCLK u, in entry and line order: number, entry, iteration, line, pseudo-channel; and whether
each moves, because it meets no earlier one on its pseudo-channel (R294). -/
def slotLines (x : RX) (u : Nat) (s : State) : List (Nat × RSlot × Nat × Nat × Nat) :=
  let l := (x.v.slots.filter (fun e => 4 * e.srel == u)).flatMap (fun e => match iterAt x x.w e.lag with
    | some it => (List.range e.count).map (fun c =>
        (e, it, c, linePc x s e ((blockAt (streamOf x.v e.hst) it / 64).toNat + e.line + c)))
    | none => [])
  (List.range l.length).filterMap (fun i => l[i]?.map (fun y => (i, y)))

/-- The rows of a write run that have not been read before its slot are read now. -/
def readRest (x : RX) (e : RSlot) (it : Nat) (q : RS) : RS :=
  if e.out then
    forN (runRowsAt x q.1 e it).2 (fun k q => if q.2.ahead.any (fun z => z.1 == (x.w, e.at_, k)) then q else readAhead x x.w e it k q) q
  else q

/-- A line of a lower tile of the same tenant has moved on the pseudo-channel in this slot (R294). DEDUCED (log 19): the windows that share a
slot come in ascending order of tiles. -/
def beaten (x : RX) (slot pc : Nat) (s : State) : Bool :=
  s.moved.any (fun m => m.1 == slot && m.2.1 == pc && m.2.2.1 == x.n && decide (m.2.2.2 < x.t))

/-- The pseudo-channels on which lines of this tile move in a slot are kept until its post cycle is over. -/
def keepMoved (x : RX) (slot : Nat) (pcs : List Nat) (s : State) : State :=
  if pcs.isEmpty then s
  else { s with moved := s.moved.filter (fun m => decide (1024 * s.postCycle ≤ m.1)) ++ pcs.map (fun pc => (slot, pc, x.n, x.t)) }

/-- The runs whose slot begins in TCLK u: a line that meets an earlier one, or one of a lower tile, on its pseudo-channel does not move; the others
move, and their corrections are found, in ascending pseudo-channel order (R294, R342). The first failure in entry order counts. -/
def runSlots (x : RX) (u : Nat) (q : RS) : RS :=
  let es := x.v.slots.filter (fun e => 4 * e.srel == u)
  let lines := slotLines x u q.1
  let slot := (q.2.begins + u) / 4
  let meets (y : Nat × RSlot × Nat × Nat × Nat) : Bool :=
    lines.any (fun z => decide (z.1 < y.1) && z.2.2.2.2 == y.2.2.2.2) || beaten x slot y.2.2.2.2 q.1
  let q0 := lines.foldl (fun q y => if meets y then (missSlot x q.1, q.2) else readRest x y.2.1 y.2.2.1 q) q
  let r := (sortBy (fun y => y.2.2.2.2) (lines.filter (fun y => !meets y))).foldl
    (fun (a : RS × List (Nat × RFail)) y =>
      let b := moveLine x u y.2.1 y.2.2.1 y.2.2.2.1 (a.1.1, { a.1.2 with fail := none })
      ((b.1, { b.2 with fail := a.1.2.fail }), match b.2.fail with | some f => insBy (·.1) (y.1, f) a.2 | none => a.2)) (q0, [])
  (keepMoved x slot ((lines.filter (fun y => !meets y)).map (·.2.2.2.2)) r.1.1, { r.1.2 with
    fail := r.1.2.fail.or (r.2.head?.map (·.2)),
    ahead := r.1.2.ahead.filter (fun z => !es.any (fun e => z.1.1 == x.w && z.1.2.1 == e.at_)) })

/-! ### One TCLK -/

/-- Rows that reach their registers, and courier words that are written, in TCLK u. -/
def deliver (x : RX) (u : Int) (q : RS) : RS :=
  let due := q.2.coming.filter (fun c => decide (c.1 ≤ u))
  let lands := q.2.land.filter (fun c => decide (c.1 ≤ u))
  (updP (forL lands (fun c s => tsWrite x.p c.2.1 c.2.2 s) q.1) x.p (fun t => { t with
      rowRegs := due.foldl (fun r c => tset emptyRow r c.2.1 c.2.2) t.rowRegs }),
   { q.2 with coming := q.2.coming.filter (fun c => decide (u < c.1)), land := q.2.land.filter (fun c => decide (u < c.1)) })

/-- How the entries of a sheet act in a window: not at all in a deferred period (R298), all of them, or only the runs of grants that began
in earlier windows, while what is in flight drains (R286). -/
inductive RAct where
  | none | all | tail
  deriving DecidableEq, Repr

/-- The grants that fall in TCLK u: the bank and the grant. A run of grants may pass the end of its window; none goes on over a stop. -/
def grantsAt (x : RX) (act : RAct) (u : Nat) (q : RS) : List (Nat × (RS → RS)) :=
  x.v.accs.flatMap (fun a => (List.range (x.w + 1)).filterMap (fun d =>
    if (act == .tail && d == 0) || decide (x.w - d < q.2.since) then none
    else if (List.range a.count).any (fun i => a.t + a.interval * i == u + d * x.v.period) then some (a.bank, grant x u (x.w - d) a)
    else none))

/-- Each strip in flight that is still there, in ascending order of pipes. -/
def eachStrip (x : RX) (f : RStrip → RS → RS) (q : RS) : RS :=
  (sortBy (fun st => (opOf x.v st.op).pipe) q.2.strips).foldl (fun q st =>
    match q.2.strips.find? (sameStrip st) with
    | some y => f y q
    | none => q) q

/-- TCLK u of a window: what arrives, relay writes, strips that start and consume, bank accesses in ascending bank order (R59), courier runs,
and the comparisons and commits. -/
def roundTclk (x : RX) (act : RAct) (u : Nat) (q : RS) : RS :=
  let ui : Int := u
  let q1 := deliver x ui (applyFixes x ui q)
  let q2 := eachStrip x (relayWrite x ui) q1
  let go := act == .all && q2.2.fail.isNone
  let q3 := if go then forL (x.v.starts.filter (fun e => e.t == u)) (fun e q => startStrip x u e q) q2 else q2
  let q4 := eachStrip x (consume x ui) q3
  let reads := (if act == .none then [] else grantsAt x act u q4) ++ (if act == .all && q4.2.fail.isNone then aheadAt x ui q4 else [])
  let q5 := (sortBy (·.1) reads).foldl (fun q y => y.2 q) q4
  let q6 := if act == .all && q5.2.fail.isNone then runSlots x u q5 else q5
  let commits := commitsAt x ui
  let q7 := judgeAll x ui commits (eachStrip x (fun st q => if commits st then countRound x st q else q) q6)
  eachStrip x (retireStrip x ui) (eachStrip x (fun st q => if commits st then commitRound x st q else q) q7)

/-- n TCLK from TCLK 0. -/
def roundRun (x : RX) (act : RAct) (n : Nat) (q : RS) : RS := forN n (roundTclk x act) q

/-- TCLK before a window from which implied reads of write runs may fall (R292). -/
def leadLen : Nat := 400

/-- The first window after a start begins PHASE after the boundary of the post cycle at hand (R306; DESIGN CHOICE, log 19). The implied reads that
fall before it are made, in their order (R292). -/
def leadReads (x : RX) (q : RS) : RS :=
  forN leadLen (fun i q => (sortBy (·.1) (aheadAt x ((i : Int) - (leadLen : Int)) q)).foldl (fun q y => y.2 q) q)
    (q.1, { q.2 with begins := 4096 * q.1.postCycle + x.v.phase })

/-- Times become relative to the start of the next window. -/
def shiftReplay (n : Nat) (q : Replay) : Replay :=
  { q with
    strips := q.strips.map (fun st => { st with
      start := st.start - (n : Int), verdicts := st.verdicts.map (fun v => { v with due := v.due - (n : Int) }) })
    coming := q.coming.map (fun c => (c.1 - (n : Int), c.2))
    land := q.land.map (fun c => (c.1 - (n : Int), c.2))
    fixes := q.fixes.map (fun f => { f with due := f.due - (n : Int) })
    begins := q.begins + n }

/-- TCLK in which every run of grants, every strip in flight and every landing run ends: 255 grants up to 15 TCLK apart, and a strip. -/
def drainLen : Nat := 4400

end Sys2Proof.Machine
end

