-- ==== Sys2Proof/Machine/Rounds.lean ====
section
/-! DEFINITION. The round sequencer: RCALL and RWAIT, windows, post boxes, stops and aborts of rounds, and the deferrable causes
(R295 to R316). -/
namespace Sys2Proof.Machine

open Sys2Proof

/-! ### Windows -/

def rxOf (t : Nat) (r : Round) (ups : List (Nat × Nat × Upset)) (s : State) : RX :=
  let tl := getTile s t
  ⟨t, physOf s t, (tl.owner.map (·.1)).getD 0, parseSheet (sheetAt tl r.slot).entries, r.iters, r.window, ups⟩

def putRound (t : Nat) (r : Round) (s : State) : State := updTile s t (fun tl => { tl with round := some r })

/-- Windows of a round: n + LAGMAX (R280). -/
def windowsOf (x : RX) : Nat := x.iters + lagMax x.v

/-- The window that a round is in (R309): the last to have started of a running round, otherwise the one that it waits to start. -/
def currentWindow (r : Round) : Nat := if r.st = 2 ∧ r.replay.since < r.window then r.window - 1 else r.window
def lastWindow (t : Nat) (s : State) : Nat := ((getTile s t).round.map currentWindow).getD 0

/-- A data-face boundary of a tile (R23): no vector instruction is between its start and its end, and the window that a round has
completed, if any, was the end of an iteration. DESIGN CHOICE (log 65): the point between two single vector instructions is one at which this
holds for every pipe and courier of the tile. -/
def tileBoundary (tl : Tile) : Bool :=
  unitsIdle tl &&
  (match tl.round with
   | some r => r.st == 1 || r.st == 4 || decide (lagMax (parseSheet (sheetAt tl r.slot).entries) < r.window)
   | none => true)

/-- A tile that passes a boundary takes what is written (R23, R24). -/
def passBoundary (t : Nat) (s : State) : State := updTile s t (fun tl => if tileBoundary tl then { tl with setup := none } else tl)

/-- What is in flight completes and the runs of grants that have begun go on; no other entry acts (R286, R309, R313). -/
def drainRound (t : Nat) (s : State) : State :=
  match (getTile s t).round with
  | none => s
  | some r =>
    let q := roundRun (rxOf t r [] s) .tail drainLen (s, r.replay)
    putRound t { r with replay := { q.2 with strips := [], coming := [], land := [], ahead := [], fixes := [], since := r.window } } q.1

/-- The sheet owners are the active owners from the start of a round's first iteration to the end of its last (R41). -/
def setOwners (t : Nat) (o : Option Word) (s : State) : State := updTile s t (fun tl => { tl with sheetOwners := o })

/-- The pipes and couriers of a round that ends are free, its fetches are forgotten, and retirements that arose in it take effect (R308,
R393). -/
def leaveRound (t : Nat) (s : State) : State :=
  let s1 := updTile s t (fun tl =>
    { tl with round := none, sheetOwners := none, retiring := tl.retiring.filter (fun c => c.2 != 16) })
  { s1 with reqs := s1.reqs.filter (fun q => match q.kind with | .postbox u _ _ => u != t | _ => true) }

/-- The abort of a tile's round (R313): cause, VOP and pipe, OPIDX and strip, the window that it records and the one that TR_RESUME takes
(R314). -/
def abortRound (t cause vop pipe opidx strip window resumeAt : Nat) (s : State) : State :=
  let p := physOf s t
  let tl := getP s p
  match tl.round with
  | none => s
  | some r =>
    let inPlace := (sheetWord (sheetAt tl r.slot) 1).getLsbD 1
    let held := bit (tl.reg 0x300) 3
    let a := BitVec.ofNat 32 (2 ^ 31 + 2 ^ 26 + (if inPlace then 2 else 0) * 2 ^ 24 + cause * 2 ^ 20)
    let s1 := recordAbort p a (BitVec.ofNat 32 (vop * 2 ^ 8 + pipe * 2 ^ 4)) inPlace s
    let s2 := if held then s1 else updP s1 p (fun x => (x.setReg 0x410 (BitVec.ofNat 32 window)).setReg 0x414
      (BitVec.ofNat 32 (2 ^ 31 + opidx * 2 ^ 8 + strip)))
    let s3 := updP s2 p (fun x => x.setReg 0x418 (BitVec.ofNat 32 resumeAt))
    pendAsync t (if cause = 4 then .reflect 16 else .vector 16) (leaveRound t s3)

/-- What was in flight after the last window that ran completes; a strip that fails then aborts the round as one of that window (R313). -/
def settleRound (t : Nat) (s : State) : State :=
  let s1 := drainRound t s
  match (getTile s1 t).round with
  | none => s1
  | some r => match r.replay.fail with
    | none => s1
    | some f => abortRound t f.cause f.vop f.pipe f.op f.strip (r.window - 1) (r.window - 1) s1

/-- A unit stops at the end of its strip and is parked (R245). -/
def parkUnit (u : VUnit) : VUnit := { u with parked := true, pipes := [], courier := none, got := [], buf := [], ahead := [], failed := [], remoteLeft := 0 }

/-- Causes cs are acted on for a unit: it is parked, and held by each of them. It stays outstanding, and retirements that arose in it wait
for its end (R245, R393). -/
def parkNow (t : Nat) (cs : List Nat) (u : VUnit) (s : State) : State :=
  putUnit t { (if u.parked then u else parkUnit u) with holds := cs.foldl addOnce u.holds } (if u.parked then s else dropUnitReqs t u.id s)

/-- What acting on deferrable causes cs does to the round: the window that runs has ended, what it left in flight completes,
and the round is parked (R309 to R311), or under MODE.RESUME it ends with cause STOPPED, as the window that ended (R314). -/
def stopRound (t : Nat) (cs : List Nat) (s : State) : State :=
  let tl := getTile s t
  let hold (r : Round) : Round := { r with holds := cs.foldl addOnce r.holds }
  match tl.round with
  | none => s
  | some r =>
    if r.st = 4 then putRound t (hold r) s
    else
      let s1 := settleRound t s
      if tl.eng.resume then abortRound t 6 0 0 0 0 (lastWindow t s1) r.window s1
      else updTile s1 t (fun x => { x with round := x.round.map (fun r => hold { r with st := 4, spaced := true }) })

/-- The causes that are to be acted on: those raised, but for an interrupt entry that has been acted on since, which only holds what it
parked (R245); none while the engine is sealed or in a double fault (R179, R184). -/
def dueCauses (tl : Tile) : List Nat :=
  if tl.eng.isSealed || tl.eng.dfault then [] else tl.stops.filter (fun c => c != 2 || !tl.eng.intActed)

/-- Whether a deferrable cause may be acted on now: no in-place instruction is outstanding, unless MODE.RESUME is 1, and no
strip awaits its third pass (R245, R252, R389). -/
def mayAct (tl : Tile) : Bool :=
  (tl.eng.resume || tl.units.all (fun u => u.cls == 0 || u.parked)) && tl.units.all (fun u => u.disputed.isNone)

/-- Act on the held deferrable causes of a tile. -/
def actOnCauses (t : Nat) (s : State) : State :=
  let tl := getTile s t
  if (dueCauses tl).isEmpty || !mayAct tl then s
  else
    let cs := dueCauses tl
    let s1 := if tl.eng.resume then forL tl.units (fun u s => abortUnit t u 6 (unitCode u) s) s
      else forL tl.units (parkNow t cs) s
    let s2 := if tl.stops.contains 2 then updTile s1 t (fun x => { x with eng := { x.eng with intActed := true } }) else s1
    stopRound t cs s2

/-- DEFERRED_CAUSE_ACT: a held deferrable cause is acted on (R245). -/
def execDeferredCauseAct (t : Nat) (s : State) : Host.Outcome State Fault Refusal := onTile t s (actOnCauses t)

/-! ### Post boxes (R295 to R299) -/

/-- A fetch that is refused, or cannot leave, aborts the round in the window that it is in, with cause REMOTE (R299, R313). -/
def refuseFetch (t : Nat) (e : RPost) (r : Round) (s : State) : State :=
  abortRound t 5 0x80 (0xA + e.cour) e.rst 0xFF (currentWindow r) (currentWindow r) (drainRound t s)

/-- Issue the fetches of iteration i: the copy's token is cleared, and READs leave for the lines; a fetch that cannot leave
is a dead letter, and the round aborts with cause REMOTE. -/
def issueFetches (t i : Nat) (s : State) : State :=
  match (getTile s t).round with
  | none => s
  | some r0 =>
    let x := rxOf t r0 [] s
    forL x.v.posts (fun e s =>
      match (getTile s t).round with
      | none => s
      | some r =>
        let h := streamOf x.v e.rst
        let first := (blockAt h i / 64).toNat
        let copy := i % copiesOf x.v
        let s1 := putRound t { r with tokens := r.tokens.filter (· != (e.token, copy)), fetches := r.fetches ++ [(e.token, i, e.lines)] } s
        let q := sendReads (some t) h.device x.n (.postbox t e.token i) h.seg (64 * first) (64 * (first + e.lines) - 1) 17 first e.lines s1
        if q.2.isSome then refuseFetch t e r q.1 else q.1) s

/-- Issue every fetch up to iteration i that has not been issued. -/
def fetchUpTo (t i : Nat) : Nat → State → State
  | 0, s => s
  | k + 1, s =>
    match (getTile s t).round with
    | none => s
    | some r =>
      if i < r.nextFetch ∨ r.iters ≤ r.nextFetch then s
      else fetchUpTo t i k (issueFetches t r.nextFetch (putRound t { r with nextFetch := r.nextFetch + 1 } s))

/-- A line of a fetch arrives: it is written in its copy (R295, R297). `line` is its line number in the remote segment. -/
def postboxLine (t token i line : Nat) (v : BitVec 512 × BitVec 32) (s : State) : State :=
  match (getTile s t).round with
  | none => s
  | some r =>
    let x := rxOf t r [] s
    match x.v.posts.find? (fun e => e.token == token) with
    | none => s
    | some e =>
      let first := (blockAt (streamOf x.v e.rst) i / 64).toNat
      let st := streamOf x.v e.tst
      let a := linesAt (rDesc s x.n st) st 0 (i % copiesOf x.v * e.lines + (line - first)) 1
      let w0 := (a.1 / 8).toNat
      let asks := [some (BankAcc.mk (bankOf w0) (0xA + e.cour) 3)]
      let s1 := tsWriteList x.p w0 ((List.range 8).map (fun j => lineWord v.1 v.2 j)) (bankAccesses x.p [asks] s).2
      putRound t { r with fetches := r.fetches.map (fun f => if f.1 == token && f.2.1 == i then (f.1, f.2.1, f.2.2 - 1) else f) } s1

/-- A remote refusal of a fetch aborts the round. -/
def postboxRefused (t token : Nat) (s : State) : State :=
  match (getTile s t).round with
  | none => s
  | some r =>
    let x := rxOf t r [] s
    match x.v.posts.find? (fun e => e.token == token) with
    | none => s
    | some e => refuseFetch t e r s

/-- POSTBOX_FETCH_DONE: when every line of the oldest fetch of a token has been written, the token is set for its copy; while the
round waits to start or is parked the tile's chute is raised (R297). -/
def execPostboxFetchDone (t : Nat) (token : BitVec 4) (s : State) : Host.Outcome State Fault Refusal :=
  onTile t s (fun s =>
    match (getTile s t).round with
    | none => s
    | some r =>
      match r.fetches.find? (fun f => f.1 == token.toNat && f.2.2 == 0) with
      | none => s
      | some f =>
        let x := rxOf t r [] s
        let s1 := putRound t { r with
          fetches := r.fetches.erase f, tokens := r.tokens ++ [(f.1, f.2.1 % copiesOf x.v)] } s
        if r.st = 1 ∨ r.st = 4 then raiseChute t s1 else s1)

/-- Every token that the WAIT entry names is set for the iteration of window w (R298). -/
def tokensSet (x : RX) (r : Round) (w : Nat) : Bool :=
  decide (x.iters ≤ w) || x.v.waits.all (fun y => (List.range 16).all (fun k =>
    !y.2.testBit k || r.tokens.contains (k, w % copiesOf x.v)))

/-- The windows of a tile's rounds are spaced by its die's thermal throttle (R701). -/
def throttled (t : Nat) (s : State) : Bool := s.sys.throttled.contains (physOf s t / 17)

/-- A period in which no entry acts: what is in flight goes on (R298, R701), and a strip of it that fails aborts the round as one of the last
window that ran (R313). A period waited for tokens counts in TR_STALLS. -/
def deferWindow (x : RX) (r : Round) (stalled : Bool) (s : State) : State :=
  let q := roundRun x .none x.v.period (s, r.replay)
  let s1 := putRound x.t { r with st := if stalled then 3 else r.st, spaced := true, replay := shiftReplay x.v.period q.2 } q.1
  let s2 := if stalled then updP s1 x.p (fun tl => tl.updReg 0x420 (· + 1)) else s1
  if q.2.fail.isSome then settleRound x.t s2 else s2

/-- A window whose tokens are set. Before the first one after a start come the implied reads that fall before it (R292). The round's
owners are active from it on, until the last window ends (R41). A strip or run that fails aborts the round once the strips and runs already
started have completed (R313). A hand-over falls at the end of every window (R396). -/
def actWindow (x : RX) (r : Round) (s : State) : State :=
  let p := x.v.period
  let s0 := setOwners x.t (some x.v.owners) (passBoundary x.t s)
  let q0 := if r.replay.since = r.window then leadReads x (s0, r.replay) else (s0, r.replay)
  let q := roundRun x .all p q0
  match q.2.fail with
  | none =>
    let s1 := putRound x.t { r with st := 2, window := r.window + 1, spaced := false, replay := shiftReplay p q.2 } q.1
    handOver x.p true (passBoundary x.t (if windowsOf x ≤ r.window + 1 then setOwners x.t none s1 else s1))
  | some f =>
    let q1 := roundRun x .all (p + drainLen) q0
    abortRound x.t f.cause f.vop f.pipe f.op f.strip r.window r.window (putRound x.t { r with replay := q1.2 } q1.1)

/-- Run the window that is due, or defer it by a period: for its tokens, or under the throttle after the window before it
(R298, R307, R701, R702). -/
def runWindow (t : Nat) (ups : List (Nat × Nat × Upset)) (s0 : State) : State :=
  match (getTile s0 t).round with
  | none => s0
  | some r0 =>
    let x0 := rxOf t r0 ups s0
    if throttled t s0 && !r0.spaced then deferWindow x0 r0 false s0
    else
      let s := fetchUpTo t (r0.window + x0.v.lead) 8 s0
      match (getTile s t).round with
      | none => s
      | some r =>
        let x := rxOf t r ups s
        if tokensSet x r r.window then actWindow x r s else deferWindow x r true s

/-- The declared pipes and couriers of a round are free of single instructions, and its pipes are awake (R306). -/
def roundReady (tl : Tile) (r : Round) : Bool :=
  !bit (tl.reg 0x004) 0 && (sheetCodes (sheetAt tl r.slot)).all (fun c => !(unitCodes tl).contains c && pipeAwake tl c)

/-- ROUND_WINDOW0_START: a round that waits to start begins its window once its pipes and couriers are ready; sleeping pipes
begin to wake (R306, R311). -/
def execRoundWindow0Start (t : Nat) (ups : List (Nat × Nat × Upset)) (s : State) : Host.Outcome State Fault Refusal :=
  onTile t s (fun s =>
    let tl := getTile s t
    match tl.round with
    | none => s
    | some r =>
      if r.st ≠ 1 then s
      else if !(dueCauses tl).isEmpty then stopRound t (dueCauses tl) s
      else if windowsOf (rxOf t r ups s) ≤ r.window then putRound t { r with st := 2 } s
      else if roundReady tl r then runWindow t ups s
      else updTile s t (wakePipes ((sheetCodes (sheetAt tl r.slot)).filter (· < 10))))

/-- ROUND_WINDOW_START: the next window of a running round starts, or is deferred until its tokens are set (R298, R307); a held
deferrable cause stops the round instead (R309, R310). -/
def execRoundWindowStart (t : Nat) (ups : List (Nat × Nat × Upset)) (s : State) : Host.Outcome State Fault Refusal :=
  onTile t s (fun s =>
    let tl := getTile s t
    match tl.round with
    | none => s
    | some r =>
      if r.st ≠ 2 ∧ r.st ≠ 3 then s
      else if !(dueCauses tl).isEmpty then stopRound t (dueCauses tl) s
      else if windowsOf (rxOf t r ups s) ≤ r.window then s
      else runWindow t ups s)

/-- A round completes: DONE is set, TR_RESUME is 0, and the tile's chute is raised (R308, R314). -/
def endRound (t : Nat) (s : State) : State :=
  raiseChute t (leaveRound t (updTile s t (fun tl => (tl.updReg 0x400 (fun v => setBit v 0)).setReg 0x418 0)))

/-- ROUND_END: after the last window, when what is in flight has completed, DONE is set and the tile's chute raised (R308); a strip that
fails in flight aborts the round (R313). -/
def execRoundEnd (t : Nat) (s : State) : Host.Outcome State Fault Refusal :=
  onTile t s (fun s =>
    match (getTile s t).round with
    | none => s
    | some r =>
      if r.st = 2 ∧ windowsOf (rxOf t r [] s) ≤ r.window then
        (let s1 := settleRound t s
         if (getTile s1 t).round.isSome then endRound t s1 else s1)
      else s)

/-! ### RCALL and RWAIT -/

/-- The refusals of RCALL in order (R305). -/
def callStatus (tl : Tile) (w : Word) (n : Nat) : Option Nat :=
  let k := wfld w 7 0
  let sh := sheetAt tl k
  let v := parseSheet sh.entries
  if 8 ≤ k ∨ !sh.loaded ∨ sh.gen.toNat ≠ wfld w 31 8 then some 0x0310
  else if v.maxIter < n then some 0x0311
  else if (List.range 8).any (fun c => v.pipes.testBit c && retired tl c) then some 0x0306
  else none

/-- Accept a round of n ≥ 1 iterations: it waits to start, at window TR_RESUME under MODE.RESUME (R306, R314), and the fetches up
to its LEAD are issued (R296). -/
def acceptRound (t : Nat) (w : Word) (n : Nat) (s : State) : State :=
  let tl := getTile s t
  let from_ := if tl.eng.resume then (tl.reg 0x418).toNat else 0
  let r : Round := ⟨wfld w 7 0, BitVec.ofNat 24 (wfld w 31 8), n, 1, from_, [], [], from_, true, [], tl.roundNo, { Replay.empty with since := from_ }⟩
  let s1 := updTile (putRound t r s) t (fun tl => { tl with roundNo := tl.roundNo + 1 })
  let x := rxOf t r [] s1
  fetchUpTo t (from_ + x.v.lead) 8 s1

/-- A round runs on the engine's tile. A handler's RCALL or RWAIT while a round is parked faults F_RANGE, naming v (R312). -/
def roundHolds (c : WCtx) (v : Word) : NM Bool := do
  let s ← get
  match (engTile c.e).bind (fun t => (getTile s t).round) with
  | none => return false
  | some r =>
    if r.st == 4 && decide (0 < (getEng s c.e).hlevel) then rangeFault c v
    return true

/-- The wait of RWAIT: no round runs on the tile (R134, R312). -/
def rwaitReady (c : WCtx) : NM Bool := do
  let b ← roundHolds c 0
  return !b

/-- The outcome of RCALL on an engine: the status of a refusal. DEDUCED (log 13): a postmaster has no sheet slot, so that no SHEET matches
one there. DESIGN CHOICE (log 58): a refusal comes before an iteration count of 0 is looked at. -/
def callOn (e : EngineId) (h : Word) (n : Nat) (s : State) : Option Nat × State :=
  match e with
  | .tile t => match callStatus (getTile s t) h n with
    | some code => (some code, s)
    | none => (none, if n = 0 then s else acceptRound t h n s)
  | _ => (some 0x0310, s)

/-- RCALL: checks its operands, waits for a running round, at no instruction boundary, and then starts round h for n iterations or refuses
with a status (R132, R133, R170, R171, R305, R312). DESIGN CHOICE (log 58): the wait comes before a refusal. -/
def execRcall (e : EngineId) (s : State) : Host.Outcome State Fault Refusal :=
  runLong e (wspec 0x4C 0 4 2 2 0) (fun c => do
    let h ← needTag c 0 6 4
    let n ← needNum c 1
    if 2 ^ 32 ≤ n.data.toNat then rangeFault c n.data
    modify (drainAll c.e)
    if ← roundHolds c h.data then return .hold
    popD c 2
    match ← modifyGet (callOn c.e h.data n.data.toNat) with
    | some code =>
      pushD c ⟨BitVec.ofNat 64 code, 1⟩
      setFlags c { FlagUpd.none with v := some true }
    | none => setFlags c { FlagUpd.none with v := some false }
    return .seq) s

/-- RWAIT: waits until no round runs on the tile (R134, R308, R312). -/
def execRwait (e : EngineId) (s : State) : Host.Outcome State Fault Refusal :=
  runWait e (wspec 0x4D 0 2 0 0 0) rwaitReady
    (fun c => do
      nMod c (fun x => { x with lines := [], known := x.cycles })
      return .seq) s

end Sys2Proof.Machine
end

