-- ==== Sys2Proof/Machine/Post.lean ====
section
/-! DEFINITION. The envelopes in hand, their headers and their receipts (spec 10), and the postmaster's event log (R668). -/
namespace Sys2Proof.Machine

open Sys2Proof

/-- UNSOLICITED_RECEIPT_FLUSH (R501). -/
def execUnsolicitedReceiptFlush (f : Fn) (s : State) : Host.Outcome State Fault Refusal :=
  onUnit (match f with | .pf => true | .vf n => decide (n < 1024)) s (flushUnsol f 17)

/-! ### Envelopes in hand -/

/-- The function and mailbag of a place; none for an ESEND queue. -/
def placeBag : Place → Option (Fn × Nat)
  | .tenantBag n m => some (.vf n, m)
  | .pfBag m => some (.pf, m)
  | .esend _ => none

def envAt (s : State) (p : Place) (st : EnvSt) : Option Env := s.envs.find? (fun e => e.place == p && e.st == st)
/-- The executing envelope of a place. -/
def running (s : State) (p : Place) : Option Env := envAt s p .executing
def putEnv (old new : Env) (s : State) : State := { s with envs := s.envs.map (fun e => if e == old then new else e) }
def dropEnv (e : Env) (s : State) : State := { s with envs := s.envs.erase e }

/-- Header fields of an envelope (R452). -/
def hOpcode (e : Env) : Nat := wfld (wordAt e.words 0) 6 0
/-- The executing envelope of a place with an opcode that waits for remote request x. -/
def runningOn (s : State) (p : Place) (op x : Nat) : Option Env :=
  s.envs.find? (fun e => e.place == p && e.st == .executing && hOpcode e == op && e.phase == 1 && e.wait == x)
def hFlags (e : Env) : Nat := wfld (wordAt e.words 0) 15 8
def hTenant (e : Env) : Nat := wfld (wordAt e.words 0) 25 16
def hPayload (e : Env) : Nat := wfld (wordAt e.words 0) 47 32
def hWaitBag (e : Env) : Nat := wfld (wordAt e.words 0) 53 48
def hSeq (e : Env) : Word := wordAt e.words 1
def hDeliver (e : Env) : Word := wordAt e.words 2
def hWaitSeq (e : Env) : Word := wordAt e.words 3
def hArg0 (e : Env) : Word := wordAt e.words 4
def hArg1 (e : Env) : Word := wordAt e.words 5
/-- Word i of the payload. -/
def payWord (e : Env) (i : Nat) : Word := wordAt e.words (8 + i)
/-- Bits [6:0], and every other bit zero, of a payload from word i on. -/
def payZeroFrom (e : Env) (i : Nat) : Bool := (e.words.drop (8 + i)).all (· == 0)

/-- The tenant an envelope acts for: its origin's, or for the PF the one its header names (R453). -/
def envTenant (e : Env) : Nat :=
  match e.place with
  | .tenantBag n _ => n
  | .pfBag _ => hTenant e
  | .esend _ => e.origin.1
/-- The requester of an envelope as a function. -/
def envFn (e : Env) : Fn :=
  match e.place with
  | .tenantBag n _ => .vf n
  | .pfBag _ => .pf
  | .esend _ => .vf e.origin.1

/-- MB_STATUS.BUSY. -/
def setBusy (f : Fn) (m : Nat) (v : Bool) (s : State) : State := updBag s f m (fun b => { b with status := putBit b.status 3 v })

/-- Statuses of envelopes that were never accepted (R433, R470). -/
def notAccepted (st : Nat) : Bool := decide (0x0103 ≤ st ∧ st ≤ 0x0106)

/-- Key-store slot of a function's franking key (R424). -/
def frankSlot : Fn → Nat
  | .pf => 0x100
  | .vf n => 0x400 + n

/-- The franking key of a session that has ended is destroyed once no receipt of it is pending (R436). -/
def sweepKey (f : Fn) (s : State) : State :=
  let pending := s.envs.any (fun e => (placeBag e.place).map (·.1) == some f)
  if (getSpdm s f).sessions.isEmpty && (getKey s (frankSlot f)).key.isSome && !pending then zeroKey s (frankSlot f) else s

/-- The other envelopes accepted under an old session's key share its counter, which increments with each receipt (R434, R436). -/
def passCtr (e : Env) (s : State) : State :=
  { s with envs := s.envs.map (fun x =>
      if placeBag x.place == placeBag e.place && x.franking == e.franking && e.oldCtr.isSome then { x with oldCtr := x.oldCtr.map nextCtr }
      else x) }

/-- Write the receipt of an envelope that is done, under the key and counter of its fetch; DONE_SEQ follows when it was accepted
(R434, R436, R455, R475). -/
def answer (e : Env) (s : State) : State :=
  let cost := if e.ran then (s.sclk - e.startedAt) * 20 else 0
  let status := if e.status = 0 ∧ 0 < e.late then 1 else e.status.toNat
  let w0 := receiptW0 status e.late cost
  let w1 := receiptW1 (if e.status = 0x0103 then 0 else hSeq e) e.result
  match placeBag e.place with
  | some (f, m) =>
    let key := if e.franking = .raw then none else some e.franking
    let s1 := sweepKey f (passCtr e (writeReceipt f m key e.oldCtr w0 w1 (setBusy f m false (dropEnv e s))))
    updBag s1 f m (fun b => { b with
      doneSeq := if !notAccepted status && e.oldCtr.isNone && decide (b.doneSeq.toNat < (hSeq e).toNat) then hSeq e else b.doneSeq })
  | none =>
    { dropEnv e s with esendReceipts := s.esendReceipts ++ [(e.origin.1, e.origin.2, e.receiptAt, [w0, w1, 0, 0])] }

/-- The maintenance activity of an envelope is over (R663). -/
def endActivity (p : Place) (s : State) : State :=
  { s with sys := { s.sys with activities := s.sys.activities.filter (fun a => a.place != some p) } }

/-- An envelope ends with a status and a result; a full tray makes its receipt wait. -/
def finishEnv (e : Env) (status : Nat) (result : Nat) (s : State) : State :=
  let e1 := { e with st := .answered, status := BitVec.ofNat 16 status, result := BitVec.ofNat 32 result }
  let s1 := putEnv e e1 (endActivity e.place s)
  match placeBag e.place with
  | some (f, m) => if trayRoom (getBag s f m) then answer e1 s1 else s1
  | none => answer e1 s1

/-- Receipts that waited for space in a tray (R464). -/
def flushAnswered (f : Fn) (m : Nat) (s : State) : State :=
  match s.envs.find? (fun e => placeBag e.place == some (f, m) && e.st == .answered) with
  | some e => if trayRoom (getBag s f m) then answer e s else s
  | none => s

/-- A primary postmaster serves envelopes: the device is ready and not fenced, is not in DOZE, and no hand-over has paused service
(R619, R653, R660, R670). -/
def pmServes (s : State) : Bool :=
  s.sys.phase == .ready && s.sys.ready && !s.sys.fenced && (s.sys.stateA == 2 || s.sys.stateB == 2) &&
  (s.sys.doze == .run || s.sys.doze == .entering) && !(s.sys.handover == some 4 || s.sys.handover == some 5)

/-- A journal record of a step (R654). -/
def journal (s : State) : State := { s with sys := { s.sys with journal := s.sys.journal + 1 } }

/-- The executing envelopes of a place with an opcode: one at most of a mailbag (R473), more of a tile's queue (R480). -/
def runningAll (s : State) (p : Place) (op : Nat) : List Env :=
  s.envs.filter (fun e => e.place == p && e.st == .executing && hOpcode e == op)

/-- An opcode's next step on each executing envelope of a place; where none with that opcode executes there, or none is served: nothing. -/
def onEnv (p : Place) (op : Nat) (s : State) (k : Env → State → State) : Host.Outcome State Fault Refusal :=
  .next (if pmServes s then forL (runningAll s p op) (fun e s => if s.envs.contains e then journal (k e s) else s) s else s)

/-- Record an entry of the postmaster event log (R668). -/
def logEvent (kind detail : Nat) (s : State) : State := { s with sys := { s.sys with eventLog := s.sys.eventLog ++ [(kind, detail)] } }

/-- The fault counter of a requester. -/
def bumpFaults (f : Fn) (s : State) : State :=
  match f with
  | .pf => { s with pfFaults := s.pfFaults + 1 }
  | .vf n => updTen s n (fun t => { t with faults := t.faults + 1 })

end Sys2Proof.Machine
end

