-- ==== Sys2Proof/Machine/Chutes.lean ====
section
/-! DEFINITION. Chutes, presentations and grants of interrupts, tile pools, MSI-X messages and the filtered inputs (spec 12). -/
namespace Sys2Proof.Machine

open Sys2Proof

/-! ### Targets (R564 to R567) -/

/-- Service priority of an engine: the highest among the interrupts whose handlers it is running; 16 times none is below 0, so
the result is one more than the priority (R565, R569). -/
def serviceOf (x : Engine) : Nat := x.svc.foldl (fun a p => match p with | some q => max a (q + 1) | none => a) 0

/-- The interrupt controller that serves an engine: IC0 for dies C0 to C3 and postmaster A, IC1 otherwise (R564). -/
def icOf (s : State) : EngineId → Bool
  | .tile t => decide (68 ≤ physOf s t)
  | .pmA => false
  | .pmB => true

/-- The engine of the primary postmaster. -/
def primaryOf (s : State) : Option EngineId := if s.sys.stateA = 2 then some .pmA else if s.sys.stateB = 2 then some .pmB else none

/-- An engine to which an interrupt may be granted: running, powered, and the device not in DOZE (R567, R580). -/
def mayTake (s : State) (e : EngineId) : Bool :=
  (getEng s e).runstate == 1 && !inDoze s &&
  (match e with
    | .tile t => !(getTile s t).poweredDown && !bit ((getTile s t).reg 0x004) 0
    | _ => true)

/-- An engine stands where it accepts a presentation; none while the entry of another interrupt has not reached its handler's first word
(R566, R567, R576). -/
def canAccept (s : State) (e : EngineId) : Bool :=
  let x := getEng s e
  mayTake s e && atBoundary x && decide (x.hlevel < 15) && !x.isSealed && !x.dfault && (takeable x).isNone && x.entering.isNone &&
  (match e with
    | .tile t => !bit ((getTile s t).reg 0x200) 1
    | _ => true)

/-- A chute that may be presented to a target of that service priority. -/
def eligible (x : Chute) (svc : Nat) : Bool := x.pending && !chuteMask x && decide (svc < chutePrio x + 1)

/-! ### Pools (R570) -/

/-- The tenant of a pool chute. -/
def poolTenant (x : Chute) : Option Nat := if chuteKind x = 4 ∧ fld x.owner 31 30 = 2 then some (fld x.owner 9 0) else none

/-- The logical tiles of a pool chute's side that its tenant holds and that run. -/
def poolTiles (s : State) (x : Chute) : List Nat :=
  match poolTenant x with
  | none => []
  | some n => (List.range (nTiles s)).filter (fun t =>
      let tl := getTile s t
      (tl.owner.map (·.1)) == some n && tl.eng.runstate == 1 && (icOf s (.tile t) == decide (chuteIndex x = 1)))

/-- The first tile after k, in logical order, that could accept the chute. -/
def poolNext (s : State) (x : Chute) (k : Nat) : Option Nat :=
  let ts := (poolTiles s x).filter (fun t => eligible x (serviceOf (getTile s t).eng))
  match ts.find? (fun t => decide (k < t)) with
  | some t => some t
  | none => ts.head?

/-- The tile to which a pool chute is presented: after the tile whose presentation was withdrawn, otherwise after the pointer. -/
def poolTarget (s : State) (x : Chute) : Option Nat := poolNext s x (x.presented.getD x.ptr)

/-! ### Selection -/

/-- Whether chute c is presented to an engine. -/
def targets (s : State) (e : EngineId) (c : Nat) : Bool :=
  let x := getChute s c
  match e with
  | .tile t => (chuteKind x == 1 && chuteIndex x == t) || ((poolTenant x).isSome && poolTarget s x == some t)
  | _ => chuteKind x == 2 && primaryOf s == some e

/-- The chute presented to an engine whose service priority is svc − 1: the highest priority, then the lowest number (R565). -/
def presentedTo (s : State) (e : EngineId) (svc : Nat) : Option Nat :=
  if bit (icCtrl s (icOf s e)) 31 then none
  else
    (List.range 256).foldl (fun (a : Option Nat) c =>
      let x := getChute s c
      if targets s e c && eligible x svc then
        (match a with
          | some b => if chutePrio (getChute s b) < chutePrio x then some c else some b
          | none => some c)
      else a) none

/-- A grant: PENDING is cleared, and a pool's pointer moves to the tile (R566, R570). -/
def grantChute (e : EngineId) (c : Nat) (s : State) : State :=
  updChute s c (fun x => { x with
    pending := false
    ptr := match e with | .tile t => if (poolTenant x).isSome then t else x.ptr | _ => x.ptr
    presented := none })

/-- FADDR of an interrupt (R175). -/
def irqFaddr (c prio : Nat) : Word := BitVec.ofNat 64 (prio * 2 ^ 8 + c)

/-- Interrupt entry is a deferrable stop when TV_CTRL.INT_STOP is 1 (R244). -/
def intStop (e : EngineId) (s : State) : State :=
  match e with
  | .tile t => updTile s t (fun tl =>
      if bit (tl.reg 0x304) 2 then { tl with stops := addOnce tl.stops 2, eng := { tl.eng with intParked := true, intActed := false } } else tl)
  | _ => s

/-- An FRET whose frame interrupt c takes over: its word and checks come first; FADDR and the service become those of c, whose handler is
requested in the second cycle after the arrival in X2 to X5 (R578; which of them is a free value, log 10). -/
def fretGrant (e : EngineId) (k : Nat) : NM Unit := do
  let c : WCtx := ⟨e, 0x74, 0, longWord 0x74 0⟩
  beginWord c
  decodeLong c fretSpec
  stackPrep c fretSpec.use
  discard (fretChecks c)
  let s ← get
  let prio := chutePrio (getChute s k)
  set (tick (grantChute e k s))
  addCyc c (3 + Config.waits s.free % 4)
  nMod c (fun y => { y with
    ds := setAt y.ds 1 ⟨irqFaddr k prio, 1⟩, svc := some prio :: y.svc.drop 1, entering := some k, pc := handlerPc 0x10,
    npc := codeAdd (handlerPc 0x10) 4, dslot := false, annulled := false, mid := false, waiting := false, busy := false, stall := 0,
    known := y.cycles - 1 })
  fetchAt c (handlerPc 0x10) none

/-- An interrupt chosen at a service is granted and entered with a frame of its own (R566, R577). -/
def enterGrant (e : EngineId) (svc : Nat) (s : State) : State :=
  match presentedTo s e svc with
  | none => s
  | some c => intStop e (takeInterrupt e c (chutePrio (getChute s c)) (grantChute e c s))

/-- INTERRUPT_GRANT. Phase 0: the presentation is accepted at a boundary and the interrupt is entered (R566); an arrival in or after the
first cycle of a handler's first word is this, and in X6 of an FRET too, after it (R577, R579). Phase 1: it arrives during the entry of another,
which it replaces, with one cycle more when that is E4 (R576). Phase 2: it arrives in X2 to X5 of an FRET from an interrupt level, whose frame
it takes over (R578). Phase 3: it arrives in X1 of such an FRET, which is not begun: it is taken at the boundary before, with a frame of its
own (R579). -/
def execInterruptGrant (e : EngineId) (phase : BitVec 2) (s : State) : Host.Outcome State Fault Refusal :=
  onUnit (engExists s e) s (fun s =>
    let x := getEng s e
    if phase = 0 then
      (if canAccept s e then enterGrant e (serviceOf x) s else s)
    else if phase = 1 then
      match x.entering with
      | none => s
      | some l =>
        if !mayTake s e then s
        else
        match presentedTo s e (serviceOf x) with
        | none => s
        | some c =>
          let prio := chutePrio (getChute s c)
          let s1 := tick (raiseChute l (grantChute e c s))
          updEng s1 e (fun y => { y with
            ds := setAt y.ds 1 ⟨irqFaddr c prio, 1⟩, svc := some prio :: y.svc.drop 1, entering := some c,
            cycles := y.cycles + BitVec.ofNat 64 (Config.waits s.free % 2) })
    else
      match x.svc with
      | some _ :: rest =>
        let left := serviceOf { x with svc := rest }
        if phase = 3 then (if canAccept s e then enterGrant e left s else s)
        else if mayTake s e && atBoundary x && !x.mid && !x.waiting && !x.annulled && decide (x.hlevel < 15) && !x.isSealed && !x.dfault then
          match presentedTo s e left with
          | none => s
          | some c => runWord e (fretGrant e c) s
        else s
      | _ => s)

/-- CHUTE_EVENT: a producer event sets PENDING; tile chutes above the tiles and the reserved chutes have no producer (R552,
R553). -/
def execChuteEvent (c : Nat) (s : State) : Host.Outcome State Fault Refusal :=
  onUnit (decide (c < 256)) s (fun s =>
    if (c < 128 ∧ nTiles s ≤ c) ∨ (164 ≤ c ∧ c < 192) then s else chuteEvent c s)

/-- POOL_PRESENTATION_TIMEOUT: the presentation is withdrawn and the next target chosen (R570). -/
def execPoolPresentationTimeout (c : Nat) (s : State) : Host.Outcome State Fault Refusal :=
  onUnit (decide (c < 256)) s (fun s =>
    let x := getChute s c
    if (poolTenant x).isSome && x.pending && !chuteMask x then setChute s c { x with presented := poolTarget s x } else s)

/-! ### MSI-X (R571 to R573) -/

/-- Number of vectors of a function; whether vector v exists. -/
def vecExists : Fn → Nat → Bool
  | .pf, v => decide (v < 2048)
  | .vf n, v => decide (n < 1024) && decide (v < 16)

def fnKey : Fn → Nat
  | .pf => 0
  | .vf n => n + 1
def fnMasked (s : State) (f : Fn) : Bool := tget (fun _ => false) s.fmask (fnKey f)

/-- The spacing since the previous message is over. -/
def spaced (s : State) (x : Vec) (m : Nat) : Bool := match x.last with | some t => decide (t + m ≤ s.sclk) | none => true

/-- A vector's conditions of R571 are met. -/
def vecDue (s : State) (f : Fn) (x : Vec) : Bool :=
  let q := vecTerms s f x
  decide (1 ≤ x.events) && (decide (q.1 ≤ x.events) || decide (x.first + q.2.1 ≤ s.sclk)) && spaced s x q.2.2

/-- The SCLK in which a vector that is due became so. -/
def dueAt (s : State) (f : Fn) (x : Vec) : Nat :=
  let q := vecTerms s f x
  max (if q.1 ≤ x.events then min x.reached (x.first + q.2.1) else x.first + q.2.1) ((x.last.map (· + q.2.2)).getD 0)

/-- Function and number of the vector with a key. -/
def vecOfKey (k : Nat) : Fn × Nat := if k < 16384 then (.vf (k / 16), k % 16) else (.pf, k - 16384)

/-- Vector v of f waits for another that became due in the same SCLK, is not masked, and goes first: it has the higher chute priority, or the
lower number when no chute fed either (R573; DESIGN CHOICE, log 48: an SCLK stands for R573's MCLK). -/
def givesWay (s : State) (f : Fn) (v : Nat) : Bool :=
  let x := getVec s f v
  s.vecs.any (fun kv =>
    let o := vecOfKey kv.1
    let y := kv.2
    !vecMask y && !fnMasked s o.1 && vecDue s o.1 y && dueAt s o.1 y == dueAt s f x &&
    (decide (x.prio < y.prio) || (x.prio == 0 && y.prio == 0 && decide (o.2 < v))))

/-- Send the message of a vector. -/
def sendMsix (f : Fn) (v : Nat) (s : State) : State :=
  emit (.msix f v) (updVec s f v (fun x => { x with events := 0, last := some s.sclk, pendingBit := false, prio := 0 }))

/-- A vector whose Mask bit has been written sends the message that its Pending Bit stands for, when it is unmasked and the spacing allows
(R572); E then counts from 0 again (R571). -/
def unmasked (f : Fn) (v : Nat) (s : State) : State :=
  let x := getVec s f v
  if x.pendingBit && !vecMask x && !fnMasked s f && !bit s.ic0 31 && !inDoze s && spaced s x (vecTerms s f x).2.2 then sendMsix f v s else s

/-- Masks written are in force: for chute c or every chute, a presentation not granted is withdrawn and PENDING stays; for vectors too
(R574, R575). -/
def chuteInForce (c : Nat) (s : State) : State :=
  let x := getChute s c
  if x.masking then setChute s c { x with masking := false, presented := none } else s
def vecInForce (f : Fn) (v : Nat) (s : State) : State :=
  let x := getVec s f v
  if x.masking then setVec s f v { x with masking := false } else s
def masksInForce (s : State) : State :=
  let s1 := forL (s.chutes.map (·.1)) chuteInForce s
  { s1 with vecs := tmap Vec.reset (fun x => { x with masking := false }) s1.vecs }

/-- MSIX_MESSAGE: a vector whose conditions are met sends its message in its turn, or, masked, sets its Pending Bit (R568, R571 to
R573). -/
def execMsixMessage (f : Fn) (v : Nat) (s : State) : Host.Outcome State Fault Refusal :=
  onUnit (vecExists f v) s (fun s =>
    let x := getVec s f v
    if bit s.ic0 31 || inDoze s then s
    else if vecMask x || fnMasked s f then (if vecDue s f x then setVec s f v { x with events := 0, pendingBit := true, prio := 0 } else s)
    else if (vecDue s f x && !givesWay s f v) || (x.pendingBit && spaced s x (vecTerms s f x).2.2) then sendMsix f v s else s)

/-- MSIX_VECTOR_UNMASK: the vector's Mask bit is cleared; a set Pending Bit sends one message as soon as the spacing allows
(R572). -/
def execMsixVectorUnmask (f : Fn) (v : Nat) (s : State) : Host.Outcome State Fault Refusal :=
  onUnit (vecExists f v) s (fun s =>
    unmasked f v (updVec s f v (fun x => { x with mask := false, masking := false })))

/-! ### External inputs (R561, R562) -/

def getFilter (s : State) (i : Nat) : Filter := tget (fun _ => Filter.reset) s.filters i
def setFilter (i : Nat) (x : Filter) (s : State) : State := { s with filters := tset (fun _ => Filter.reset) s.filters i x }

/-- The filtered level follows the input once LENGTH samples have been taken at its level and 2 SCLK have passed; an assertion is one event
of WAKE_N's or THERM_IN_N's chute, or of every PF chute whose EXT selects the input (R561 to R563). -/
def settleFilter (i : Nat) (s : State) : State :=
    let x := getFilter s i
    let s1 := setFilter i { x with level := x.raw } s
    if x.raw == x.level || decide (s.sclk < x.since + x.length.toNat) then s
    else if x.raw then
      if i = 0 then chuteEvent 163 s1
      else if i = 5 then chuteEvent 161 s1
      else forL ((List.range 64).map (· + 192)) (fun c s =>
        let y := getChute s c
        if fld y.owner 31 30 == 1 && y.cfg.getLsbD (i - 1) then chuteEvent c s else s) s1
    else s1

/-- INPUT_FILTER_CHANGE: the input stands at a level. A level other than that of the samples before restarts the count, whose first sample is
the next SCLK's; the filtered level changes when the count is complete (R561, R562). -/
def execInputFilterChange (i : Nat) (level : Bool) (s : State) : Host.Outcome State Fault Refusal :=
  onUnit (decide (i < 6)) s (fun s =>
    let x := getFilter s i
    if level == x.raw then settleFilter i s else setFilter i { x with raw := level, since := s.sclk + 2 } s)

end Sys2Proof.Machine
end

