-- ==== Sys2Proof/Machine/Fabric.lean ====
section
/-! DEFINITION. The sorting office and its links: frames and retry, lanes, training and keying, transit, remote requests served
and answered, and address books (spec 11). -/
namespace Sys2Proof.Machine

open Sys2Proof

/-! ### Port status -/

/-- The sorting office raises its maintenance event (R551). -/
def fabricEvent (s : State) : State := chuteEvent 152 s

/-- Frame boundaries are counted up to now, before the rate changes (R505). -/
def settleFrames (p : Nat) (s : State) : State := updPort s p (fun q => { q with frames := framesNow s q, framesAt := s.sclk })

def setPortState (p v : Nat) (s : State) : State :=
  updPort (settleFrames p s) p (fun q => { q with status := setFld q.status 2 0 v })

/-- LANE_UP and LANES as the state and the usable lanes make them: lane 0 alone at the DOZE rate (R539). -/
def showLanes (p : Nat) (s : State) : State :=
  updPort s p (fun q =>
    let u := if fld q.status 2 0 = 5 then 1 else if fld q.status 2 0 < 2 then 0 else q.usable.toNat
    { q with status := setFld (setFld q.status 19 12 u) 11 8 (lanesOff u) })

/-- Set a status bit of port p that has an event (R551). -/
def portFlag (p b : Nat) (s : State) : State :=
  let old := (getPort s p).status
  let s1 := updPort s p (fun q => { q with status := setBit q.status b })
  if bit old b then s1 else fabricEvent s1

/-- FX_STATUS.LOW_RATE: some port runs at the DOZE rate. -/
def showLow (s : State) : State :=
  updFx 0x04 (fun v => putBit v 1 ((List.range 32).any (fun p => portState s p == 5))) s

/-- Letters held by a port for sending or resending. -/
def heldLetters (q : Port) : Nat :=
  (q.resend.flatMap (·.cells)).length + (q.sending.flatMap (·.2.left)).length + q.outq.foldl (fun n x => n + cells x.msg) 0

/-- The keys of a link are destroyed when it goes down (R424). -/
def dropLinkKeys (p : Nat) (s : State) : State :=
  forL [linkSlot p false, linkSlot p true] destroyKey s

/-- The buffers in which messages that came by port p stand are gone with its link. -/
def forgetBuffers (p : Nat) (s : State) : State :=
  forN 32 (fun o s =>
    let q := getPort s o
    if q.outq.any (fun x => x.input == p) || q.sending.any (fun x => x.2.input == p) then
      updPort s o (fun q => { q with
        outq := q.outq.map (fun x => if x.input == p then { x with hold := 0 } else x),
        sending := q.sending.map (fun x => (x.1, if x.2.input == p then { x.2 with hold := 0 } else x.2)) })
    else s) s

/-- A port goes DOWN: DOWNED is set, the letters it held are discarded and counted, their buffers are free, no tenant keeps a deficit there, and its
keys are destroyed (R424, R502, R505, R508, R509, R536). -/
def portDown (p : Nat) (s : State) : State :=
  let q0 := getPort s p
  let s0 := forL q0.sending (fun x s => freeCells x.2.input x.2.key x.2.hold s) (forL q0.outq (fun x s => freeCells x.input x.key x.hold s) s)
  let s1 := updPort { s0 with tenants := tmap Tenant.reset (fun t => { t with deficit := setCount t.deficit p 0 }) s0.tenants } p (fun q => { q with
    status := setFld q.status 2 0 0, resend := [], outq := [], sending := [], credits := [], held := [], owed := [], part := [], hs := [], own := [],
    rekeying := false, stopped := false, fails := 0, nakSet := false, ackDue := false, rxTurn := none, rxKey := none, asked := false,
    attempts := 0, retryAt := 0 })
  let s2 := showLow (portFlag p 4 (dropLetters (heldLetters q0) (showLanes p (dropLinkKeys p s1))))
  drainPort p (forgetBuffers p s2)

/-! ### Letters of this device -/

/-- Words packed into body letters. -/
def bodyOfWords (ws : List Word) : List (BitVec 512) :=
  (List.range (cdiv ws.length 8)).map (fun i =>
    BitVec.ofNat 512 (forN 8 (fun j a => a + (wordAt ws (8 * i + j)).toNat * 2 ^ (64 * j)) 0))
/-- The words of body letters. -/
def bodyWords (b : List (BitVec 512)) : List Word := b.flatMap (fun x => (List.range 8).map (fun j => x.extractLsb' (64 * j) 64))

/-- The peer that the HELLO of a port reported. -/
def peerValid (q : Port) : Bool := bit q.peer 31
def peerId (q : Port) : BitVec 14 := BitVec.ofNat 14 (fld q.peer 18 5)

/-- The one-hop path out of port p. -/
def onePort (p : Nat) : Nat × BitVec 40 := (1, BitVec.ofNat 40 p)

/-- A LINK letter with SUB leaves on port p for the neighbour (R517, R518). -/
def sendLink (p sub : Nat) (body : List (BitVec 512)) (s : State) : State :=
  enqueue p { headFor s (onePort p) (peerId (getPort s p)) 0 0x10 with args := BitVec.ofNat 192 sub, body := body } s

/-- The words of a firmware image as the digests and the verification see them. -/
def imageWords (s : State) (b : Bool) : List Word :=
  (if b then s.flashB else s.flashA).bytes.map (fun kv => BitVec.ofNat 64 (kv.1 * 256 + kv.2.toNat))

/-- The chain of certificate slot 0: root CA and device CA, the DeviceID certificate of the active flash device, and the Alias certificate,
which the DeviceID key issues for the Alias key in force (R416). -/
def chainOf (s : State) : List Word :=
  let body := Config.aliasBody (aliasKey s)
  Config.caChain ++ Config.deviceCert (imageWords s s.sys.active) ++ body ++ Config.sign .deviceId body

/-- HELLO, KEYSHARE and CERT of this device (R437). The ephemeral point is a fresh draw. -/
def sendHandshake (p : Nat) (s : State) : State :=
  let hello := Config.helloBody (ownId s) p (named s) s.sys.fenced
  let share := Config.keyshareBody s.free
  let s1 := updPort (tick s) p (fun q => { q with own := [hello, share], ephemeral := s.free })
  sendLink p 3 (bodyOfWords (chainOf s)) (sendLink p 2 share (sendLink p 1 hello s1))

/-! ### The exchange of a link (R437) -/

/-- The bytes of body letters. -/
def bodyBytes (b : List (BitVec 512)) : List Nat := b.flatMap (fun x => toBytes 64 x.toNat)
/-- The 97-byte point of a KEYSHARE, as a big-endian number. -/
def pointOf (b : List (BitVec 512)) : Nat := beNat ((bodyBytes b).take 97)
/-- This end comes first: its KEYSHARE point is the lower. -/
def ownFirst (q : Port) : Bool := decide (pointOf (nthD [] q.own 1) < pointOf (nthD [] q.hs 1))
/-- The transcript: HELLO and KEYSHARE of the first end, then of the second. -/
def transcript (q : Port) : List Word :=
  let a := q.own.flatMap bodyWords
  let b := (q.hs.take 2).flatMap bodyWords
  if ownFirst q then a ++ b else b ++ a
/-- The key of the direction in which this end transmits, or receives. -/
def linkKey (q : Port) (rx : Bool) : Key := .link (sha384 (transcript q)) (Config.sharedX q.ephemeral (nthD [] q.hs 1)) (ownFirst q == rx)

/-- A new-key exchange begins at this end (R438, R506). -/
def startRekey (p : Nat) (s : State) : State := sendHandshake p (updPort s p (fun q => { q with rekeying := true }))
/-- The exchange ends: the old transmit key is destroyed and the new one written; from the next frame on KEYPHASE differs. The new receive key
waits for the peer's change of KEYPHASE (R424, R437, R506). The first keys of a link come in the same way (DEDUCED, log 22). -/
def installKeys (p : Nat) (s : State) : State :=
  let q := getPort s p
  updPort (writeKey (destroyKey (linkSlot p false) s) (linkSlot p false) (linkKey q false)) p (fun x => { x with
    rekeying := false, stopped := false, txBase := framesNow s q, txNext := 0, txPhase := !q.txPhase, rxKey := some (linkKey q true),
    keyTime := s.sclk, hs := [[], [], []], own := [] })

/-- The link has no transmit key yet. -/
def keyless (s : State) (p : Nat) : Bool := (getKey s (linkSlot p false)).key.isNone

/-! ### Frames -/

/-- The fields of a control word (R503). -/
def frameFseq (fr : Frame) : BitVec 16 := fr.control.extractLsb' 48 16
def frameAck (fr : Frame) : BitVec 16 := fr.control.extractLsb' 32 16
def frameNak (fr : Frame) : Bool := fr.control.getLsbD 31
def framePhase (fr : Frame) : Bool := fr.control.getLsbD 30
def frameCredits (fr : Frame) : List (BitVec 13) := [fr.control.extractLsb' 13 13, fr.control.extractLsb' 0 13]

/-- Descriptor k of a frame, and its valid cells with the letters `cs` of its cells. -/
def frameDesc (fr : Frame) (k : Nat) : BitVec 8 := fr.desc.extractLsb' (8 * k) 8
def frameCells (fr : Frame) (cs : List (BitVec 512)) : List PortCell :=
  (List.range 15).filterMap (fun k =>
    let d := frameDesc fr k
    if d.getLsbD 7 then some ⟨d.getLsbD 6, d.getLsbD 5, d.extractLsb' 3 2, d.extractLsb' 0 3, nthD 0 cs k⟩ else none)

/-- A frame that carries no cell and no credit return is an idle one, which takes no FSEQ (DESIGN CHOICE, log 22). -/
def frameIdle (fr : Frame) : Bool :=
  (List.range 15).all (fun k => !(frameDesc fr k).getLsbD 7) && (frameCredits fr).all (fun c => c.extractLsb' 0 8 == 0)

/-- Frame f stands before the next FSEQ that the peer expects. -/
def acked (ack f : BitVec 16) : Bool := decide ((ack - f).toNat ≤ 128) && ack != f

/-- Add a credit return of a control word (R509). -/
def addCredit (c : BitVec 13) (q : Port) : Port :=
  { q with credits := setCount q.credits (c.toNat / 256) (count q.credits (c.toNat / 256) + c.toNat % 256) }

/-- Resend every frame kept, each encrypted again under its new batch number (R507). -/
def resendAll (p : Nat) (s : State) : State :=
  forL (getPort s p).resend (fun k s =>
    if maySend s p then
      sendFrame p k (updPort s p (fun q => { q with retry := setFld q.retry 31 16 ((fld q.retry 31 16 + 1) % 65536) }))
    else s) s

/-- What an accepted frame's control word does: acknowledged frames leave the resend buffer, credits return, NAK asks for the
rest again (R507, R509). -/
def controlWord (p : Nat) (fr : Frame) (s : State) : State :=
  let s1 := updPort s p (fun q => (frameCredits fr).foldl (fun q c => addCredit c q) { q with
    resend := q.resend.filter (fun k => !acked (frameAck fr) k.fseq) })
  drainPort p (if frameNak fr then resendAll p s1 else s1)

/-- A frame that is not accepted: NAK with ACK at the FSEQ expected (R507). `failed`: it failed its code or its tag, which counts against the
FSEQ expected when the frame bears it (R508; DESIGN CHOICE, log 22). -/
def nakFrame (p : Nat) (fr : Frame) (failed : Bool) (s : State) : State :=
  drainPort p (updPort s p (fun q => { q with
    nakSet := true, ackDue := true, fails := if failed && frameFseq fr == q.rxFseq then q.fails + 1 else q.fails }))

/-- At most 6 failing symbols are corrected; more make the frame uncorrectable (R504). -/
def frameBad (fr : Frame) : Bool := decide (6 < fr.failing.length)
def frameCorrected (fr : Frame) : Bool := !fr.failing.isEmpty && !frameBad fr

/-- The corrected symbols of a frame join those of the last 65,536 frames, by lane (R510). -/
def countSymbols (p : Nat) (fr : Frame) (s : State) : State :=
  if !frameCorrected fr then s
  else
    let n := framesNow s (getPort s p) / 512
    updPort s p (fun q => { q with laneErrs := (q.laneErrs ++ fr.failing.map (fun l => (n, l))).filter (fun x => decide (n < x.1 + 65536)) })

/-- A port loses a lane: DEGRADED, and DOWN when fewer than 6 remain, or when lane 0 goes at the DOZE rate (R502, R510). -/
def loseLane (p lane : Nat) (s : State) : State :=
  let s1 := updPort (settleFrames p s) p (fun q => { q with
    usable := q.usable &&& ~~~ (1#8 <<< lane), laneErrs := q.laneErrs.filter (fun x => x.2 != lane) })
  let s2 := portFlag p 5 (showLanes p s1)
  if lanesOff (getPort s2 p).usable.toNat < 6 ∨ (portState s2 p = 5 ∧ lane = 0) then portDown p s2 else s2

/-- Lanes in service with more than 64 corrected symbols within 65,536 frames are dropped (R510). -/
def dropNoisy (p : Nat) (s : State) : State :=
  forN 8 (fun i s =>
    let q := getPort s p
    if linkUp s p && q.usable.getLsbD i && decide (64 < (q.laneErrs.filter (fun x => x.2 == i)).length) then loseLane p i s else s) s

/-- The batch number at which a received frame stands, and whether it is under the next key: its KEYPHASE differs from the last accepted
frame's. The first such frame that can be read has number 0 (R505, R506; DESIGN CHOICE, log 22). -/
def rxTurned (q : Port) (fr : Frame) : Bool := framePhase fr != q.rxPhase
def rxNumber (q : Port) (fr : Frame) : Nat :=
  if rxTurned q fr then (match q.rxTurn with | none => 0 | some n => n + fr.idle) else q.rxBatch + fr.idle

/-- The receiver counts the frame boundaries that have passed (R505). -/
def countBoundaries (fr : Frame) (q : Port) : Port :=
  { q with
    rxBatch := q.rxBatch + fr.idle + 1,
    rxTurn := match q.rxTurn with
      | some n => some (n + fr.idle + 1)
      | none => if rxTurned q fr && !frameBad fr then some 1 else none }

/-- The cells of a received frame, when its tag verifies; before the link has a receive key, frames are in clear. -/
def openFrame (s : State) (p : Nat) (fr : Frame) : Option (List PortCell) :=
  let q := getPort s p
  match if rxTurned q fr then q.rxKey else (getKey s (linkSlot p true)).key with
  | some k =>
    if frameTag k (rxNumber q fr) fr.desc fr.control fr.cells == fr.tag then some (frameCells fr (sealCells k (rxNumber q fr) fr.cells)) else none
  | none => if rxTurned q fr then none else some (frameCells fr fr.cells)

/-- The first accepted frame under the next key: the old receive key is destroyed and the next one written (R424, R506). -/
def turnKey (p : Nat) (s : State) : State :=
  match (getPort s p).rxKey with
  | none => s
  | some k => updPort (writeKey (destroyKey (linkSlot p true) s) (linkSlot p true) k) p (fun q => { q with
      rxKey := none, rxPhase := !q.rxPhase, rxBatch := q.rxTurn.getD 0, rxTurn := none })

/-- The buffers have room for the cells of a frame: 64 for each channel and class (R509). -/
def hasRoom (q : Port) (cs : List PortCell) : Bool :=
  cs.all (fun c =>
    let k := 8 * c.vc.toNat + c.cls.toNat
    decide (count q.held k + (cs.filter (fun d => 8 * d.vc.toNat + d.cls.toNat == k)).length ≤ 64))

/-- A cell joins the message of its channel and class, which is whole with its tail. Letters that belong to no message are dropped and counted, and
so is a message of more than 65 letters, or one that another's head cuts off (DESIGN CHOICE, log 22). -/
def takeCell (p : Nat) (c : PortCell) (s : State) : State :=
  let k := 8 * c.vc.toNat + c.cls.toNat
  let old := tget (fun _ => []) (getPort s p).part k
  let s1 := updPort s p (fun q => { q with held := setCount q.held k (count q.held k + 1) })
  let s2 := if c.head && !old.isEmpty then dropLetters old.length (freeCells p k (min 64 old.length) s1) else s1
  let ls := (if c.head then [] else old) ++ [c.data]
  let part (v : List (BitVec 512)) (s : State) : State := updPort s p (fun q => { q with part := tset (fun _ => []) q.part k v })
  if !c.head && old.isEmpty then dropLetters 1 (freeCells p k 1 s2)
  else if c.tail then updPort (part [] s2) p (fun q => { q with rxq := q.rxq ++ [letterOf c.vc c.cls (stampNow s) s.sclk ls] })
  else if 65 ≤ ls.length then dropLetters ls.length (freeCells p k 64 (part [] s2))
  else part ls (if ls.length = 64 then freeCells p k 1 s2 else s2)

/-- A port that takes a frame in FSEQ order: its letters are delivered and ACK advances, but for an idle frame (R507). -/
def acceptFrame (p : Nat) (fr : Frame) (cs : List PortCell) (s : State) : State :=
  let s1 := updPort s p (fun q => { q with
    rxFseq := if frameIdle fr then q.rxFseq else q.rxFseq + 1, nakSet := false, fails := 0, ackDue := q.ackDue || !frameIdle fr })
  controlWord p fr (forL cs (takeCell p) s1)

/-- FRAME_RECEIVE: corrected, uncorrectable and tag-failing frames are counted; a good frame in FSEQ order whose cells find room is accepted
(R504 to R507, R509). -/
def execFrameReceive (port : Nat) (fr : Frame) (s : State) : Host.Outcome State Fault Refusal :=
  onUnit (decide (port < 32)) s (fun s =>
    if !linkUp s port then s
    else
      let opened := openFrame s port fr
      let s1 := updPort (countSymbols port fr s) port (fun q => countBoundaries fr { q with
        fec := if frameBad fr then setFld q.fec 31 16 ((fld q.fec 31 16 + 1) % 65536)
          else if frameCorrected fr then setFld q.fec 15 0 ((fld q.fec 15 0 + 1) % 65536) else q.fec })
      dropNoisy port (
        if frameBad fr then nakFrame port fr true s1
        else match opened with
          | none =>
            nakFrame port fr true (updPort s1 port (fun q => { q with retry := setFld q.retry 15 0 ((fld q.retry 15 0 + 1) % 65536) }))
          | some cs =>
            let s2 := if rxTurned (getPort s1 port) fr then turnKey port s1 else s1
            if frameFseq fr != (getPort s2 port).rxFseq || !hasRoom (getPort s2 port) cs then nakFrame port fr false s2
            else acceptFrame port fr cs s2))

/-- FSEQ_RETRY_LIMIT: 16 failures of one FSEQ take the port DOWN (R508). -/
def execFseqRetryLimit (port : Nat) (s : State) : Host.Outcome State Fault Refusal :=
  onUnit (decide (port < 32)) s (fun s => if linkUp s port ∧ 16 ≤ (getPort s port).fails then portDown port s else s)

/-- BLOCK_LOCK_LOSS (R505). -/
def execBlockLockLoss (port : Nat) (s : State) : Host.Outcome State Fault Refusal :=
  onUnit (decide (port < 32)) s (fun s => if linkUp s port then portDown port s else s)

/-! ### Lanes -/

/-- LANE_DROP (R510): a lane in service is dropped. -/
def execLaneDrop (port lane : Nat) (s : State) : Host.Outcome State Fault Refusal :=
  onUnit (decide (port < 32 ∧ lane < 8)) s (fun s =>
    if linkUp s port && (getPort s port).usable.getLsbD lane then loseLane port lane s else s)

/-- LANE_RETRAIN_DONE: the dropped and released lanes rejoin, and RETRAIN clears (R510, R511). -/
def execLaneRetrainDone (port : Nat) (s : State) : Host.Outcome State Fault Refusal :=
  onUnit (decide (port < 32)) s (fun s =>
    let q := getPort s port
    if !bit q.ctrl 31 then s
    else
      let s1 := updPort s port (fun q => { q with ctrl := clrBit q.ctrl 31 })
      if linkUp s port then
        showLanes port (updPort (settleFrames port s1) port (fun q => { q with usable := ~~~ BitVec.ofNat 8 (fld q.ctrl 7 0) }))
      else s1)

/-- What a write of FP_CTRL does beside its fields: DISABLE holds the port DOWN, and LANE_OFF takes lanes out of service. -/
def applyPortCtrl (p : Nat) (s : State) : State :=
  let q := getPort s p
  if bit q.ctrl 30 then (if portState s p = 0 then s else portDown p s)
  else
    let s1 := updPort (settleFrames p s) p (fun q => { q with usable := q.usable &&& ~~~ BitVec.ofNat 8 (fld q.ctrl 7 0) })
    if linkUp s p ∧ lanesOff (getPort s1 p).usable.toNat < 6 then portDown p s1 else showLanes p s1

/-! ### Training and keying -/

/-- TRAINING_RETRY: a port that is DOWN and not disabled starts an attempt once its back-off has passed, while the port logic is ready: the device
has power and is out of reset (R548, R549). -/
def execTrainingRetry (port : Nat) (s : State) : Host.Outcome State Fault Refusal :=
  onUnit (decide (port < 32)) s (fun s =>
    let q := getPort s port
    if powered s ∧ portState s port = 0 ∧ !bit q.ctrl 30 ∧ q.retryAt ≤ s.sclk then setPortState port 1 s else s)

/-- TRAINING_ATTEMPT_FAILED: the port waits before it tries again (R549). -/
def execTrainingAttemptFailed (port : Nat) (s : State) : Host.Outcome State Fault Refusal :=
  onUnit (decide (port < 32)) s (fun s =>
    if portState s port = 1 then
      updPort (setPortState port 0 s) port (fun q => { q with
        attempts := q.attempts + 1,
        retryAt := s.sclk + 2 ^ min q.attempts 6 * 100000 + (32 * (ownId s).toNat + port) % 4096 * 100 })
    else s)

/-- Every credit pool full: 64 cells for each channel and class (R509). -/
def fullCredits : Tbl Nat := (List.range 32).map (fun k => (k, 64))

/-- LINK_TRAINED: a training port whose lanes leave at least 6 in service begins keying (R548, R502). -/
def execLinkTrained (port : Nat) (lanes : BitVec 8) (s : State) : Host.Outcome State Fault Refusal :=
  onUnit (decide (port < 32)) s (fun s =>
    let q := getPort s port
    let u := lanes &&& ~~~ BitVec.ofNat 8 (fld q.ctrl 7 0)
    if powered s ∧ portState s port = 1 ∧ 6 ≤ lanesOff u.toNat then
      let s1 := updPort s port (fun q => { q with
        status := setFld q.status 2 0 2, usable := u, peer := 0, credits := fullCredits, held := [], owed := [], part := [], rxFseq := 0,
        txFseq := 0, nakSet := false, ackDue := false, fails := 0, attempts := 0, retryAt := 0, rxq := [], hs := [[], [], []], frames := 0,
        framesAt := s.sclk, txBase := 0, txNext := 0, rxBatch := 0, rxTurn := none, rxKey := none, txPhase := false, rxPhase := false, laneErrs := [],
        turn := [], visiting := none, t1 := 0, echo1 := 0, echo2 := 0, timeDue := 0, asked := false })
      sendHandshake port (showLanes port s1)
    else s)

/-- The batch count of a link: the higher of its two directions' (R505, R506). -/
def batchCount (s : State) (q : Port) : Nat := max (txBatch s q) q.rxBatch

/-- The key is due for renewal: 2^31 batches, or 360,000,000,000 SCLK (R506). -/
def rekeyDue (s : State) (q : Port) : Bool := decide (2 ^ 31 ≤ batchCount s q ∨ q.keyTime + 360000000000 ≤ s.sclk)

/-- REKEY_START: a new-key exchange over maintenance letters, once it is due (R438, R506). -/
def execRekeyStart (port : Nat) (s : State) : Host.Outcome State Fault Refusal :=
  onUnit (decide (port < 32)) s (fun s =>
    if 3 ≤ portState s port ∧ !(getPort s port).rekeying ∧ rekeyDue s (getPort s port) then
      startRekey port (updPort s port (fun q => { q with hs := [[], [], []] }))
    else s)

/-- BATCH_COUNT_LIMIT: a count of 2^32 before an exchange has ended stops the port's sending, begun or not (R438, R506). -/
def execBatchCountLimit (port : Nat) (s : State) : Host.Outcome State Fault Refusal :=
  onUnit (decide (port < 32)) s (fun s =>
    if 3 ≤ portState s port ∧ 2 ^ 32 ≤ batchCount s (getPort s port) then updPort s port (fun q => { q with stopped := true }) else s)

/-! ### Letters that arrive -/

/-- Take a received message from port p: its buffer is free again and the credits return (R509). -/
def takeLetter (p : Nat) (l : Letter) (s : State) : State :=
  drainPort p (freeCells p (rxKeyOf l) (bufCells l) (updPort s p (fun q => { q with rxq := q.rxq.erase l })))

/-- ARGS bytes from byte i (counted from 24), n bytes. -/
def argField (l : Letter) (i n : Nat) : Nat := l.args.toNat / 2 ^ (8 * i) % 2 ^ (8 * n)

/-- LEN breaks the table of operations (R517). -/
def badLen (l : Letter) : Bool :=
  let n := l.body.length
  match l.op.toNat with
  | 0x02 => n == 1 || decide (17 < n)
  | 0x03 => n != 1 + argField l 0 4 || decide (17 < n) || decide (n < 2)
  | 0x07 => n == 0 || decide (64 < n)
  | 0x10 => decide (64 < n)
  | 0x12 => n == 0 || decide (64 < n)
  | _ => n != 0

/-- The bits of ARGS that an operation defines; the others are reserved (R516, R517). -/
def argMask (op : Nat) : Nat :=
  let bytes (i n : Nat) : Nat := (2 ^ (8 * n) - 1) * 2 ^ (8 * i)
  match op with
  | 0x01 => bytes 0 4 + bytes 8 16
  | 0x02 => bytes 0 1 + bytes 4 4
  | 0x03 => bytes 0 4 + bytes 8 16
  | 0x04 => bytes 0 1
  | 0x05 => 3 + bytes 1 1 + bytes 8 16
  | 0x06 => bytes 0 1 + 15 * 2 ^ 8 + bytes 8 8
  | 0x08 => bytes 0 1
  | 0x10 => bytes 0 1
  | 0x11 => bytes 0 24
  | 0x12 => bytes 0 8
  | 0x13 => bytes 0 2
  | _ => 0

/-- A reserved value in a head: path fields, ADDR and ARGS of the operation (R517). -/
def badHead (l : Letter) : Bool :=
  l.reservedBad || l.hops == 0 || decide (8 < l.hops.toNat) || decide (l.hops.toNat < l.hop.toNat) ||
  decide (2 ^ (5 * l.hops.toNat) ≤ l.ports.toNat) || l.addr.extractLsb' 48 4 != 0 ||
  (l.keytag != 0 && !(l.op == 1 || l.op == 3 || l.op == 5)) ||
  ((l.op == 1 || l.op == 3) && (l.addr.extractLsb' 0 6 != 0)) ||
  (l.op == 1 && (argField l 0 4 == 0 || decide (4096 < argField l 0 4))) ||
  (l.args &&& ~~~ BitVec.ofNat 192 (argMask l.op.toNat) != 0) || (l.op == 5 && argField l 0 1 == 3) ||
  (l.op == 0x10 && (argField l 0 1 == 0 || decide (5 < argField l 0 1)))

/-- A letter that is dropped and counted with no reply (R517). -/
def malformed (l : Letter) : Bool :=
  opVc l.op.toNat != some l.vc.toNat || badLen l || badHead l

/-- A port that has no keys or is MISWIRED carries maintenance letters alone; another that arrives there is dropped and counted (R524, R548;
DESIGN CHOICE, log 22). -/
def barred (s : State) (port : Nat) (l : Letter) : Bool := !portCarries s port l.vc.toNat && linkUp s port && l.vc != 2

/-- The letter has reached the end of its path at this device, or is between neighbours (LINK, TIME). -/
def forUs (s : State) (l : Letter) : Bool :=
  l.op == 0x10 || l.op == 0x11 || (l.hop == l.hops && named s && l.dest == ownId s)

/-- A received letter of an operation that is for this device acts, unless it is malformed or, in DOZE, a maintenance letter other
than LINK and TIME (R517, R540). -/
def onLetter (port : Nat) (l : Letter) (op : Nat) (s : State) (f : State → State) : Host.Outcome State Fault Refusal :=
  onUnit (decide (port < 32)) s (fun s =>
    if !(getPort s port).rxq.contains l || l.op.toNat != op then s
    else if malformed l || barred s port l then dropLetters (cells l) (takeLetter port l s)
    else if !forUs s l then s
    else if inDoze s && (op == 0x12 || op == 0x13) then dropLetters (cells l) (takeLetter port l s)
    else f (takeLetter port l s))

/-! ### Replies (R526, R528, R535) -/

/-- The reply operation of a request. -/
def replyOp (op : Nat) : Nat := op + 1

/-- Send a reply to a request that arrived on a port: by the device's own book, or, without a book, on the port of arrival when the
request's source is the peer there (R526, R528). -/
def sendReply (port : Nat) (l : Letter) (args : Nat) (body : List (BitVec 512)) (s : State) : State :=
  if !named s then s
  else
    let path := if s.book.isSome then choosePath s none false l.src.toNat
      else if peerValid (getPort s port) && peerId (getPort s port) == l.src then some (onePort port) else none
    match path with
    | none => s
    | some pt =>
      let r := { headFor s pt l.src l.tenant (BitVec.ofNat 8 (replyOp l.op.toNat)) with
        xtag := l.xtag, args := BitVec.ofNat 192 args, body := body }
      enqueue (hopPort pt.2 0) r (if s.book.isSome then bumpMsgCtr none s else s)

/-- A dead letter: STATUS alone; an ATOMIC_REPLY's old word and tag are then not stated (free values). -/
def deadLetter (port : Nat) (l : Letter) (status : Nat) (s : State) : State :=
  if l.op = 5 then
    sendReply port l (status + (Config.freeValue s.free).toNat % 16 * 2 ^ 8 + (Config.freeValue (s.free + 1)).toNat * 2 ^ 64) []
      (tick (tick s))
  else sendReply port l status [] s

/-- Without a book a request is answered only when it comes from the peer of its port; others are dropped and counted (R528). -/
def mayAnswer (s : State) (port : Nat) (l : Letter) : Bool :=
  s.book.isSome || (peerValid (getPort s port) && peerId (getPort s port) == l.src)

/-! ### Transit (R527, R528) -/

/-- TRANSIT_LETTER: a received letter that is not for this device is forwarded, answered or dropped. Forwarded, it keeps its buffer until it
has left (R509). -/
def execTransitLetter (port : Nat) (l : Letter) (s : State) : Host.Outcome State Fault Refusal :=
  onUnit (decide (port < 32)) s (fun s =>
    if !(getPort s port).rxq.contains l then s
    else if malformed l || barred s port l then dropLetters (cells l) (takeLetter port l s)
    else if forUs s l then s
    else
      let s1 := takeLetter port l s
      if !named s then s1
      else if s.book.isNone && decide (l.vc.toNat < 2) then dropLetters (cells l) s1
      else if l.hop == l.hops then
        (if l.vc == 0 then deadLetter port l 2 s1 else dropLetters (cells l) s1)
      else
        let o := hopPort l.ports l.hop.toNat
        if portCarries s o l.vc.toNat then
          enqueueFrom o ⟨port, rxKeyOf l, bufCells l, l⟩ (updPort s port (fun q => { q with rxq := q.rxq.erase l }))
        else if l.vc == 0 then deadLetter port l 1 s1 else dropLetters (cells l) s1)

/-! ### Serving requests (R531, R532, R534) -/

/-- The checks of steps 1 to 4 of R531. -/
def destChecks (s : State) (n : Nat) : Nat :=
  if s.sys.fenced then 9
  else if inDoze s then 8
  else if (getTen s n).st == .disabled then 3
  else if (getTen s n).st == .resetting then 4 else 0

/-- Segment and offset of ADDR. -/
def letterSeg (l : Letter) : Nat := l.addr.toNat / 2 ^ 52
def letterOff (l : Letter) : Nat := l.addr.toNat % 2 ^ 48

/-- Lines asked for: READ and WRITE by LINES, an ATOMIC one. -/
def letterLines (l : Letter) : Nat := if l.op = 5 then 1 else argField l 0 4

/-- Step 6: the segment, its rights, its limit, and the span. -/
def segmentOk (d : Desc) (l : Letter) : Bool :=
  let read := l.op == 1 || l.op == 5
  let write := l.op == 3 || l.op == 5
  grants d && d.space == 1 && d.shareRemote && (!read || d.r) && (!write || d.w) &&
  (if l.op = 5 then letterOff l % 8 == 0 && decide (letterOff l + 7 ≤ d.limit.toNat)
   else
    let a := argField l 8 8
    let b := argField l 16 8
    decide (a ≤ b) && decide (b ≤ d.limit.toNat) && decide (a / 64 ≤ letterOff l / 64) &&
      decide (letterOff l / 64 + letterLines l ≤ b / 64 + 1))

/-- All the checks of R531 on READ, WRITE and ATOMIC: 0, or the first failure's status. -/
def requestStatus (s : State) (l : Letter) : Nat :=
  let n := l.tenant.toNat
  let c := destChecks s n
  if c ≠ 0 then c
  else if (getTen s n).boundKey.isNone || keyTag s n != l.keytag then 5
  else if !segmentOk (tenDesc s n (letterSeg l)) l then 6 else 0

/-- Counter-slot requester of a port (R532). -/
def halfOf (port : Nat) : Nat := if port < 16 then 129 else 130

/-- A request joins a pseudo-channel's queue. -/
def postReq (pc : Nat) (r : HReq) (s : State) : State := updChan s pc (fun c => { c with reqs := c.reqs ++ [r] })

/-- Serve a request that passed its checks: its lines are asked of the pseudo-channels in order. -/
def serve (requester port : Nat) (localTile : Option Nat) (l : Letter) (d : Desc) (mk : Nat → Nat → HOp) (s : State) : State :=
  let k := s.nextServed
  let n := letterLines l
  let s1 := { s with nextServed := k + 1, served := s.served ++ [⟨k, port, l, d, [], n, localTile, false⟩] }
  forN n (fun i s =>
    let pr := linePlace d (letterOff l / 64 + i)
    postReq pr.1 ⟨requester, pr.2, mk k i⟩ s) s1

/-- A request letter at its destination. -/
def onRequest (port : Nat) (l : Letter) (mk : Nat → Nat → HOp) (s : State) : State :=
  if !mayAnswer s port l then dropLetters (cells l) s
  else
    let c := requestStatus s l
    if c ≠ 0 then deadLetter port l c s
    else serve (halfOf port) port none l (tenDesc s l.tenant.toNat (letterSeg l)) mk s

/-- READ (R531, R532). -/
def execRead (port : Nat) (l : Letter) (s : State) : Host.Outcome State Fault Refusal :=
  onLetter port l 1 s (onRequest port l .remoteRead)
/-- WRITE (R531, R532). -/
def execWrite (port : Nat) (l : Letter) (s : State) : Host.Outcome State Fault Refusal :=
  onLetter port l 3 s (onRequest port l .remoteWrite)
/-- ATOMIC (R531, R356). -/
def execAtomic (port : Nat) (l : Letter) (s : State) : Host.Outcome State Fault Refusal :=
  onLetter port l 5 s (onRequest port l (fun k _ => .atomic k))

/-- Write the slots of an envelope into a ring from slot TAIL on (R460). -/
def ringPut (f : Fn) (b : Mailbag) (ws : List Word) (s : State) : State :=
  forN (ws.length / 8) (fun i s =>
    let slot := (b.tail + i) % ringSize b
    let w := (ws.drop (8 * i)).take 8
    if bagSpace b then
      match f with
      | .vf n => segPutWords (some n) (tenDesc s n (wfld b.ring 63 52)) ((wfld b.ring 47 0 + 64 * slot) / 8) (w.map (fun x => ⟨x, 0⟩)) s
      | .pf => s
    else emitWrite f (b.ring.toNat + 64 * slot) w s) s

/-- ENVELOPE: steps 1 to 4, then the inner envelope is appended to mailbag 63, or MAILBAG (R482, R483, R534). -/
def execEnvelope (port : Nat) (l : Letter) (s : State) : Host.Outcome State Fault Refusal :=
  onLetter port l 7 s (fun s =>
    let n := l.tenant.toNat
    let c := destChecks s n
    let b := getBag s (.vf n) 63
    if !mayAnswer s port l then dropLetters (cells l) s
    else if c ≠ 0 then deadLetter port l c s
    else if !bagEnabled b || decide (ringSize b < ringHeld b + l.body.length) then deadLetter port l 7 s
    else
      let s1 := updBag (ringPut (.vf n) b (bodyWords l.body) s) (.vf n) 63 (fun b => { b with
        tail := (b.tail + l.body.length) % 131072, posted := b.posted ++ [l.body.length] })
      sendReply port l 0 [] s1)

/-! ### Replies that arrive (R530 to R533) -/

/-- The outstanding request with a transaction tag. -/
def reqOf (s : State) (x : BitVec 16) : Option RemoteReq := s.reqs.find? (fun q => q.xtag == x)
def dropReq (q : RemoteReq) (s : State) : State := { s with reqs := s.reqs.erase q }

/-- Add a line to an arrival table, in key order. -/
def insLine (k : Nat) (v : BitVec 512 × BitVec 32) : Tbl (BitVec 512 × BitVec 32) → Tbl (BitVec 512 × BitVec 32)
  | [] => [(k, v)]
  | (j, w) :: r => if k < j then (k, v) :: (j, w) :: r else if k = j then (k, v) :: r else (j, w) :: insLine k v r

/-- A change of the unit of a tile with an ID. -/
def onUnitOf (t : Nat) (id : BitVec 4) (f : VUnit → VUnit) (s : State) : State :=
  updTile s t (fun tl => { tl with units := tl.units.map (fun u => if u.id == id then f u else u) })

/-- Completion of a tile's atomic: TA_A, TAG_A, RESULT, DONE, GO and the tile's chute (R537). -/
def completeAtomic (t status : Nat) (old : TWord) (s : State) : State :=
  let s1 := updTile s t (fun tl =>
    let t1 := (tl.setReg 0x610 (old.data.extractLsb' 0 32)).setReg 0x614 (old.data.extractLsb' 32 32)
    (t1.updReg 0x600 (fun v => clrBit (setFld v 13 10 old.tag.toNat) 31)).updReg 0x604 (fun v => setBit (setFld v 7 0 status) 8))
  raiseChute t s1

/-- Completion with a status that comes with no old word: the word and tag are free values. -/
def failAtomic (t status : Nat) (s : State) : State :=
  completeAtomic t status ⟨Config.freeValue s.free, (Config.freeValue (s.free + 1)).setWidth 4⟩ (tick (tick s))

/-- A request ends with a reply status other than OK (R533, R535, R484, R522). -/
def refuseReq (q : RemoteReq) (status : Nat) (s : State) : State :=
  let s1 := dropReq q s
  match q.kind with
  | .unitRead t id => onUnitOf t id (fun u => { u with refused := true }) s1
  | .unitWrite t id => onUnitOf t id (fun u => { u with refused := true, strip := min u.strip (storeStrip u q.base) }) s1
  | .postbox t k _ => postboxRefused t k s1
  | .atomic t => failAtomic t status s1
  | .envelope p => match runningOn s1 p 0x30 q.xtag.toNat with
    | some e => finishEnv e 0x010E status s1
    | none => s1
  | .bookLoad p => match runningOn s1 p 0x43 q.xtag.toNat with
    | some e => finishEnv e 0x010E status s1
    | none => s1
  | .gone => s1

/-- Send a WAKE letter to a device, at most one to any one device in 100,000 SCLK (R541, R542). -/
def sendWakeLetter (dev : Nat) (s : State) : State :=
  let last := count s.wokeAt dev
  if !named s || (last != 0 && decide (s.sclk < last + 99999)) then s
  else match choosePath s none false dev with
    | none => s
    | some pt =>
      let s1 := { s with wokeAt := setCount s.wokeAt dev (s.sclk + 1) }
      enqueue (hopPort pt.2 0) (headFor s pt (BitVec.ofNat 14 dev) 0 0x18) (bumpMsgCtr none s1)

/-- A DOZING dead letter under AUTOWAKE sends a WAKE (R542). -/
def autoWake (dev status : Nat) (s : State) : State :=
  if status == 8 && bit (fxReg s 0x08) 31 then sendWakeLetter dev s else s

/-- A reply: with no request outstanding it is discarded and counted; a status other than OK ends the request; OK acts. -/
def onReply (port : Nat) (l : Letter) (op : Nat) (s : State) (ok : RemoteReq → State → State) : Host.Outcome State Fault Refusal :=
  onLetter port l op s (fun s =>
    match reqOf s l.xtag with
    | none => updFx 0x14 (fun v => setFld v 31 16 ((fld v 31 16 + 1) % 65536)) s
    | some q =>
      let c := argField l 0 1
      if c = 0 then ok q s
      else autoWake l.src.toNat c (match q.kind with
        | .atomic t => if 0x0C ≤ c then completeAtomic t c ⟨BitVec.ofNat 64 (argField l 8 8), BitVec.ofNat 4 (argField l 1 1)⟩ (dropReq q s)
          else refuseReq q c s
        | _ => refuseReq q c s))

/-- READ_REPLY: its lines are placed by LINE, and the request ends with its last line (R530). -/
def execReadReply (port : Nat) (l : Letter) (s : State) : Host.Outcome State Fault Refusal :=
  onReply port l 2 s (fun q s =>
    let ls := bodyLines l.body
    let first := q.base + argField l 4 4
    let s1 := { s with reqs := s.reqs.filterMap (fun r =>
      if r.xtag == q.xtag then (if r.left ≤ ls.length then none else some { r with left := r.left - ls.length }) else some r) }
    match q.kind with
    | .unitRead t id => onUnitOf t id (fun u => { u with
        got := forN ls.length (fun i g => insLine (first + i) (nthD (0, 0) ls i) g) u.got }) s1
    | .postbox t k i => forN ls.length (fun j s => postboxLine t k i (first + j) (nthD (0, 0) ls j) s) s1
    | _ => s1)

/-- A remote write is acknowledged; the unit completes once every line is and every strip has committed (R262). -/
def unitAcked (t : Nat) (id : BitVec 4) (n : Nat) (s : State) : State :=
  match unitOf (getTile s t) id with
  | none => s
  | some u =>
    let u1 := { u with remoteLeft := u.remoteLeft - n }
    if u.vl ≤ 256 * u1.strip ∧ u1.remoteLeft = 0 ∧ !u1.refused then
      let s1 := removeUnit t u1 s
      if (getEng s (.tile t)).resume then updTile s1 t (fun tl => tl.setReg (0x340 + 4 * id.toNat) 0) else s1
    else putUnit t u1 s

/-- WRITE_ACK (R532). -/
def execWriteAck (port : Nat) (l : Letter) (s : State) : Host.Outcome State Fault Refusal :=
  onReply port l 4 s (fun q s =>
    match q.kind with
    | .unitWrite t id => unitAcked t id q.left (dropReq q s)
    | _ => dropReq q s)

/-- ATOMIC_REPLY (R537). -/
def execAtomicReply (port : Nat) (l : Letter) (s : State) : Host.Outcome State Fault Refusal :=
  onReply port l 6 s (fun q s =>
    match q.kind with
    | .atomic t => completeAtomic t 0 ⟨BitVec.ofNat 64 (argField l 8 8), BitVec.ofNat 4 (argField l 1 1)⟩ (dropReq q s)
    | _ => dropReq q s)

/-- ENVELOPE_ACK: REMOTE_SEND completes (R484). -/
def execEnvelopeAck (port : Nat) (l : Letter) (s : State) : Host.Outcome State Fault Refusal :=
  onReply port l 8 s (fun q s =>
    match q.kind with
    | .envelope p => match runningOn s p 0x30 q.xtag.toNat with
      | some e => finishEnv e 0 0 (dropReq q s)
      | none => dropReq q s
    | _ => dropReq q s)

/-- REQUEST_TIMEOUT: a request with no reply for FX_CTRL.TIMEOUT SCLK ends with TIMEOUT (R533). -/
def execRequestTimeout (xtag : BitVec 16) (s : State) : Host.Outcome State Fault Refusal :=
  .next (match reqOf s xtag with
    | none => s
    | some q => if fld (fxReg s 0x08) 23 0 ≤ s.sclk - q.sentAt then refuseReq q 0x0A s else s)

/-! ### LINK letters (R437, R517) -/

def onLink (port : Nat) (l : Letter) (sub : Nat) (s : State) (f : State → State) : Host.Outcome State Fault Refusal :=
  onLetter port l 0x10 s (fun s1 => if argField l 0 1 = sub then f s1 else s)

/-- HELLO: the peer's identity and flags are reported, and its body joins the transcript. -/
def execHello (port : Nat) (l : Letter) (s : State) : Host.Outcome State Fault Refusal :=
  onLink port l 1 s (fun s =>
    let h := Config.helloOf l.body
    updPort s port (fun q => { q with
      hs := setAt q.hs 0 l.body,
      peer := putBit (setFld (setFld (setBit q.peer 31) 18 5 h.1.toNat) 4 0 h.2.1.toNat) 30 h.2.2.2 }))

/-- KEYSHARE: the peer's ephemeral point joins the transcript. On a link in service it begins the exchange at this end too (R506). -/
def execKeyshare (port : Nat) (l : Letter) (s : State) : Host.Outcome State Fault Refusal :=
  onLink port l 2 s (fun s =>
    let s1 := updPort s port (fun q => { q with hs := setAt q.hs 1 l.body })
    if 3 ≤ portState s port ∧ !(getPort s port).rekeying then startRekey port s1 else s1)

/-- CERT: the peer's chain; this end signs the transcript. -/
def execCert (port : Nat) (l : Letter) (s : State) : Host.Outcome State Fault Refusal :=
  onLink port l 3 s (fun s =>
    let s1 := updPort s port (fun q => { q with hs := setAt q.hs 2 l.body })
    sendLink port 4 (bodyOfWords (Config.sign (aliasKey s1) (transcript (getPort s1 port)))) s1)

/-- SIGN: with a chain and signature that verify, keys are installed: a keying port is UP, and a port in service changes to its new
key. An end whose chain is refused does not come up (R437, R506, R548). -/
def execSign (port : Nat) (l : Letter) (s : State) : Host.Outcome State Fault Refusal :=
  onLink port l 4 s (fun s =>
    let q := getPort s port
    if q.hs.length < 3 ∨ !(keyless s port || q.rekeying) then s
    else if q.hs.any (·.isEmpty) || !Config.chainAccepted (nthD [] q.hs 2) (transcript q) l.body then portDown port s
    else
      let s1 := installKeys port s
      drainPort port (if portState s port = 2 then showLanes port (setPortState port 3 s1) else s1))

/-- A port changes between its full rate and the DOZE rate (R539). -/
def setPortRate (p : Nat) (low : Bool) (s : State) : State :=
  let st := portState s p
  if low && st == 3 then showLow (showLanes p (setPortState p 5 s))
  else if !low && st == 5 then showLow (showLanes p (setPortState p 3 s)) else s

/-- Announce the rate about to be used. -/
def sendRate (p : Nat) (low : Bool) (s : State) : State :=
  sendLink p 5 (Config.rateBody (if low then 1 else lanesOff (getPort s p).usable.toNat) low) s

/-- Announce a rate and take it: the peer answers with its own RATE (R539). -/
def askRate (p : Nat) (low : Bool) (s : State) : State :=
  setPortRate p low (updPort (sendRate p low s) p (fun q => { q with asked := true }))

/-- RATE: the port follows its peer to the rate announced, whether the peer enters or leaves DOZE, and answers; FP_PEER shows a peer that
announced of itself (R539, R541). An answer changes nothing there (DESIGN CHOICE, log 22). -/
def execRate (port : Nat) (l : Letter) (s : State) : Host.Outcome State Fault Refusal :=
  onLink port l 5 s (fun s =>
    let low := Config.rateLow l.body
    if (getPort s port).asked then updPort s port (fun q => { q with asked := false })
    else setPortRate port low (sendRate port low (updPort s port (fun q => { q with peer := putBit q.peer 29 low }))))

/-! ### Sending time (R543) -/

/-- One port's TIME letter; its own stamp is put in as it leaves. -/
def sendTime (p : Nat) (s : State) : State :=
  let q := getPort s p
  enqueue p { headFor s (onePort p) (peerId q) 0 0x11 with args := BitVec.ofNat 192 (q.echo1 + q.echo2 * 2 ^ 64) }
    (updPort s p (fun q => { q with timeDue := s.sclk + 100000 }))

/-- TIME_SEND: every UP port sends a TIME letter every 100,000 SCLK (R543), once READY has asserted (R637). -/
def execTimeSend (s : State) : Host.Outcome State Fault Refusal :=
  .next (if !named s || !mayLeave s 0x11 then s
    else forN 32 (fun p s =>
      if (portState s p = 3 ∨ portState s p = 5) ∧ (getPort s p).timeDue ≤ s.sclk then sendTime p s else s) s)

/-! ### Address books (R520 to R525) -/

def imageGroups (ws : List Word) : Nat := wfld (wordAt ws 1) 7 0 + 1
def imageTarget (ws : List Word) : Nat := wfld (wordAt ws 0) 29 16
def imageVersion (ws : List Word) : Nat := wfld (wordAt ws 0) 63 32
/-- TIME_PARENT of an image: none when NONE is set. -/
def imageParent (ws : List Word) : Option Nat := if (wordAt ws 1).getLsbD 13 then none else some (wfld (wordAt ws 1) 12 8)
/-- Peer entry of port p. -/
def peerEntry (ws : List Word) (p : Nat) : BitVec 32 := (wordAt ws (8 + p / 2)).extractLsb' (32 * (p % 2)) 32
/-- Path entry k of a device. -/
def pathWord (ws : List Word) (dev k : Nat) : Word := wordAt ws (24 + 256 * (dev / 64) + 4 * (dev % 64) + k)

def badPath (w : Word) : Bool :=
  w.extractLsb' 60 3 != 0 || w.extractLsb' 40 16 != 0 ||
  (w.getLsbD 63 && (wfld w 59 56 == 0 || decide (8 < wfld w 59 56) || decide (2 ^ (5 * wfld w 59 56) ≤ wfld w 39 0)))

/-- An image of `len` bytes passes R521. -/
def bookOk (s : State) (len : Nat) (ws : List Word) : Bool :=
  let g := imageGroups ws
  wfld (wordAt ws 0) 7 0 == 1 && len == 192 + 2048 * g &&
  wfld (wordAt ws 0) 15 8 == 0 && wfld (wordAt ws 0) 31 30 == 0 &&
  wfld (wordAt ws 1) 15 14 == 0 && wfld (wordAt ws 1) 63 16 == 0 &&
  (List.range 6).all (fun i => wordAt ws (2 + i) == 0) &&
  (List.range 32).all (fun p => (peerEntry ws p).extractLsb' 19 12 == 0) &&
  (List.range (256 * g)).all (fun i => !badPath (wordAt ws (24 + i))) &&
  (List.range 4).all (fun k => decide (g ≤ imageTarget ws / 64) || !(pathWord ws (imageTarget ws) k).getLsbD 63) &&
  (match imageParent ws with
   | none => true
   | some p => (peerEntry ws p).getLsbD 31) &&
  (match s.book with
   | none => true
   | some b => decide (b.version.toNat < imageVersion ws))

/-- After a swap, a port whose valid peer entry differs from the peer of its HELLO is MISWIRED, one that is still keying too; one that no
longer differs is UP again, or goes on keying (R524). -/
def checkWiring (ws : List Word) (s : State) : State :=
  forN 32 (fun p s =>
    let e := peerEntry ws p
    let q := getPort s p
    let differs := e.getLsbD 31 && e.extractLsb' 0 19 != q.peer.extractLsb' 0 19
    if peerValid q && differs && (portState s p == 2 || portState s p == 3 || portState s p == 5) then
      let s1 := showLow (showLanes p (setPortState p 4 s))
      let old := fxReg s1 0x04
      let s2 := updFx 0x04 (fun v => setBit v 4) s1
      if bit old 4 then s2 else fabricEvent s2
    else if portState s p == 4 && !differs then setPortState p (if keyless s p then 2 else 3) s else s) s

/-- Swap a checked book in (R522, R524, R525). Without a time parent the rate is nominal again (R545). -/
def swapBook (ws : List Word) (s : State) : State :=
  let b : Book := ⟨ws, BitVec.ofNat 32 (imageVersion ws), imageGroups ws, imageParent ws⟩
  let t := { s.time with
    good := 0, lastOwn := 0, lastParent := 0, rate := if b.timeParent.isNone then 2 ^ 32 else s.time.rate,
    trim := if b.timeParent.isNone then 0 else s.time.trim, slew := if b.timeParent.isNone then 0 else s.time.slew }
  let s1 := setFx 0x10 b.version (updFx 0x04 (fun v => setBit v 2) { s with book := some b, time := t })
  checkWiring ws s1

/-- Check a book and swap it in, or refuse it: the status code. -/
def takeBook (len : Nat) (ws : List Word) (s : State) : Nat × State :=
  if bookOk s len ws then (0, swapBook ws s) else (0x0410, s)

/-- Send the BOOK messages of an image of `len` bytes on path 0 of the book in force; the last one asks for the answer (R522, R526). -/
def sendBook (path : Nat × BitVec 40) (dev : Nat) (p : Place) (len : Nat) (ws : List Word) (s : State) : State :=
  let s1 := { s with
    nextXtag := s.nextXtag + 1, reqs := s.reqs ++ [⟨s.nextXtag, .bookLoad p, 0, 0, 0, s.sclk⟩] }
  forN (cdiv len 4096) (fun i st =>
    enqueue (hopPort path.2 0) { headFor s path (BitVec.ofNat 14 dev) 0 0x12 with
      xtag := s.nextXtag, args := BitVec.ofNat 192 (4096 * i + len * 2 ^ 32), body := bodyOfWords ((ws.drop (512 * i)).take 512) } st) s1

/-- BOOK: a part of an address book; a complete image is checked, swapped in and acknowledged (R522, R523). -/
def execBook (port : Nat) (l : Letter) (s : State) : Host.Outcome State Fault Refusal :=
  onLetter port l 0x12 s (fun s =>
    let allowed := match s.book with
      | none => true
      | some b => b.timeParent == some port
    if !allowed then s
    else
      let len := argField l 4 4
      let got := match s.bookRx with
        | some (n, g) => if n = len then g else []
        | none => []
      let g := forN l.body.length (fun i g => insBook (argField l 0 4 / 64 + i) (nthD 0 l.body i) g) got
      if g.length < cdiv len 64 then { s with bookRx := some (len, g) }
      else
        let r := takeBook len (bodyWords (g.map (·.2))) { s with bookRx := none }
        ackBook port l r.1 r.2)
where
  /-- Put body letter k of an image in its place. -/
  insBook (k : Nat) (v : BitVec 512) : Tbl (BitVec 512) → Tbl (BitVec 512)
    | [] => [(k, v)]
    | (j, w) :: r => if k < j then (k, v) :: (j, w) :: r else if k = j then (k, v) :: r else (j, w) :: insBook k v r
  /-- BOOK_ACK to the sender. -/
  ackBook (port : Nat) (l : Letter) (code : Nat) (s : State) : State :=
    let path := match choosePath s none false l.src.toNat with
      | some p => some p
      | none => if peerId (getPort s port) == l.src then some (onePort port) else none
    match path with
    | none => s
    | some pt => enqueue (hopPort pt.2 0) { headFor s pt l.src 0 0x13 with xtag := l.xtag, args := BitVec.ofNat 192 code } (bumpMsgCtr none s)

/-- BOOK_ACK: the remote book load is answered with S_OK or S_BOOK_FORMAT (R522). An answer of any other code is no answer (DESIGN CHOICE,
log 22): the request goes on to its TIMEOUT. -/
def execBookAck (port : Nat) (l : Letter) (s : State) : Host.Outcome State Fault Refusal :=
  onLetter port l 0x13 s (fun s =>
    if argField l 0 2 ≠ 0 ∧ argField l 0 2 ≠ 0x0410 then s
    else match reqOf s l.xtag with
    | some ⟨x, .bookLoad p, n, b, lf, t⟩ =>
      let s1 := dropReq ⟨x, .bookLoad p, n, b, lf, t⟩ s
      match runningOn s1 p 0x43 x.toNat with
      | some e => finishEnv e (argField l 0 2) 0 s1
      | none => s1
    | _ => s)

end Sys2Proof.Machine
end

