-- ==== Sys2Proof/Machine/HbmEvents.lean ====
section
/-! DEFINITION. What the HBM controllers do in the positions of the post cycle: boundaries, counter slots, atomics, background
rewrites, scrub, correction write-backs and repair (spec 06, 07). -/
namespace Sys2Proof.Machine

open Sys2Proof

/-- Post cycles run: boot has trained the stacks or taken them out of self-refresh, and they have not gone back to it (R270, R323). The
model's boot is one step, so they start with READY (log 61). -/
def postCyclesRun (s : State) : Bool := s.sys.phase == .ready && (s.sys.doze == .run || s.sys.doze == .entering)

/-! ### Boundaries -/

/-- Spare units left on a pseudo-channel (R351). -/
def spareUnits (s : State) (pc : Nat) : Nat := 1024 - (getChan s pc).sparesUsed

/-- A repair asked of stack k begins at the boundary (R351). -/
def beginRepair (k : Nat) (s : State) : State :=
  let g := hcReg s k 0x010
  let pc := 64 * k + fld g 30 25
  if bit g 31 && (getChan s pc).copying.isNone then updChan s pc (fun c => { c with copying := some (fld g 24 5) }) else s

/-- The scrub rate written on the management face comes into force (R23, R24). -/
def takeRate (k : Nat) (s : State) : State :=
  { s with hcStacks := tset (fun _ => Stack.reset) s.hcStacks k { getStack s k with rate := fld (hcReg s k 0x008) 28 24 } }

/-- POST_CYCLE_BOUNDARY: a new post cycle begins on every pseudo-channel; a checked plan takes effect, and its envelope is answered
(R270, R275, R717); scrub rates come into force (R23 to R25); repairs begin (R351). -/
def execPostCycleBoundary (s : State) : Host.Outcome State Fault Refusal :=
  .next (
    if !postCyclesRun s then s
    else
      let s1 := forN 16 takeRate (forN 16 beginRepair { s with postCycle := s.postCycle + 1 })
      match s1.nextPlan with
      | none => s1
      | some (pl, p) =>
        let s2 := { s1 with plan := pl, nextPlan := none }
        match p.bind (running s2) with
        | some e => finishEnv e 0 0 s2
        | none => s2)

/-! ### Replies to served requests (R530, R532) -/

def servedOf (s : State) (k : Nat) : Option Served := s.served.find? (fun x => x.k == k)
def putServed (x : Served) (s : State) : State := { s with served := s.served.map (fun y => if y.k == x.k then x else y) }
def dropServed (k : Nat) (s : State) : State := { s with served := s.served.filter (fun y => y.k != k) }

/-- The READ_REPLYs of a served READ, of up to 16 lines each. -/
def sendReadReplies (x : Served) (s : State) : State :=
  let n := letterLines x.letter
  forN (cdiv n 16) (fun i s =>
    let ls := ((x.lines.map (·.2)).drop (16 * i)).take 16
    sendReply x.port x.letter (16 * i * 2 ^ 32) (lineBody ls) s) s

/-- An atomic is done, or errs with a status: a local one completes its tile's port, a remote one is answered, with the old word
(R358, R359, R537). -/
def answerAtomic (x : Served) (status : Nat) (old : TWord) (s : State) : State :=
  let s1 := dropServed x.k s
  if x.gone then s1
  else
  match x.localTile with
  | some t => completeAtomic t status old s1
  | none => sendReply x.port x.letter (status + old.tag.toNat * 2 ^ 8 + old.data.toNat * 2 ^ 64) [] s1

/-- A word that nothing has read: a free value (log 14). -/
def unreadWord (s : State) : TWord := ⟨Config.freeValue s.free, (Config.freeValue (s.free + 1)).setWidth 4⟩

/-! ### Atomics -/

def numTagged (t : Tag) : Bool := decide (t.toNat ≤ 2)

/-- The word an atomic writes, or the status of its failure (R358, R359): SUB, operands A and B, the stored word. -/
def atomicResult (sub : Nat) (a b old : TWord) : Nat ⊕ TWord :=
  let ops := numTagged a.tag && (sub != 1 || numTagged b.tag)
  if old.tag == 0xF then .inl 0x0C
  else if !numTagged old.tag || !ops then .inl 0x0D
  else if sub = 0 then
    (if decide (1 < old.tag.toNat) || decide (1 < a.tag.toNat) then .inl 0x0D
     else .inr ⟨old.data + a.data, if old.tag == 1 && a.tag == 1 then 1 else 0⟩)
  else if sub = 1 then .inr (if old.data == a.data then b else old)
  else .inr a

/-- Operands of an ATOMIC letter. -/
def atomicOps (l : Letter) : Nat × TWord × TWord :=
  (argField l 0 1 % 4, ⟨BitVec.ofNat 64 (argField l 8 8), BitVec.ofNat 4 (argField l 1 1)⟩,
   ⟨BitVec.ofNat 64 (argField l 16 8), BitVec.ofNat 4 (argField l 1 1 / 16)⟩)

/-- The read half of an atomic: its line is held, or it errs and nothing is written. -/
def atomicRead (pc r : Nat) (x : Served) (s : State) : State :=
  let n := x.letter.tenant.toNat
  let k := segKey s (some n) x.desc pc r
  match rdLine pc r k 4 s with
  | (none, s1) => answerAtomic x 0x0E (unreadWord s1) (tick (tick s1))
  | (some v, s1) =>
    let w := letterOff x.letter / 8 % 8
    let old := lineWord v.1 v.2 w
    let o := atomicOps x.letter
    match atomicResult o.1 o.2.1 o.2.2 old with
    | .inl c => answerAtomic x c old s1
    | .inr new =>
      let y := setLineWord v.1 v.2 w new
      updChan s1 pc (fun c => { c with held := some ⟨some x.k, none, r, ⟨y.1, y.2, 0, k⟩, w, old, false⟩ })

/-! ### Background rewrites (R335, R336, R429) -/

def jobOf (s : State) (j : Nat) : Option Job := (s.jobs.find? (fun x => x.1 == j)).map (·.2)
def putJob (j : Nat) (b : Job) (s : State) : State := { s with jobs := s.jobs.map (fun x => if x.1 == j then (j, b) else x) }

/-- The pseudo-channels of a job. -/
def jobChans (b : Job) : List Nat := if b.global then List.range 1024 else (List.range 128).map (fun i => 128 * b.die + i)

/-- The next job of a running rotation that has lines to rewrite on a pseudo-channel: it is asked for its first line there (R429). -/
def nextRotate (pc : Nat) (s : State) : State :=
  match s.rotation with
  | none => s
  | some ro =>
    let next := ro.jobs.findSome? (fun j => (jobOf s j).bind (fun b =>
      if (jobChans b).contains pc && decide (tget (fun _ => 0) b.done pc < b.stripes) then some (j, b.r0) else none))
    match next with
    | some (j, r) => postReq pc ⟨128, r, .job j⟩ s
    | none => s

/-- Job j has one more line done on a pseudo-channel; its next line there, or the next job of a rotation, is asked for. -/
def jobLineDone (j pc : Nat) (s : State) : State :=
  match jobOf s j with
  | none => s
  | some b =>
    let n := tget (fun _ => 0) b.done pc + 1
    let s1 := putJob j { b with done := tset (fun _ => 0) b.done pc n } s
    if n < b.stripes then postReq pc ⟨128, b.r0 + n, .job j⟩ s1
    else if b.kind == .rotate then nextRotate pc s1 else s1

/-- Every line of a job has been written. -/
def jobDone (b : Job) : Bool := (jobChans b).all (fun pc => decide (b.stripes ≤ tget (fun _ => 0) b.done pc))

/-- Start a job: each of its pseudo-channels is asked for its first line. -/
def startJob (b : Job) (s : State) : Nat × State :=
  let j := s.nextJob
  (j, forL (jobChans b) (fun pc s => postReq pc ⟨128, b.r0, .job j⟩ s) { s with nextJob := j + 1, jobs := s.jobs ++ [(j, b)] })

/-- A job and its requests are gone. -/
def dropJob (j : Nat) (s : State) : State :=
  { s with
    jobs := s.jobs.filter (fun x => x.1 != j),
    chans := tmap PChan.reset (fun c => { c with reqs := c.reqs.filter (fun q => q.op != .job j) }) s.chans }

/-- A rotation job asks for no more lines; one that holds a line stays until that is written (R448, R451). -/
def drainJob (j : Nat) (s : State) : State :=
  if s.chans.any (fun kv => (kv.2.held.bind (·.job)) == some j) then
    match jobOf s j with
    | some b => putJob j { b with stripes := 0 } { s with chans := tmap PChan.reset (fun c => { c with reqs := c.reqs.filter (fun q => q.op != .job j) }) s.chans }
    | none => s
  else dropJob j s

/-- The stripes of an abandoned job are rewritten in the unwritten state (R336, R451). -/
def abandonJob (x : Nat × Job) (s : State) : State :=
  (startJob { x.2 with kind := .unwritten, done := [] } (dropJob x.1 s)).2

/-- A line of zero INT words (R335). -/
def zeroIntTags : BitVec 32 := 0x11111111

/-- The segment that a rotation job was started for still holds its run, or is being filled there. -/
def stillHolds (s : State) (b : Job) : Bool :=
  let d := tenDesc s b.tenant b.seg.toNat
  (d.valid && d.space == 1 && segR0 d == b.r0 && d.global == b.global && (b.global || d.homedie.toNat == b.die)) ||
  s.jobs.any (fun x => x.2.kind == .fill && x.2.tenant == b.tenant && x.2.seg == b.seg && x.2.r0 == b.r0)

/-- A rotation job over the run of a segment, not yet among the jobs of the rotation. -/
def rotateJob (n seg : Nat) (d : Desc) : Job :=
  ⟨.rotate, n, BitVec.ofNat 12 seg, d.keyidx.toNat, d.global, d.homedie.toNat, segR0 d, segStripes d, []⟩

/-- Insert job j with first index r in ascending order. -/
def insJob (s : State) (j r : Nat) : List Nat → List Nat
  | [] => [j]
  | k :: l => if r < ((jobOf s k).map (·.r0)).getD 0 then j :: k :: l else k :: insJob s j r l

/-- A segment that comes to a KEYIDX under rotation joins it; where the cursor has passed it already, it is under the new pair. -/
def joinRotation (n seg : Nat) (d : Desc) (s : State) : State :=
  match s.rotation with
  | none => s
  | some ro =>
    if ro.tenant ≠ n ∨ ro.keyidx ≠ d.keyidx.toNat ∨ d.space ≠ 1 then s
    else
      let b := rotateJob n seg d
      let passed := fun pc => match rotCursor s ro.jobs pc with
        | some c => decide (b.r0 < c)
        | none => true
      let done := forL (jobChans b) (fun pc t => if passed pc then tset (fun _ => 0) t pc b.stripes else t) []
      { s with
        jobs := s.jobs ++ [(s.nextJob, { b with done := done })], nextJob := s.nextJob + 1,
        rotation := some { ro with jobs := insJob s s.nextJob b.r0 ro.jobs } }

/-- One line of a job in its counter slot. A rotation reads here and writes in the next counter slot; what is no longer the tenant's it
leaves. -/
def jobSlot (j pc r : Nat) (b : Job) (s : State) : State :=
  match b.kind with
  | .fill => jobLineDone j pc (wrLine pc r 0 zeroIntTags (keyAt s b.tenant b.keyidx pc r) s)
  | .unwritten => jobLineDone j pc (putLine pc r HLine.unwritten s)
  | .rotate =>
    let l := getLine s pc r
    match s.rotation, stillHolds s b with
    | some ro, true =>
    (match rdLine pc r (ctxKey s (4 * b.tenant + b.keyidx)) 2 s with
    | (none, s1) => jobLineDone j pc s1
    | (some v, s1) =>
      let new : HLine := if l.key == .raw then { l with err := 0 } else ⟨v.1, v.2, 0, ro.newKey⟩
      updChan s1 pc (fun c => { c with held := some ⟨none, some j, r, new, 0, ⟨0, 0⟩, false⟩ }))
    | _, _ => jobLineDone j pc s

/-! ### Counter slots -/

/-- The first requester at or after the pointer that has a request (R278). -/
def nextRequester (c : PChan) : Option Nat :=
  ((List.range 131).map (fun i => (c.ptr + i) % 131)).find? (fun n => c.reqs.any (fun q => q.requester == n))

/-- Serve one request. -/
def serveSlot (pc : Nat) (q : HReq) (s : State) : State :=
  match q.op with
  | .job j => match jobOf s j with
    | some b => jobSlot j pc q.r b s
    | none => s
  | .remoteRead k i => match servedOf s k with
    | none => s
    | some x =>
      let a := rdLine pc q.r (segKey s (some x.letter.tenant.toNat) x.desc pc q.r) 3 s
      let v := a.1.getD (0, BitVec.ofNat 32 0xFFFFFFFF)
      let x1 := { x with lines := insLine i v x.lines, left := x.left - 1 }
      if x1.left = 0 then sendReadReplies x1 (dropServed k a.2) else putServed x1 a.2
  | .remoteWrite k i => match servedOf s k with
    | none => s
    | some x =>
      let v := nthD (0, 0) (bodyLines x.letter.body) i
      let s1 := wrLine pc q.r v.1 v.2 (segKey s (some x.letter.tenant.toNat) x.desc pc q.r) s
      if x.left = 1 then sendReply x.port x.letter 0 [] (dropServed k s1) else putServed { x with left := x.left - 1 } s1
  | .atomic k => match servedOf s k with
    | none => s
    | some x => atomicRead pc q.r x s

/-- COUNTER_SLOT: an allocatable position that the plan leaves to counter traffic is granted to the next requester with a request
(R277, R278). While a read-modify-write is between its halves the slot is its own (R356). -/
def execCounterSlot (pc pos : Nat) (s : State) : Host.Outcome State Fault Refusal :=
  onUnit (decide (pc < 1024 ∧ pos < 1024)) s (fun s =>
    let c := getChan s pc
    if !postCyclesRun s || (allocIdx pos).isNone || (planTenant s.plan (pc / 128) pos).isSome || c.held.isSome then s
    else match nextRequester c with
      | none => s
      | some n =>
        match c.reqs.find? (fun q => q.requester == n) with
        | none => s
        | some q => serveSlot pc q (updChan s pc (fun c => { c with ptr := (n + 1) % 131, reqs := c.reqs.erase q })))

/-- The held line of a pseudo-channel is written, and the atomic is answered or the rotation goes on (R356, R429). -/
def endHeld (pc : Nat) (s : State) : State :=
  match (getChan s pc).held with
  | none => s
  | some h =>
    let s1 := updChan (settle pc h.r s) pc (fun c => { c with held := none })
    match h.atomic, h.job with
    | some k, _ => match servedOf s1 k with
      | some x => answerAtomic x 0 h.old s1
      | none => s1
    | none, some j => jobLineDone j pc s1
    | none, none => s1

/-- ATOMIC_LINE_WRITE: the write half of a read-modify-write (R356). -/
def execAtomicLineWrite (pc : Nat) (s : State) : Host.Outcome State Fault Refusal :=
  onUnit (decide (pc < 1024)) s (fun s => if postCyclesRun s then endHeld pc s else s)

/-- HBM_REFRESH: a refresh in a refresh position changes no state the spec names (R322). -/
def execHbmRefresh (pc pos : Nat) (s : State) : Host.Outcome State Fault Refusal :=
  onUnit (decide (pc < 1024 ∧ pos < 1024)) s (fun s => s)

/-! ### Scrub, write-backs, poison -/

/-- One pseudo-channel's line of a scrub (R348). -/
def scrubLine (pc r : Nat) (s : State) : State :=
  let l := getLine s pc r
  if isUnwritten l then s
  else match checkLine l with
    | (.good, _) => s
    | (.corrected b, _) => hcLog pc r b 5 s
    | (.bad, _) => updChan s pc (fun c => { c with poison := addOnce c.poison r })

/-- HBM_SCRUB_POSITION: a used scrub position reads the line at the cursor on the stack's 64 pseudo-channels, and the cursor advances
(R347, R350). -/
def execHbmScrubPosition (stack pos : Nat) (s : State) : Host.Outcome State Fault Refusal :=
  onUnit (decide (stack < 16 ∧ pos < 1024)) s (fun s =>
    if !postCyclesRun s || pos % 64 != 7 || decide ((getStack s stack).rate ≤ pos / 64) then s
    else
      let r := fld (hcReg s stack 0x00C) 23 0
      let s1 := forN 64 (fun i s => scrubLine (64 * stack + i) r s) s
      if r + 1 < userLines s then setHc stack 0x00C (BitVec.ofNat 32 (r + 1)) s1
      else setHc stack 0x00C 0 (updHc stack 0x008 (fun v => setFld v 15 0 ((fld v 15 0 + 1) % 65536)) s1))

/-- A corrected line is written back. -/
def writeBackLine (pc r : Nat) (s : State) : State :=
  let l := getLine s pc r
  let v := (checkLine l).2
  putLine pc r ⟨v.1, v.2, 0, l.key⟩ s

/-- HBM_CORRECTION_WRITEBACK: the oldest corrected line is written back (R339). -/
def execHbmCorrectionWriteback (pc : Nat) (s : State) : Host.Outcome State Fault Refusal :=
  onUnit (decide (pc < 1024)) s (fun s =>
    if !postCyclesRun s then s
    else match (getChan s pc).writeBacks with
      | [] => s
      | r :: _ => writeBackLine pc r s)

/-- Line number in a segment of line r of a pseudo-channel, when the segment holds it. -/
def lineOfSeg (d : Desc) (pc r : Nat) : Option Nat :=
  let i := r - segR0 d
  if !(d.valid && d.space == 1) || decide (r < segR0 d) || decide (segStripes d ≤ i) then none
  else if d.global then ((List.range 1024).find? (fun x => prismGlobal (1024 * i + x) == pc)).map (1024 * i + ·)
  else if d.homedie.toNat != pc / 128 then none
  else ((List.range 128).find? (fun x => prismLocal (128 * i + x) == pc % 128)).map (128 * i + ·)

/-- The tenant, segment and line that hold line r of a pseudo-channel. -/
def lineOwner (s : State) (pc r : Nat) : Option (Nat × Nat × Nat) :=
  s.tenants.findSome? (fun tn => tn.2.segs.findSome? (fun sd => (lineOfSeg sd.2 pc r).map (fun l => (tn.1, sd.1, l))))

/-- The segment that a fill job prepares. -/
def fillDesc (b : Job) : Desc :=
  let unit := if b.global then 65536 else 8192
  { Desc.empty with
    base := BitVec.ofNat 48 (b.r0 * unit), limit := BitVec.ofNat 48 (b.stripes * unit - 1), keyidx := BitVec.ofNat 8 b.keyidx,
    global := b.global, homedie := BitVec.ofNat 3 b.die, space := 1, valid := true }

/-- The tenant, segment and line of a segment under a fill. -/
def fillOwner (s : State) (pc r : Nat) : Option (Nat × Nat × Nat) :=
  s.jobs.findSome? (fun j =>
    if j.2.kind == .fill then (lineOfSeg (fillDesc j.2) pc r).map (fun l => (j.2.tenant, j.2.seg.toNat, l)) else none)

/-- The postmaster reports a POISON line to the owner of its segment; a line that lies in no segment is the postmaster's own (a table, a
context area, a stripe to be rewritten) and goes to the PF, with a DETAIL the spec does not state (R349, R716, log 25). -/
def reportPoison (pc r : Nat) (s : State) : State :=
  match (lineOwner s pc r).orElse (fun _ => fillOwner s pc r) with
  | some (n, seg, l) => unsolicited (.vf n) 0x0601 (BitVec.ofNat 64 (seg * 2 ^ 52 + l % 2 ^ 34)) s
  | none => unsolicited .pf 0x0601 (Config.freeValue s.free) (tick s)

/-- A POISON line written by the scrubber or a repair (R348, R349, R353). -/
def writePoison (pc r : Nat) (s : State) : State :=
  let s1 := putLine pc r poisonLine s
  let s2 := updHc (pc / 64) 0x030 (fun v => setFld v 15 0 (min (fld v 15 0 + 1) 65535)) s1
  reportPoison pc r (hcSetStatus (pc / 64) 5 s2)

/-- HBM_POISON_REWRITE: the oldest uncorrectable scrubbed line becomes a POISON line (R348). -/
def execHbmPoisonRewrite (pc : Nat) (s : State) : Host.Outcome State Fault Refusal :=
  onUnit (decide (pc < 1024)) s (fun s =>
    if !postCyclesRun s then s
    else match (getChan s pc).poison with
      | [] => s
      | r :: _ => writePoison pc r s)

/-! ### Repair -/

/-- One line of a unit as a repair copies it (R353): every copy is a write (R360). -/
def repairLine (pc r : Nat) (s : State) : State :=
  let l := getLine s pc r
  if isUnwritten l then putLine pc r l s
  else match checkLine l with
    | (.good, v) => putLine pc r ⟨v.1, v.2, 0, l.key⟩ s
    | (.corrected b, v) => putLine pc r ⟨v.1, v.2, 0, l.key⟩ (hcLog pc r b 6 s)
    | (.bad, _) => writePoison pc r s

/-- A repair ends: RESULT, GO, REPAIR_BUSY and REPAIR_DONE (R351, R354). -/
def endRepair (k result : Nat) (s : State) : State :=
  hcSetStatus k 2 (updHc k 0x004 (fun v => clrBit v 0) (updHc k 0x010 (fun v => clrBit (setFld v 4 3 result) 31) s))

/-- HBM_REPAIR_DONE: the copied unit is mapped to its spare, and the soft fuse is recorded (R351 to R353, R355). -/
def execHbmRepairDone (stack : Nat) (s : State) : Host.Outcome State Fault Refusal :=
  onUnit (decide (stack < 16)) s (fun s =>
    let g := hcReg s stack 0x010
    let pc := 64 * stack + fld g 30 25
    match (getChan s pc).copying with
    | none => s
    | some u =>
      if !postCyclesRun s then s
      else
      let s1 := forN 16 (fun i s => repairLine pc (16 * u + i) s) s
      let s2 := updChan s1 pc (fun c => { c with copying := none, sparesUsed := c.sparesUsed + 1, spared := addOnce c.spared u })
      endRepair stack 1 { s2 with sys := { s2.sys with softUnits := s2.sys.softUnits ++ [(pc, u)] } })

end Sys2Proof.Machine
end

