-- ==== Sys2Proof/Machine/TileEvents.lean ====
section
/-! DEFINITION. What the tile store does on its own: fills, the patrol scrubber, correction write-backs and row repair
(spec 02). -/
namespace Sys2Proof.Machine

open Sys2Proof

/-! ### Fill (R52, R53) -/

/-- A fill of tile p: every word is zero INT; an injection armed for a word of it acts on that word (R53, R81). -/
def fillStore (p : Nat) (s : State) : State :=
  let s1 := updP s p (fun t => { t with store := ⟨true, []⟩, writeBacks := [] })
  let a := (getP s p).reg 0x0F8
  if bit a 31 then tsWrite p (fld a 22 19 * 32768 + fld a 18 9 * 32 + fld a 8 4) ⟨0, 1⟩ s1 else s1

/-- A fill of tile p ends, whoever started it: GO and FILL_BUSY clear, FILL_DONE sets with its event (R53, R85). -/
def endFill (p : Nat) (s : State) : State :=
  tsSetStatus p 2 (updP (fillStore p s) p (fun x => (x.updReg 0x004 (fun v => clrBit v 0)).setReg 0x0E4 0))

/-- FILL_DONE: a running fill ends (R53, R85). -/
def execFillDone (t : Nat) (s : State) : Host.Outcome State Fault Refusal :=
  onTile t s (fun s =>
    let p := physOf s t
    if bit ((getP s p).reg 0x004) 0 then endFill p s else s)

/-! ### POISON words (R61) -/

/-- The postmaster reports a POISON word written in tile p to the owning tenant. -/
def reportPoisonWord (p w : Nat) (s : State) : State :=
  match (getP s p).owner with
  | some (n, i) => unsolicited (.vf n) 0x0602 (BitVec.ofNat 64 (i * 2 ^ 32 + 8 * w)) s
  | none => s

/-- Maintenance found word w uncorrectable and writes it as POISON, the scrubber with `tsRewrite`, a repair with `tsWrite` (R60, R61). -/
def poisonStored (wr : Nat → Nat → TWord → State → State) (p w : Nat) (s : State) : State :=
  reportPoisonWord p w (wr p w poisonWord (recordUncorr p w 0xD s))

/-! ### Patrol scrub (R64 to R66) -/

/-- First row at or after r that the scrubber visits: rows of the tenant's banks and the system rows, by address. -/
def scrubNext (mask : BitVec 32) (r : Nat) : Nat :=
  if 0x3FF0 ≤ r ∨ mask.getLsbD (r / 1024) then r
  else match (List.range 16).find? (fun b => decide (r / 1024 < b) && mask.getLsbD b) with
    | some b => 1024 * b
    | none => 0x3FF0

/-- One word of a scrubbed row. -/
def scrubWord (p w : Nat) (s : State) : State :=
  match checkWord ((getP s p).store.cell w) with
  | (.good, _) => s
  | (.corrected b, _) => logCorrection p w b 0xD s
  | (.bad, _) => poisonStored tsRewrite p w s

/-- TILE_SCRUB_ATTEMPT: an enabled scrubber on an assigned tile reads its next row (R64, R65, R713). -/
def execTileScrubAttempt (t : Nat) (s : State) : Host.Outcome State Fault Refusal :=
  onTile t s (fun s =>
    let p := physOf s t
    let x := getP s p
    if !bit (setupOf x).2 31 || x.owner.isNone || bit (x.reg 0x004) 0 || inDoze s then s
    else
      let r := scrubNext (x.reg 0x008) x.scrubRow
      updP (forN 32 (fun i s => scrubWord p (32 * r + i) s) s) p (fun x => { x with scrubRow := (r + 1) % 16384 }))

/-! ### Correction write-back (R56) -/

/-- TS_CORRECTION_WRITEBACK: the corrected words of one row of a bank are written back together. -/
def execTsCorrectionWriteback (t bank : Nat) (s : State) : Host.Outcome State Fault Refusal :=
  onUnit (decide (t < nTiles s ∧ bank < 16)) s (fun s =>
    let p := physOf s t
    let x := getP s p
    match x.writeBacks.find? (fun w => bankOf w == bank) with
    | none => s
    | some w =>
      let ws := x.writeBacks.filter (fun v => v / 32 == w / 32)
      forL ws (fun v s => updP s p (fun x =>
        let c := (checkWord (x.store.cell v)).2
        { x with store := x.store.put v ⟨c.data, c.tag, 0⟩, writeBacks := dropAll x.writeBacks v })) s)

/-! ### Row repair (R69 to R74) -/

/-- Spare rows left in a bank. -/
def spareRows (t : Tile) (bank : Nat) : Nat := 32 - tget (fun _ => 0) t.sparesUsed bank

/-- One word of the row as the repair copies it (R70). -/
def repairWord (p w : Nat) (s : State) : State :=
  match checkWord ((getP s p).store.cell w) with
  | (.good, v) => tsWrite p w v s
  | (.corrected b, v) => tsWrite p w v (logCorrection p w b 0xD s)
  | (.bad, _) => poisonStored tsWrite p w s

/-- A repair ends with a result (R69, R72). -/
def endRowRepair (p result : Nat) (s : State) : State :=
  tsSetStatus p 3 (updP s p (fun x =>
    (x.updReg 0x0E0 (fun v => clrBit (setFld v 16 15 result) 31)).updReg 0x004 (fun v => clrBit v 1)))

/-- TILE_ROW_REPAIR: at a data-face boundary a requested repair moves the row to a spare and is added to the soft-fuse table, a further
time where the row was repaired before, or is refused for want of a spare (R69 to R74). -/
def execTileRowRepair (t : Nat) (s : State) : Host.Outcome State Fault Refusal :=
  onTile t s (fun s =>
    let p := physOf s t
    let g := (getP s p).reg 0x0E0
    let b := fld g 30 27
    let r := 1024 * b + fld g 26 17
    if !bit g 31 || bit ((getP s p).reg 0x004) 0 || !tileBoundary (getP s p) then s
    else if spareRows (getP s p) b = 0 then endRowRepair p 2 s
    else
      let s1 := forN 32 (fun i s => repairWord p (32 * r + i) s) s
      let s2 := updP s1 p (fun x => { x with
        sparesUsed := tset (fun _ => 0) x.sparesUsed b (tget (fun _ => 0) x.sparesUsed b + 1), spared := addOnce x.spared r })
      endRowRepair p 1 { s2 with sys := { s2.sys with softRows := s2.sys.softRows ++ [(p, r)] } })

end Sys2Proof.Machine
end

