-- ==== Sys2Proof/Machine/Reset.lean ====
section
/-! DEFINITION. Cold and warm device resets and the fence (R628 to R632, R660): what each clears and what each keeps. -/
namespace Sys2Proof.Machine

open Sys2Proof

/-- FX_ID as the fabric record in force names the device (R518). -/
def nameDevice (s : State) : State :=
  match s.sys.record with
  | some d => setFx 0x00 (BitVec.ofNat 32 (2 ^ 31 + d.toNat)) s
  | none => s

/-- The phase that the pins allow: off, held in cold reset, or booting (R683, R688, R689). -/
def pinPhase (y : Sys) : Phase :=
  if !y.pwrGood then .off else if !y.perstN || y.testMode then .held else .booting

/-! ### Flash (R642) -/

/-- Bytes of a flash device. -/
def flashBytes (dev : Bool) : Nat := 2 ^ (Config.flashSizeLog2 dev).toNat
/-- Bytes that the operation of FL_CMD covers. -/
def flashSpan (v : BitVec 32) : Nat := fld v 15 0 * (if fld v 30 29 = 2 then 65536 else 256)

def flashOf (s : State) (b : Bool) : Flash := if b then s.flashB else s.flashA
/-- A byte of a flash device; an erased byte, and one never written, reads 0xFF (log 23). -/
def flashByte (s : State) (b : Bool) (a : Nat) : BitVec 8 := tget (fun _ => 0xFF) (flashOf s b).bytes a
/-- Write bytes of a flash device. -/
def putFlash (b : Bool) (at_ : Nat) (bytes : List (BitVec 8)) (s : State) : State :=
  let f := forN bytes.length (fun i t => tset (fun _ => 0xFF) t (at_ + i) (nthD 0xFF bytes i)) (flashOf s b).bytes
  if b then { s with flashB := ⟨f⟩ } else { s with flashA := ⟨f⟩ }

/-- Eight bytes from byte a on as a word. -/
def flashWord (s : State) (b : Bool) (a : Nat) : Word :=
  BitVec.ofNat 64 (forN 8 (fun i n => n * 256 + (flashByte s b (a + 7 - i)).toNat) 0)

/-- Byte i of the part of the requesting postmaster's private store that a flash operation uses. -/
def bufferByte (s : State) (i : Nat) : BitVec 8 :=
  let a := (flReg s 0x00C).toNat + i
  ((checkWord ((getPm s s.sys.flBy).store.cell (a / 8))).2.data.extractLsb' (8 * (a % 8)) 8)

/-- The bytes that a program or erase leaves: erased bytes are 0xFF, and a program clears bits of the bytes it finds (log 23). -/
def flashBytesAfter (s : State) : List (BitVec 8) :=
  let v := flReg s 4
  let a := (flReg s 8).toNat
  (List.range (flashSpan v)).map (fun i => if fld v 30 29 = 2 then 0xFF else flashByte s (bit v 28) (a + i) &&& bufferByte s i)

/-- A flash operation takes effect: a read fills the buffer with INT words, a program or erase changes the device. -/
def performFlash (s : State) : State :=
  let v := flReg s 4
  let a := (flReg s 8).toNat
  if fld v 30 29 = 0 then
    let w := (flReg s 0x00C).toNat / 8
    updPm s s.sys.flBy (fun p => { p with
      store := forN (flashSpan v / 8) (fun i st => st.put (w + i) ⟨flashWord s (bit v 28) (a + 8 * i), 1, 0⟩) p.store })
  else putFlash (bit v 28) a (flashBytesAfter s) s

/-- An operation that fails or is cut short leaves each byte of a program or erase, or each word of a read's buffer, as it was or as it
was to be (R632, log 23): which, is free. -/
def tearFlash (s : State) : State :=
  let v := flReg s 4
  let a := (flReg s 8).toNat
  if fld v 30 29 = 0 then
    let w := (flReg s 0x00C).toNat / 8
    tick (updPm s s.sys.flBy (fun p => { p with
      store := forN (flashSpan v / 8) (fun i st =>
        if (Config.freeValue s.free).toNat.testBit i then st.put (w + i) ⟨flashWord s (bit v 28) (a + 8 * i), 1, 0⟩ else st) p.store }))
  else
    let new := flashBytesAfter s
    tick (putFlash (bit v 28) a ((List.range new.length).map (fun i =>
      if (Config.freeValue s.free).toNat.testBit i then nthD 0xFF new i else flashByte s (bit v 28) (a + i))) s)

/-- A flash operation is under way. -/
def flashBusy (s : State) : Bool := bit (flReg s 4) 31
/-- A flash program or erase is under way (R632, R642). -/
def flashWrites (s : State) : Bool := flashBusy s && fld (flReg s 4) 30 29 != 0

/-- What survives every reset in the system part: pins, flash records, roles of a fresh start, and the cause (R631). -/
def sysAfter (y : Sys) (cause : Nat) : Sys :=
  { Sys.reset with
    pwrGood := y.pwrGood, perstN := y.perstN, testMode := y.testMode, phase := pinPhase y, lastReset := BitVec.ofNat 4 cause,
    active := y.active, record := y.recordNext, recordNext := y.recordNext, softRows := y.softRows, softUnits := y.softUnits,
    softTiles := y.softTiles, dumpFlash := y.dumpFlash }

/-- The input filters after a reset at SCLK n: taken as deasserted, whatever the inputs' levels, and a change shown 2 SCLK after LENGTH
samples (R561, R562). -/
def freshFilters (old : Tbl Filter) (n : Nat) : Tbl Filter :=
  forN 6 (fun i l => tset (fun _ => Filter.reset) l i { Filter.reset with since := n + 2, raw := (tget (fun _ => Filter.reset) old i).raw }) []

/-- A cold reset (R631): everything returns to its reset value but the commands waiting, the fuses, the flash devices and what
lies in them, and the model's own counters. A flash write in progress may be torn (R632). -/
def coldReset (cause : Nat) (s0 : State) : State :=
  let s := if flashBusy s0 then tearFlash s0 else s0
  nameDevice { State.reset with
    pending := s.pending, fuses := s.fuses, sclk := s.sclk, free := s.free, flashA := s.flashA, flashB := s.flashB, out := s.out,
    filters := freshFilters s.filters s.sclk, sys := sysAfter s.sys cause }

/-- A granted counter-slot request completes before a warm device reset (R629). -/
def finishHeld (pc : Nat) (s : State) : State :=
  match (getChan s pc).held with
  | none => s
  | some h =>
    let s1 := updChan (settle pc h.r s) pc (fun c => { c with held := none })
    match h.job with
    | some j => jobLineDone j pc s1
    | none => s1

/-- A pseudo-channel after a warm device reset: background rewrites go on, everything else asked of it is gone, write-backs are
dropped, and a repair not switched in is abandoned (R631, R632). -/
def warmChan (c : PChan) : PChan :=
  { c with
    reqs := c.reqs.filter (fun q => match q.op with | .job _ => true | _ => false), held := none, writeBacks := [], poison := [],
    copying := none }

/-- A tile after a warm device reset: the TS block but TS_STATUS and TS_FILL is kept, and its repairs (R631). -/
def warmTile (t : Tile) : Tile :=
  { Tile.reset with
    regs := t.regs.filter (fun kv => decide (kv.1 < 0x200) && kv.1 != 0x004 && kv.1 != 0x0E4),
    sparesUsed := t.sparesUsed, spared := t.spared, scrubRow := t.scrubRow, bankPtr := t.bankPtr, conflicts := t.conflicts,
    conflictWrap := t.conflictWrap }

/-- A tenant after a warm device reset: RESIDENT with its contract, segments, bound key and root key; a tenant reset that ran is
abandoned (R628, R631). One whose VF had been disabled is DISABLED. -/
def warmTenant (t : Tenant) : Tenant :=
  if t.disabling then Tenant.reset
  else
    { t with
      st := if t.st == .disabled then .disabled else .resident, tiles := [], saved := [], credit := 0, svcCredit := 0, svcPtr := 0,
      spdm := Spdm.empty, resetStep := none, abandoned := 0, deficit := [] }

/-- A mailbag after a warm device reset: disabled, counts 0 (R631). -/
def warmBag (b : Mailbag) : Mailbag :=
  { Mailbag.reset with cfg := clrBit b.cfg 31, ring := b.ring, tray := b.tray, status := clrBit b.status 3 }

/-- A warm device reset (R629, R631, R632, R636). The plan and the book in force are kept for start-up to restore; a fill whose envelope
is abandoned gives its stripes back. A flash write completes (R632). The device's own keys, those of links and of sessions, and the root key of a tenant
whose VF is disabled are destroyed (R424, R631). -/
def warmReset (cause : Nat) (s0 : State) : State :=
  let lost := fun (k : Nat) => linkOrFranking k || (decide (0x800 ≤ k) && decide (k < 0xC00) && (getTen s0 (k - 0x800)).disabling)
  let s1 := forL (s0.chans.map (·.1)) finishHeld (forL ((s0.keys.map (·.1)).filter lost) destroyKey s0)
  let s2 := forL (s1.jobs.filter (fun j => j.2.kind == .fill)) abandonJob s1
  let s := if flashBusy s2 then performFlash s2 else s2
  let y := { sysAfter s.sys cause with
    inactiveVerified := s.sys.inactiveVerified, dumpHbm := s.sys.dumpHbm, eventLog := s.sys.eventLog,
    smbAlert := s.sys.smbAlert, thermAlert := s.sys.thermAlert, throttled := s.sys.throttled,
    planKept := if s.plan == ⟨0, [], []⟩ then s.sys.planKept else some s.plan,
    bookKept := match s.book with | some b => some b.words | none => s.sys.bookKept }
  nameDevice { State.reset with
    pending := s.pending, fuses := s.fuses, sclk := s.sclk, free := s.free, flashA := s.flashA, flashB := s.flashB, out := s.out,
    filters := freshFilters s.filters s.sclk, sys := y,
    time := { s.time with rate := 2 ^ 32, trim := 0, slew := 0, good := 0, lastOwn := 0, lastParent := 0 }, tiles := tmap Tile.reset warmTile s.tiles, hbm := s.hbm,
    hcStacks := s.hcStacks, chans := tmap PChan.reset warmChan s.chans, jobs := s.jobs, nextJob := s.nextJob, postCycle := s.postCycle,
    tenants := tmap Tenant.reset warmTenant s.tenants, numVfs := s.numVfs, vfEnable := s.vfEnable, pfUnsol := s.pfUnsol,
    pfLost := s.pfLost, pfFaults := s.pfFaults, bags := tmap Mailbag.reset warmBag s.bags, buffers := s.buffers, keys := s.keys,
    ctxs := s.ctxs, rotation := s.rotation, ideActive := s.ideActive, vecs := s.vecs, fmask := s.fmask, cfgRegs := s.cfgRegs, stewards := s.stewards,
    nextXtag := s.nextXtag, nextServed := s.nextServed, nextEnv := s.nextEnv }

/-- A requested cold or warm device reset. -/
def requestCold (cause : Nat) (s : State) : State := if powered s || s.sys.phase == .held then coldReset cause s else s
def requestWarm (cause : Nat) (s : State) : State := if powered s then warmReset cause s else s

/-! ### The fence (R660, R661) -/

/-- A tile stops as the fence stops it: its engine at its next instruction boundary, its units and its round where they stand
between strips, to go no further. -/
def fenceTile (t : Nat) (s : State) : State :=
  let s1 := drainRound t s
  updTile s1 t (fun tl =>
    let tl1 := if tl.eng.runstate = 1 then tl.updReg 0x200 (fun v => setBit v 1) else tl
    { tl1 with units := tl.units.map parkUnit, round := tl.round.map (fun r => { r with st := 4 }) })

def fenceTiles (s : State) : State := forL (List.range (nTiles s)) fenceTile s

/-- The fence engages: READY falls, an uncorrectable internal error is reported, tiles stop, repairs not switched in keep the old
mapping, neighbours see FENCED, and every maintenance activity stops. -/
def engageFence (s : State) : State :=
  if s.sys.fenced then s
  else
    let s1 := { s with
      sys := { s.sys with fenced := true, ready := false, activities := [], handover := none, dumping := none },
      chans := tmap PChan.reset (fun c => { c with copying := none }) s.chans }
    let s2 := emit .aerInternalError (updFx 0x04 (fun v => setBit v 0) (fenceTiles s1))
    forN 32 (fun p s => if linkUp s p then sendLink p 1 (Config.helloBody (ownId s) p (named s) true) s else s) s2

end Sys2Proof.Machine
end

