-- ==== Sys2Proof/Machine/RegRead.lean ====
section
/-! DEFINITION. The control matrix's address map, and what each register reads as (spec 13 and the register sections of
spec 02, 04 to 08, 10 to 12, 14, 15). -/
namespace Sys2Proof.Machine

open Sys2Proof

/-! ### Masters and addresses -/

/-- Master IDs (spec 13, Masters). -/
def masterId : Master → Nat
  | .pmA => 0
  | .pmB => 1
  | .pcie _ => 2
  | .loader => 3
  | .debug => 4
  | .tilePort t => 0x10 + t

/-- The blocks of the address map. -/
inductive Block where
  | ident | cm | fuse | flash | ks | ch
  | ic (b : Bool)
  | fabric
  | hc (k : Nat)
  | st (n : Nat)
  | tile (t : Nat)
  | inbox
  | bar0 (f : Fn)
  deriving DecidableEq, Repr

/-- Target ID of a block. -/
def targetOf : Block → Nat
  | .ident => 0
  | .cm => 1
  | .fuse => 2
  | .flash => 3
  | .ks => 4
  | .ch => 5
  | .ic b => if b then 7 else 6
  | .fabric => 8
  | .hc k => 0x10 + k
  | .st n => 0x20 + n
  | .tile t => 0x40 + t
  | .inbox => 0xC0
  | .bar0 _ => 0xC1

/-- The function whose BAR 0 range is number f of the map. -/
def fnOf (f : Nat) : Fn := if f = 0 then .pf else .vf (f - 1)
def fnNo : Fn → Nat
  | .pf => 0
  | .vf n => n + 1

/-- The block that an address lies in, with the offset in it; none where the map decodes nothing (R600). -/
def decodeAddr (s : State) (a : Nat) : Option (Block × Nat) :=
  if a < 0x1000 then some (.ident, a)
  else if a < 0x2000 then some (.cm, a - 0x1000)
  else if a < 0x3000 then some (.fuse, a - 0x2000)
  else if a < 0x4000 then some (.flash, a - 0x3000)
  else if a < 0x5000 then some (.ks, a - 0x4000)
  else if 0x10000 ≤ a ∧ a < 0x12000 then some (.ch, a - 0x10000)
  else if 0x14000 ≤ a ∧ a < 0x15000 then some (.ic false, a - 0x14000)
  else if 0x15000 ≤ a ∧ a < 0x16000 then some (.ic true, a - 0x15000)
  else if 0x20000 ≤ a ∧ a < 0x21000 then some (.fabric, a - 0x20000)
  else if 0x30000 ≤ a ∧ a < 0x40000 then some (.hc ((a - 0x30000) / 4096), a % 4096)
  else if 0x40000 ≤ a ∧ a < 0x48000 then some (.st ((a - 0x40000) / 4096), a % 4096)
  else if 0x100000 ≤ a ∧ a < 0x100000 + 4096 * nTiles s then some (.tile ((a - 0x100000) / 4096), a % 4096)
  else if 0x200000 ≤ a ∧ a < 0x202000 then some (.inbox, a - 0x200000)
  else if 0x10000000 ≤ a ∧ a < 0x10000000 + 0x20000 * 1025 then
    some (.bar0 (fnOf ((a - 0x10000000) / 0x20000)), (a - 0x10000000) % 0x20000)
  else none

/-- Addresses of register blocks. -/
def tileAddr (t off : Nat) : BitVec 32 := BitVec.ofNat 32 (0x100000 + 4096 * t + off)
def hcAddr (k off : Nat) : BitVec 32 := BitVec.ofNat 32 (0x30000 + 4096 * k + off)
def barAddr (f : Fn) (off : Nat) : BitVec 32 := BitVec.ofNat 32 (0x10000000 + 0x20000 * fnNo f + off)

/-! ### Tile block -/

/-- Active owners of the banks: the sheet's while a round runs, otherwise the standing ones (R41). -/
def ownersActive (t : Tile) (hi : Bool) : BitVec 32 := (t.sheetOwners.getD (setupOf t).1).extractLsb' (if hi then 32 else 0) 32

/-- One bit for each number in a list. -/
def bitsOf (l : List Nat) : Nat := l.foldl (fun a n => a ||| 2 ^ n) 0

/-- TX_STATE beside its stored CFG_REJECT. -/
def txState (x : Engine) : Nat :=
  x.hlevel % 16 * 2 ^ 16 + x.lastCode.toNat * 2 ^ 8 + b2n x.sb.isEmpty * 64 + b2n x.dfault * 32 + b2n x.isSealed * 16 +
    b2n x.waiting * 8 + x.runstate.toNat

/-- TR_TOKENS: the tokens set for the next iteration waited for. -/
def tokensNow (t : Tile) : Nat :=
  match t.round with
  | none => 0
  | some r =>
    let n := copiesOf (parseSheet (sheetAt t r.slot).entries)
    bitsOf ((r.tokens.filter (fun k => k.2 == r.window % n)).map (·.1))

/-- TR_WINDOW: the current window of a running round; otherwise the next (R317). `window` counts on when a window starts. -/
def shownWindow (r : Round) : Nat := if r.st = 2 then r.window - 1 else r.window

/-- What offset off of logical tile t's block reads as. -/
def tileRead (s : State) (t off : Nat) : BitVec 32 :=
  let p := physOf s t
  let x := getP s p
  if off = 0x000 then BitVec.ofNat 32 (p / 17 * 2 ^ 24 + p % 17 * 2 ^ 16 + t * 2 ^ 8)
  else if off = 0x018 then ownersActive x false
  else if off = 0x01C then ownersActive x true
  else if 0x040 ≤ off ∧ off ≤ 0x070 then nthD 0 x.conflicts ((off - 0x040) / 4)
  else if off = 0x074 then x.conflictWrap
  else if off = 0x0E0 then setFld (x.reg 0x0E0) 5 0 (spareRows x (fld (x.reg 0x0E0) 30 27))
  else if off = 0x204 then setFld (x.reg 0x204) 30 0 (txState x.eng)
  else if off = 0x30C then setFld (x.reg 0x30C) 19 10 (bitsOf ((unitCodes x ++ roundCodes x).filter (· < 10)))
  else if off = 0x404 then
    (match x.round with
     | some r => BitVec.ofNat 32 (r.slot * 2 ^ 8 + r.st.toNat)
     | none => 0xF00)
  else if off = 0x408 then BitVec.ofNat 32 ((x.round.map shownWindow).getD 0)
  else if off = 0x40C then BitVec.ofNat 32 (bitsOf ((List.range 8).filter (fun k => (sheetAt x k).loaded)))
  else if off = 0x41C then BitVec.ofNat 32 (tokensNow x)
  else x.reg off

/-! ### HBM controllers, fabric -/

def hcRead (s : State) (k off : Nat) : BitVec 32 :=
  if off = 0x000 then BitVec.ofNat 32 (k * 2 ^ 24 + capGib s * 2 ^ 8)
  else if off = 0x004 then putBit (hcReg s k 0x004) 8 (selfRefresh s)
  else if off = 0x014 then BitVec.ofNat 32 (spareUnits s (64 * k + fld (hcReg s k 0x010) 30 25))
  else hcReg s k off

def portRead (q : Port) (x : Nat) : BitVec 32 :=
  if x = 0x00 then q.status
  else if x = 0x04 then q.peer
  else if x = 0x08 then q.ctrl
  else if x = 0x0C then q.retry
  else if x = 0x10 then q.fec
  else 0

def fabricRead (s : State) (off : Nat) : BitVec 32 :=
  if off < 0x800 then portRead (getPort s (off / 64)) (off % 64) else fxReg s (off - 0x800)

/-! ### Chutes, interrupt controllers, vectors, mailbags -/

def chRead (s : State) (off : Nat) : BitVec 32 :=
  if off < 0x1000 then
    let x := getChute s (off / 16)
    if off % 16 = 0 then x.cfg else if off % 16 = 4 then x.owner else if off % 16 = 8 then BitVec.ofNat 32 (b2n x.pending) else 0
  else if off = 0x1000 then s.chStatus else 0

def icRead (s : State) (b : Bool) (off : Nat) : BitVec 32 :=
  if off = 0 then icCtrl s b
  else if b && decide (0x10 ≤ off ∧ off < 0x28) then
    let x := getFilter s ((off - 0x10) / 4)
    BitVec.ofNat 32 (b2n x.level * 256 + x.length.toNat)
  else 0

/-- Number of mailbags and of vectors of a function. -/
def bagsOf : Fn → Nat
  | .pf => 16
  | .vf _ => 64
def vecsOf : Fn → Nat
  | .pf => 2048
  | .vf _ => 16
/-- Offsets of a function's MSI-X table and pending bits in BAR 0 (R608). -/
def msixBase : Fn → Nat
  | .pf => 0x10000
  | .vf _ => 0x2000
def pbaBase : Fn → Nat
  | .pf => 0x18000
  | .vf _ => 0x3000

def half (w : Word) (hi : Bool) : BitVec 32 := w.extractLsb' (if hi then 32 else 0) 32

def bagRead (b : Mailbag) (x : Nat) : BitVec 32 :=
  if x = 0x04 then b.cfg
  else if x = 0x08 then b.status
  else if x = 0x0C then BitVec.ofNat 32 b.head
  else if x = 0x10 then BitVec.ofNat 32 b.tail
  else if x = 0x14 then BitVec.ofNat 32 b.trayHead
  else if x = 0x18 then BitVec.ofNat 32 b.trayTail
  else if x = 0x20 then half b.ring false
  else if x = 0x24 then half b.ring true
  else if x = 0x28 then half b.tray false
  else if x = 0x2C then half b.tray true
  else if x = 0x30 then half b.doneSeq false
  else if x = 0x34 then half b.doneSeq true
  else 0

/-- MSI-X table entries have the layout of PCI Express: address, data, Vector Control (PRESUMED, log 4). -/
def msixRead (x : Vec) (off : Nat) : BitVec 32 :=
  if off = 0 then half x.addr false
  else if off = 4 then half x.addr true
  else if off = 8 then x.data
  else BitVec.ofNat 32 (b2n x.mask)

def bar0Read (s : State) (f : Fn) (off : Nat) : BitVec 32 :=
  if off < 64 * bagsOf f then bagRead (getBag s f (off / 64)) (off % 64)
  else if 0x1000 ≤ off ∧ off < 0x1000 + 16 * vecsOf f then
    let x := getVec s f ((off - 0x1000) / 16)
    if off % 16 = 0 then x.coal else if off % 16 = 4 then BitVec.ofNat 32 x.events else 0
  else if msixBase f ≤ off ∧ off < msixBase f + 16 * vecsOf f then
    msixRead (getVec s f ((off - msixBase f) / 16)) (off % 16)
  else if pbaBase f ≤ off ∧ off < pbaBase f + vecsOf f / 8 then
    BitVec.ofNat 32 (bitsOf ((List.range 32).filter (fun i => (getVec s f (8 * (off - pbaBase f) + i)).pendingBit)))
  else 0

/-! ### Control matrix, fuse controller block, stewards, identity -/

/-- Target IDs that exist. -/
def targetExists (s : State) (x : Nat) : Bool :=
  decide (x ≤ 8) || (decide (0x10 ≤ x) && decide (x < 0x20)) || (decide (0x20 ≤ x) && decide (x < 0x28)) ||
    (decide (0x40 ≤ x) && decide (x < 0x40 + nTiles s)) || x == 0xC0 || x == 0xC1

/-- MCLK since the grant of a lock, at most 256 (R593). -/
def lockAge (s : State) (l : Lock) : Nat := min 256 (10 * (s.sclk - l.since))

def lockRead (s : State) (x : Nat) : BitVec 32 :=
  if targetExists s x then
    let l := getLock s x
    let v := b2n l.broken * 2 ^ 30
    match l.owner with
    | some m => BitVec.ofNat 32 (2 ^ 31 + v + masterId m * 2 ^ 16 + lockAge s l)
    | none => BitVec.ofNat 32 v
  else 0

def cmRead (s : State) (off : Nat) : BitVec 32 :=
  if 0x100 ≤ off ∧ off < 0x500 then lockRead s ((off - 0x100) / 4) else cmReg s off

/-- SY_STATE.STATE (spec 14): RUN or IDLE outside DOZE. IDLE while every enabled tile is clock-gated (R618). -/
def gated (t : Tile) : Bool :=
  t.eng.runstate != 1 && t.units.isEmpty && t.round.isNone && fld (t.reg 0x30C) 9 0 == 0 && t.waking.isEmpty
def syState (s : State) : Nat :=
  match s.sys.doze with
  | .run => if (List.range (nTiles s)).all (fun t => gated (getTile s t)) then 1 else 0
  | .entering => 2
  | .dozing => 3
  | .exiting => 4

def fuseRead (s : State) (off : Nat) : BitVec 32 :=
  if off = 0x004 then BitVec.ofNat 32 (s.fuses.revoked.toNat * 2 ^ 12 + s.sys.root.toNat * 2 ^ 10 + s.fuses.svn.toNat)
  else if off = 0x800 then setFld (fcReg s 0x800) 7 0 (s.sys.lastReset.toNat * 16 + syState s)
  else if off = 0xA00 then setFld (fcReg s 0xA00) 5 2 (s.sys.stateB.toNat * 4 + s.sys.stateA.toNat)
  else fcReg s off

def flashRead (s : State) (off : Nat) : BitVec 32 :=
  if off = 0 then setFld (flReg s 0) 15 8 (Config.flashSizeLog2 (bit (flReg s 4) 28)).toNat else flReg s off

def ksRead (s : State) (off : Nat) : BitVec 32 :=
  if off = 0 then putBit (ksReg s 0) 3 s.rotation.isSome else ksReg s off

/-- The spare position of a die (R20, R21) (DESIGN CHOICE, log 5: the fuses that say which are not given), and whether it is free to take a logical number. -/
def spareOf (s : State) (die : Nat) : Nat := 17 * die + perDie s
def spareFree (s : State) (die : Nat) : Bool :=
  (logicalOf s (spareOf s die)).isNone && !s.sys.softTiles.contains (spareOf s die)

/-- LOGICAL and USE of a physical position (ST_MAP). DESIGN CHOICE (log 5): on a fresh part the positions above the spare are those fused
off. -/
def mapRead (s : State) (p : Nat) : BitVec 32 :=
  match logicalOf s p with
  | some t => BitVec.ofNat 32 (t * 2 ^ 8)
  | none =>
    let use := if s.sys.softTiles.contains p then 2 else if p % 17 = perDie s then 1 else 3
    BitVec.ofNat 32 (0xFF00 + use)

def stRead (s : State) (n off : Nat) : BitVec 32 :=
  if off = 0 then putBit (stReg s n 0) 0 (spareFree s n)
  else if 0x100 ≤ off ∧ off ≤ 0x140 then mapRead s (17 * n + (off - 0x100) / 4)
  else stReg s n off

def orderCode (s : State) : Nat := match s.fuses.order with | .x1_128 => 0 | .x2_128 => 1 | .x2_112 => 2

/-- The PCIe Device ID of a function, whatever the order code (R1, R5). -/
def deviceId : Fn → BitVec 16
  | .pf => 0x9A00
  | .vf _ => 0x9A01
/-- The PCIe Revision ID byte of a function, the PF's or a VF's: the silicon revision (R6). -/
def revisionId (s : State) (_ : Fn) : BitVec 8 := s.fuses.revision

/-- The fuse-map digest, hard repairs with it (R419, measurement 3). -/
def fuseDigest (s : State) : BitVec 384 :=
  Config.fuseDigest (orderCode s) s.fuses.revision s.fuses.svn s.fuses.revoked s.fuses.hardRows s.fuses.hardUnits

def identRead (s : State) (off : Nat) : BitVec 32 :=
  if off = 0 then (deviceId .pf).setWidth 32
  else if off = 4 then BitVec.ofNat 32 (nTiles s * 2 ^ 16 + capGib s * 2 ^ 8 + (revisionId s .pf).toNat)
  else if off = 8 then BitVec.ofNat 32 (orderCode s)
  else if 0x40 ≤ off ∧ off < 0x70 then (fuseDigest s).extractLsb' (8 * (off - 0x40)) 32
  else 0

/-- A word of a tile's port of the ESEND inbox: of the last 64 bytes that a transfer moved there (DEDUCED, log 27). -/
def inboxRead (s : State) (off : Nat) : BitVec 32 :=
  (wordAt (tget (fun _ => []) s.cm.inbox (off / 64)) (off % 64 / 8)).extractLsb' (32 * (off % 8 / 4)) 32

/-- What a register reads as. -/
def readReg (s : State) (b : Block) (off : Nat) : BitVec 32 :=
  match b with
  | .ident => identRead s off
  | .cm => cmRead s off
  | .fuse => fuseRead s off
  | .flash => flashRead s off
  | .ks => ksRead s off
  | .ch => chRead s off
  | .ic b => icRead s b off
  | .fabric => fabricRead s off
  | .hc k => hcRead s k off
  | .st n => stRead s n off
  | .tile t => tileRead s t off
  | .inbox => inboxRead s off
  | .bar0 f => bar0Read s f off

end Sys2Proof.Machine
end

