-- ==== Sys2Proof/Machine/RegWrite.lean ====
section
/-! DEFINITION. What a write does in each register block (spec 13, R603 to R606, R714, and the register sections). -/
namespace Sys2Proof.Machine

open Sys2Proof

/-! ### Wakes noted while DOZE is requested or running (R621, R623) -/

/-- A wake cause without a chute of its own is latched from the request latch on, while it is enabled. -/
def noteWake (c : Nat) (s : State) : State :=
  if s.sys.doze != .run && (fcReg s 0x804).getLsbD c then { s with sys := { s.sys with latched := s.sys.latched ||| (1#6 <<< c) } } else s

/-! ### The generic write -/

/-- A reserved value in some field. -/
def valBad (sp : RegSpec) (d : BitVec 32) : Bool :=
  sp.any (fun f => match f.kind with | .rw => f.bad (fld d f.hi f.lo) | _ => false)

/-- A protected field would change (R714). -/
def wouldChange (old d : BitVec 32) (m : BitVec 32) : Bool := (old &&& m) != (d &&& m)

/-! ### Tile block -/

/-- Where a tile block keeps its CFG_REJECT for an offset: register and bit. -/
def tileReject (off : Nat) : Nat × Nat :=
  if off < 0x200 then (0x004, 6) else if off < 0x300 then (0x204, 31) else if off < 0x400 then (0x300, 0)
  else if off < 0x500 then (0x400, 4) else if off < 0x600 then (0x504, 4) else (0x604, 10)

/-- Set the CFG_REJECT of the block that holds an offset. -/
def rejectTile (off : Nat) (t : Tile) : Tile := t.updReg (tileReject off).1 (fun v => setBit v (tileReject off).2)

/-- The plain write of a tile register (R603 to R605). -/
def plainTile (off : Nat) (d : BitVec 32) (t : Tile) : Tile :=
  let r := regWrite (tileSpec t.owner.isSome off) (t.reg off) d
  let t1 := t.setReg off r.1
  if r.2 then rejectTile off t1 else t1

/-- Clear VALID in n log entries of a step, and set NEXT to 0. -/
def clearLog (head first step n : Nat) (t : Tile) : Tile :=
  (forN n (fun e t => t.updReg (first + step * e) (fun v => clrBit v 31)) t).updReg head (fun v => setFld v 3 0 0)

/-- TX_CTRL (R191, R192). START after a tile stop resumes what the stop parked (R245). -/
def writeTxCtrl (d : BitVec 32) (t : Tile) : Tile :=
  let refused := bit d 0 && (bit d 1 || t.eng.runstate == 1 || t.eng.dfault)
  if refused then rejectTile 0x200 t
  else
    let t1 := plainTile 0x200 d t
    if bit d 0 then
      releaseCause 1 { t1 with eng := { t1.eng with runstate := 1, known := t1.eng.cycles } }
    else t1

/-- TX_DINV (R162, R193). -/
def writeDinv (d : BitVec 32) (t : Tile) : Tile :=
  let old := t.reg 0x208
  if bit old 31 && wouldChange old d (maskOf 30 30 ||| maskOf 11 0) then rejectTile 0x208 t
  else
    let t1 := plainTile 0x208 d t
    let v := t1.reg 0x208
    if bit v 31 && t1.eng.runstate != 1 then
      let dc := if bit v 30 then [] else t1.eng.dcache.filter (fun p => p.1.toNat != fld v 11 0)
      { (t1.setReg 0x208 (clrBit v 31)) with eng := { t1.eng with dcache := dc } }
    else t1

/-- TR_SHEETS.FREE (R303, R318). -/
def writeSheets (d : BitVec 32) (t : Tile) : Tile :=
  let f := fld d 15 8
  let held := match t.round with | some r => f.testBit r.slot | none => false
  if held then rejectTile 0x40C t
  else
    let t1 := forN 8 (fun i t => if f.testBit i then { t with sheets := tset (fun _ => Sheet.empty) t.sheets i (freeSheet (sheetAt t i)) } else t) t
    if (d &&& maskOf 31 16) != 0 then rejectTile 0x40C t1 else t1

/-- TF_CTRL: reserved values leave the whole register unchanged (R395). -/
def writeTfCtrl (d : BitVec 32) (t : Tile) : Tile :=
  if fld d 3 2 = 3 ∨ fld d 1 0 = 3 ∨ fld d 1 0 < fld d 3 2 then rejectTile 0x500 t else plainTile 0x500 d t

/-- TS_FILL.GO is accepted on a tile where nothing is in progress (R54). -/
def writeFill (d : BitVec 32) (t : Tile) : Tile :=
  if !bit d 31 then plainTile 0x0E4 d t
  else if t.eng.runstate == 1 || t.round.isSome || !t.units.isEmpty then rejectTile 0x0E4 t
  else (plainTile 0x0E4 d t).updReg 0x004 (fun v => setBit v 0)

/-- TS_REPAIR (R69, R73). -/
def writeRowRepair (d : BitVec 32) (t : Tile) : Tile :=
  let old := t.reg 0x0E0
  if bit old 31 && wouldChange old d (maskOf 30 17) then rejectTile 0x0E0 t
  else
    let t1 := plainTile 0x0E0 d t
    if bit d 31 then t1.updReg 0x004 (fun v => setBit v 1) else t1

/-- TS_OWNER_STANDING and TS_SCRUB: work in progress on the data face goes on with what it began with (R23, R24). -/
def keepSetup (t : Tile) : Tile := { t with setup := if tileBoundary t then none else some (setupOf t) }

/-- Registers of a tile block whose write needs the tile alone. -/
def writeTileReg (off : Nat) (d : BitVec 32) (t : Tile) : Tile :=
  if (tileSpec false off).isEmpty then t
  else if off = 0x004 then
    let t1 := plainTile off d t
    if bit d 5 then t1.updReg 0x0F4 (fun v => clrBit v 31) else t1
  else if 0x040 ≤ off ∧ off ≤ 0x070 then { t with conflicts := setAt t.conflicts ((off - 0x040) / 4) d }
  else if off = 0x074 then
    let t1 := { t with conflictWrap := t.conflictWrap &&& ~~~ (d &&& maskOf 12 0) }
    if (d &&& ~~~ maskOf 12 0) != 0 then rejectTile off t1 else t1
  else if off = 0x010 ∨ off = 0x014 ∨ off = 0x0E8 then plainTile off d (keepSetup t)
  else if off = 0x0E0 then writeRowRepair d t
  else if off = 0x0E4 then writeFill d t
  else if off = 0x0F0 then
    let t1 := plainTile off d t
    if bit d 15 then clearLog 0x0F0 0x100 8 16 t1 else t1
  else if off = 0x200 then writeTxCtrl d t
  else if off = 0x208 then writeDinv d t
  else if off = 0x300 then
    let t1 := plainTile off d t
    if bit d 3 then (t1.updReg 0x318 (fun v => clrBit v 31)).updReg 0x414 (fun v => clrBit v 31) else t1
  else if off = 0x314 then
    (if t.units.any usesStaging && wouldChange (t.reg off) d (maskOf 31 31 ||| maskOf 21 16) then rejectTile off t else plainTile off d t)
  else if off = 0x40C then writeSheets d t
  else if off = 0x500 then writeTfCtrl d t
  else if off = 0x514 then
    let t1 := plainTile off d t
    if bit d 15 then clearLog 0x514 0x580 8 16 t1 else t1
  else plainTile off d t

/-! ### The atomic port (R537, R538) -/

/-- Head letter of a tile's atomic: its port's fields. -/
def atomicLetter (s : State) (t n : Nat) : Letter :=
  let x := getTile s t
  let c := x.reg 0x600
  let seg := fld (x.reg 0x60C) 31 20
  let off := fld (x.reg 0x60C) 15 0 * 2 ^ 32 + (x.reg 0x608).toNat
  let w (lo hi : Nat) : Nat := (x.reg lo).toNat + (x.reg hi).toNat * 2 ^ 32
  { ports := 0, hops := 0, hop := 0, dest := BitVec.ofNat 14 (fld c 27 14), src := ownId s, tenant := BitVec.ofNat 10 n, op := 5,
    xtag := 0, addr := addrField (BitVec.ofNat 12 seg) off,
    args := BitVec.ofNat 192 (fld c 30 29 + (fld c 13 10 + fld c 9 6 * 16) * 2 ^ 8 + w 0x610 0x614 * 2 ^ 64 + w 0x618 0x61C * 2 ^ 128),
    keytag := 0, vc := 0, cls := 0, stamp := 0, atSclk := 0, reservedBad := false, body := [] }

/-- A local target: the descriptor must be an HBM segment with R and W rights that holds the word (R537). -/
def localAtomicOk (d : Desc) (l : Letter) : Bool :=
  grants d && d.space == 1 && d.r && d.w && decide (letterOff l + 7 ≤ d.limit.toNat)

/-- GO sends the atomic, or completes it at once. -/
def startAtomic (t : Nat) (s : State) : State :=
  let c := (getTile s t).reg 0x600
  match (getTile s t).owner with
  | none => failAtomic t 6 s
  | some (n, _) =>
    let l := atomicLetter s t n
    if bit c 28 then
      match sendRequest (some t) false (fld c 27 14) n (.atomic t) 0 1 (fun h => { h with
          op := 5, addr := l.addr, args := l.args, keytag := keyTag s n }) s with
      | (s1, none) => s1
      | (s1, some st) => failAtomic t st s1
    else
      let d := tenDesc s n (letterSeg l)
      if localAtomicOk d l then serve 129 0 (some t) l d (fun k _ => .atomic k) s else failAtomic t 6 s

/-- TA_CMD: DEVICE must be 0 for a local target; GO starts an atomic (R537, R538). -/
def writeTaCmd (t : Nat) (d : BitVec 32) (s : State) : State :=
  let x := getTile s t
  let old := x.reg 0x600
  if bit old 31 && wouldChange old d (maskOf 30 6) then setTile s t (rejectTile 0x600 x)
  else
    let badDev := !bit d 28 && fld d 27 14 != 0
    let d1 := if badDev then setFld d 27 14 (if bit old 28 then 0 else fld old 27 14) else d
    let x1 := plainTile 0x600 d1 x
    let s1 := setTile s t (if badDev then rejectTile 0x600 x1 else x1)
    if bit d 31 && !bit old 31 then startAtomic t s1 else s1

/-- A write in the block of logical tile t. -/
def tileWrite (t off : Nat) (d : BitVec 32) (s : State) : State :=
  let x := getTile s t
  if off = 0x600 then writeTaCmd t d s
  else if (off = 0x608 ∨ off = 0x60C ∨ off = 0x618 ∨ off = 0x61C) && bit (x.reg 0x600) 31 &&
      wouldChange (x.reg off) d (specBits (tileSpec true off)) then
    setTile s t (rejectTile off x)
  else setTile s t (writeTileReg off d x)

/-! ### HBM controllers -/

def plainHc (k off : Nat) (d : BitVec 32) (s : State) : State :=
  let r := regWrite (hcSpec (hcUnits s) off) (hcReg s k off) d
  let s1 := setHc k off r.1 s
  if r.2 then updHc k 0x004 (fun v => setBit v 7) s1 else s1

/-- HC_REPAIR (R351, R354). -/
def writeUnitRepair (k : Nat) (d : BitVec 32) (s : State) : State :=
  let old := hcReg s k 0x010
  if bit old 31 && wouldChange old d (maskOf 30 5) then updHc k 0x004 (fun v => setBit v 7) s
  else
    let d1 := if hcUnits s ≤ fld d 24 5 then setFld (setFld d 30 25 (fld old 30 25)) 24 5 (fld old 24 5) else d
    let s0 := if hcUnits s ≤ fld d 24 5 then updHc k 0x004 (fun v => setBit v 7) s else s
    let s1 := plainHc k 0x010 d1 s0
    if bit d 31 && !bit old 31 then
      if spareUnits s1 (64 * k + fld (hcReg s1 k 0x010) 30 25) = 0 then endRepair k 2 s1
      else updHc k 0x004 (fun v => setBit v 0) s1
    else s1

def hcWrite (k off : Nat) (d : BitVec 32) (s : State) : State :=
  if (hcSpec (hcUnits s) off).isEmpty then s
  else if off = 0x004 then
    let s1 := plainHc k off d s
    if bit d 4 then updHc k 0x020 (fun v => clrBit v 31) s1 else s1
  else if off = 0x010 then writeUnitRepair k d s
  else if off = 0x01C then
    let s1 := plainHc k off d s
    if bit d 15 then updHc k 0x01C (fun v => setFld v 5 0 0) (forN 64 (fun e s => updHc k (0x400 + 16 * e) (fun v => clrBit v 31) s) s1)
    else s1
  else plainHc k off d s

/-! ### Fabric -/

def portWrite (p x : Nat) (d : BitVec 32) (s : State) : State :=
  let q := getPort s p
  let old := portRead q x
  let sp := fpSpec x
  if sp.isEmpty then s
  else
    let r := regWrite sp old d
    let s1 := updPort s p (fun q =>
      if x = 0x00 then { q with status := r.1 }
      else if x = 0x04 then q
      else if x = 0x08 then { q with ctrl := r.1 }
      else if x = 0x0C then { q with retry := r.1 }
      else { q with fec := r.1 })
    let s2 := if r.2 then updPort s1 p (fun q => { q with status := setBit q.status 6 }) else s1
    if x = 0x08 then applyPortCtrl p s2 else s2

def fxWrite (off : Nat) (d : BitVec 32) (s : State) : State :=
  let sp := fxSpec off
  let old := fxReg s off
  if sp.isEmpty then s
  else if off = 0x0C && bit old 31 && wouldChange old d (maskOf 13 0) then updFx 0x04 (fun v => setBit v 5) s
  else
    let r := regWrite sp old d
    let s1 := setFx off r.1 s
    let s2 := if r.2 then updFx 0x04 (fun v => setBit v 5) s1 else s1
    if off = 0x0C && bit r.1 31 then sendWakeLetter (fld r.1 13 0) (setFx 0x0C (clrBit r.1 31) s2) else s2

def fabricWrite (off : Nat) (d : BitVec 32) (s : State) : State :=
  if off < 0x800 then portWrite (off / 64) (off % 64) d s else fxWrite (off - 0x800) d s

/-! ### Chutes (R553 to R558, R581) -/

def chReject (s : State) : State := { s with chStatus := setBit s.chStatus 0 }

/-- The consumer kinds and indices that an owner may set (R555). -/
def kindOk (okind : Nat) (kind idx : Nat) : Bool :=
  match kind with
  | 0 => idx == 0
  | 2 => okind == 0 && idx == 0
  | 3 => (okind == 1 && decide (idx < 2048)) || (okind == 2 && decide (idx < 16))
  | 4 => okind == 2 && decide (idx < 2)
  | 5 => okind != 2 && idx == 0
  | _ => false

/-- CH_CFG. A chute that is no longer masked delivers to its vector at once. A MASK that is set comes into force later, when `masksInForce`
says so, and until then a presentation stands and may be granted (R574). -/
def writeChCfg (c : Nat) (d : BitVec 32) (s : State) : State :=
  let x := getChute s c
  let ok := fld x.owner 31 30
  let sp := chCfgSpec c (ok == 1)
  if valBad sp d || (decide (192 ≤ c) && !kindOk ok (fld d 23 21) (fld d 20 10)) then chReject s
  else
    let r := regWrite sp x.cfg d
    let v := if ok = 0 then setBit r.1 30 else r.1
    let opens := bit v 31 && (!bit x.cfg 31 || x.masking)
    let s1 := setChute s c { x with cfg := v, presented := if opens then x.presented else none, masking := opens }
    deliverVec c (if r.2 then chReject s1 else s1)

/-- CH_OWNER: the configuration returns to its reset value and PENDING clears; a tenant named must be enabled (R558). -/
def setOwner (c : Nat) (v : BitVec 32) (s : State) : State :=
  setChute s c { Chute.reset c with
    owner := v, cfg := if fld v 31 30 = 0 then setBit (chuteCfgReset c) 30 else chuteCfgReset c }

def writeChOwner (c : Nat) (d : BitVec 32) (s : State) : State :=
  let reserved := (d &&& maskOf 29 10) != 0
  if c < 192 then (if reserved then chReject s else s)
  else
    let k := fld d 31 30
    let bad := k == 3 || (k != 2 && fld d 9 0 != 0) || (k == 2 && (getTen s (fld d 9 0)).st == .disabled)
    if bad then chReject s
    else
      let s1 := setOwner c (d &&& (maskOf 31 30 ||| maskOf 9 0)) s
      if reserved then chReject s1 else s1

/-- CH_STATE: PENDING clears and a presentation is withdrawn, and SIGNAL raises one event of a chute above 191; both together leave it set (R553). -/
def writeChState (c : Nat) (mayClear : Bool) (d : BitVec 32) (s : State) : State :=
  let s1 := if bit d 0 && mayClear then updChute s c (fun x => { x with pending := false, presented := none }) else s
  let s2 := if bit d 1 && decide (192 ≤ c) then chuteEvent c s1 else s1
  if (d &&& ~~~ maskOf 1 0) != 0 then chReject s2 else s2

def chWrite (mayClear : Bool) (off : Nat) (d : BitVec 32) (s : State) : State :=
  if off < 0x1000 then
    let c := off / 16
    if off % 16 = 0 then writeChCfg c d s
    else if off % 16 = 4 then writeChOwner c d s
    else if off % 16 = 8 then writeChState c mayClear d s
    else s
  else if off = 0x1000 then
    let s1 := { s with chStatus := s.chStatus &&& ~~~ (d &&& maskOf 0 0) }
    if (d &&& ~~~ maskOf 0 0) != 0 then chReject s1 else s1
  else s

/-! ### Interrupt controllers (R563, R568, R581). A write to LENGTH restarts the count; a change shows 2 SCLK after its last sample. -/

def setIc (b : Bool) (v : BitVec 32) (s : State) : State := if b then { s with ic1 := v } else { s with ic0 := v }
def icReject (b : Bool) (s : State) : State := setIc b (setBit (icCtrl s b) 0) s

/-- Deliver every pending chute that feeds a vector, in order of number. -/
def deliverAll (s : State) : State := forN 256 deliverVec s

def icWrite (b : Bool) (off : Nat) (d : BitVec 32) (s : State) : State :=
  if off = 0 then
    let r := regWrite icCtrlSpec (icCtrl s b) d
    let s1 := setIc b (if r.2 then setBit r.1 0 else r.1) s
    if b then s1 else deliverAll s1
  else if b && decide (0x10 ≤ off ∧ off < 0x28) then
    if valBad icFilterSpec d then icReject b s
    else
      let i := (off - 0x10) / 4
      let s1 := setFilter i { getFilter s i with length := BitVec.ofNat 8 (fld d 7 0), since := s.sclk + 2 } s
      if (d &&& ~~~ maskOf 8 0) != 0 then icReject b s1 else s1
  else s

/-! ### Mailbags (R461 to R469) -/

def bagFlag (f : Fn) (m b : Nat) (s : State) : State := updBag s f m (fun x => { x with status := setBit x.status b })

def bagTenantResetting (s : State) (f : Fn) : Bool :=
  match f with | .vf n => (getTen s n).st == .resetting | .pf => false

/-- A letterbox rejection writes a receipt when the tray has room (R462, R464). -/
def letterboxReceipt (f : Fn) (m status slots : Nat) (s : State) : State :=
  if trayRoom (getBag s f m) then
    writeReceipt f m (frankKey s f) none (receiptW0 status 0 0) (receiptW1 0 (BitVec.ofNat 32 slots)) s
  else bagFlag f m 2 s

/-- MB_LETTERBOX (R461): the first row that applies. -/
def writeLetterbox (f : Fn) (m : Nat) (d : BitVec 32) (s : State) : State :=
  let b := getBag s f m
  let n := fld d 6 0
  if !bagEnabled b || bagTenantResetting s f || (f != .pf && m == 63) || s.sys.fenced || !s.sys.ready then bagFlag f m 1 s
  else if (d &&& maskOf 31 7) != 0 || n == 0 || decide (64 < n) then bagFlag f m 0 s
  else if ringSize b < n then letterboxReceipt f m 0x0101 n s
  else if ringSize b - ringHeld b < n then letterboxReceipt f m 0x0102 n s
  else noteWake 3 (updBag s f m (fun b => { b with tail := (b.tail + n) % 131072, posted := b.posted ++ [n] }))

/-- Fields of MB_CFG. -/
def mbCfgSpec : RegSpec := [fRW 31 31, fRW 30 30, fRW 19 16, fRW 12 8 4 badLog2, fRW 4 0 4 badLog2]

/-- A ring of n bytes at a base lies in an HBM segment of the tenant with rights (R465). -/
def ringInSegment (s : State) (n : Nat) (base : Word) (size : Nat) (rd : Bool) : Bool :=
  let d := tenDesc s n (wfld base 63 52)
  d.valid && d.space == 1 && d.w && (!rd || d.r) && wfld base 51 48 == 0 && decide (wfld base 47 0 + size ≤ d.limit.toNat + 1)

/-- The conditions for enabling a mailbag (R465). -/
def ringsOk (s : State) (f : Fn) (b : Mailbag) : Bool :=
  if bagSpace b then
    match f with
    | .vf n => ringInSegment s n b.ring (64 * ringSize b) true && ringInSegment s n b.tray (32 * traySize b) false
    | .pf => false
  else b.ring.toNat % 64 == 0 && b.tray.toNat % 32 == 0

/-- MB_CFG (R465 to R468). -/
def writeMbCfg (f : Fn) (m : Nat) (d : BitVec 32) (s : State) : State :=
  let b := getBag s f m
  if bagEnabled b then
    if d = clrBit b.cfg 31 then
      { setBag s f m { b with cfg := d } with
        envs := s.envs.filter (fun e => !(placeBag e.place == some (f, m) && e.st == .fetching)) }
    else bagFlag f m 0 s
  else if bit d 31 && bit b.status 3 then bagFlag f m 0 s
  else
    let r := regWrite mbCfgSpec b.cfg d
    let s0 := if r.2 then bagFlag f m 0 s else s
    let b1 := { getBag s0 f m with cfg := r.1 }
    if !bit r.1 31 then setBag s0 f m b1
    else if ringsOk s f b1 then setBag s0 f m { b1 with head := 0, tail := 0, trayHead := 0, trayTail := 0, posted := [] }
    else bagFlag f m 0 (setBag s0 f m { b1 with cfg := clrBit r.1 31 })

/-- What follows receipts consumed from a tray: receipts that waited are written. -/
def afterRoom (f : Fn) (m : Nat) (s : State) : State :=
  let s1 := flushAnswered f m s
  if m = 0 then flushUnsol f 17 s1 else s1

/-- MB_TRAY_HEAD (R469). -/
def writeTrayHead (f : Fn) (m : Nat) (d : BitVec 32) (s : State) : State :=
  let b := getBag s f m
  let v := fld d 16 0
  if (v + 131072 - b.trayHead) % 131072 ≤ trayHeld b then
    let s1 := setBag s f m { b with trayHead := v }
    afterRoom f m (if (d &&& maskOf 31 17) != 0 then bagFlag f m 0 s1 else s1)
  else bagFlag f m 0 s

/-- One half of a base address. -/
def setHalf (w : Word) (hi : Bool) (d : BitVec 32) : Word :=
  if hi then BitVec.ofNat 64 (w.toNat % 2 ^ 32 + d.toNat * 2 ^ 32) else BitVec.ofNat 64 (w.toNat / 2 ^ 32 * 2 ^ 32 + d.toNat)

/-- MB_RING and MB_TRAY (R466). -/
def writeBase (f : Fn) (m x : Nat) (d : BitVec 32) (s : State) : State :=
  let b := getBag s f m
  if bagEnabled b then bagFlag f m 0 s
  else if x = 0x20 then setBag s f m { b with ring := setHalf b.ring false d }
  else if x = 0x24 then setBag s f m { b with ring := setHalf b.ring true d }
  else if x = 0x28 then setBag s f m { b with tray := setHalf b.tray false d }
  else setBag s f m { b with tray := setHalf b.tray true d }

def bagWrite (f : Fn) (m x : Nat) (d : BitVec 32) (s : State) : State :=
  if x = 0x00 then writeLetterbox f m d s
  else if x = 0x04 then writeMbCfg f m d s
  else if x = 0x08 then
    let s1 := updBag s f m (fun b => { b with status := b.status &&& ~~~ (d &&& maskOf 2 0) })
    if (d &&& maskOf 31 4) != 0 then bagFlag f m 0 s1 else s1
  else if x = 0x14 then writeTrayHead f m d s
  else if 0x20 ≤ x ∧ x ≤ 0x2C then writeBase f m x d s
  else s

/-- VC_COAL: a reserved value sets CFG_REJECT of mailbag 0 and leaves the register (R581, R582). -/
def writeCoal (f : Fn) (v : Nat) (d : BitVec 32) (s : State) : State :=
  if valBad vcCoalSpec d then bagFlag f 0 0 s
  else
    let r := regWrite vcCoalSpec (getVec s f v).coal d
    let s1 := updVec s f v (fun x => { x with coal := r.1, reached := if x.events < (vecTerms s f x).1 then s.sclk else x.reached })
    if r.2 then bagFlag f 0 0 s1 else s1

/-- An MSI-X table entry; clearing Mask sends a pending message as soon as the spacing allows (R572); a Mask that is set comes into force
later (R575). -/
def writeMsix (f : Fn) (v x : Nat) (d : BitVec 32) (s : State) : State :=
  let y := getVec s f v
  if x = 0 then setVec s f v { y with addr := setHalf y.addr false d }
  else if x = 4 then setVec s f v { y with addr := setHalf y.addr true d }
  else if x = 8 then setVec s f v { y with data := d }
  else
    unmasked f v (setVec s f v { y with mask := bit d 0, masking := bit d 0 && (!y.mask || y.masking) })

def bar0Write (f : Fn) (off : Nat) (d : BitVec 32) (s : State) : State :=
  if off < 64 * bagsOf f then bagWrite f (off / 64) (off % 64) d s
  else if 0x1000 ≤ off ∧ off < 0x1000 + 16 * vecsOf f then
    (if off % 16 = 0 then writeCoal f ((off - 0x1000) / 16) d s else s)
  else if msixBase f ≤ off ∧ off < msixBase f + 16 * vecsOf f then
    writeMsix f ((off - msixBase f) / 16) (off % 16) d s
  else s

/-! ### Control matrix block -/

def cmWrite (off : Nat) (d : BitVec 32) (s : State) : State :=
  let sp := cmSpec off
  if sp.isEmpty then s
  else if 0x100 ≤ off ∧ off < 0x500 then
    let x := (off - 0x100) / 4
    if targetExists s x then
      let s1 := if bit d 30 then setLock x { getLock s x with broken := false } s else s
      if (d &&& ~~~ specBits sp) != 0 then updCm 0x000 (fun v => setBit v 0) s1 else s1
    else s
  else
    let r := regWrite sp (cmReg s off) d
    let s1 := setCm off r.1 s
    let s2 := if r.2 then updCm 0x000 (fun v => setBit v 0) s1 else s1
    if off = 0x000 && bit d 2 then updCm 0x028 (fun v => clrBit v 31) s2 else s2

/-! ### Fuse controller block: fuses, system registers, pair register -/

/-- SY_RESET_REQ with GO, as its fields stand (R628). The reset begins, so GO clears. -/
def actReset (v : BitVec 32) (s : State) : State :=
  match fld v 30 28 with
  | 1 => if fld v 6 0 < nTiles s then resetLogical (fld v 6 0) s else s
  | 2 => resetPm (bit v 8) s
  | 3 => requestWarm 7 s
  | 4 => requestCold 5 s
  | _ => s

def selfNo : Master → Option Nat
  | .pmA => some 0
  | .pmB => some 1
  | _ => none

/-- Where a fuse-controller offset keeps its CFG_REJECT. -/
def fuseReject (off : Nat) (s : State) : State :=
  if off < 0x800 then updFc 0x000 (fun v => setBit v 3) s
  else if off < 0xA00 then updFc 0x800 (fun v => setBit v 8) s
  else updFc 0xA00 (fun v => setBit v 0) s

/-- The plain write of a fuse-controller register. -/
def plainFc (m : Master) (off : Nat) (d : BitVec 32) (s : State) : State :=
  let r := regWrite (fcSpec (nTiles s) s.fuses.svn.toNat (selfNo m) off) (fcReg s off) d
  let s1 := setFc off r.1 s
  if r.2 then fuseReject off s1 else s1

def fuseWrite (m : Master) (off : Nat) (d : BitVec 32) (s : State) : State :=
  if (fcSpec 0 0 none off).isEmpty then s
  else if s.sys.doze != .run && (off == 0x804 || off == 0x80C || off == 0x810) && wouldChange (fcReg s off) d (maskOf 31 0) then
    fuseReject off s
  else if off = 0x008 then
    let s1 := plainFc m off d s
    if bit d 31 then updFc 0x000 (fun v => setBit v 0) s1 else s1
  else if off = 0x810 then
    let s1 := plainFc m off d s
    let v := fcReg s1 off
    if bit v 31 then actReset v (setFc off (clrBit v 31) s1) else s1
  else if off = 0xA00 then
    let s1 := plainFc m off d s
    if bit d 1 then engageFence s1 else s1
  else plainFc m off d s

/-! ### Flash controller (R642) -/

/-- The operation is refused with ERROR: it passes the end of the device, its address is not aligned, or it would change the image
marked active. -/
def flashRefused (s : State) (v : BitVec 32) : Bool :=
  let a := (flReg s 0x008).toNat
  decide (flashBytes (bit v 28) < a + flashSpan v) || a % (if fld v 30 29 = 2 then 65536 else 256) != 0 ||
    (fld v 30 29 != 0 && bit v 28 == s.sys.active && s.sys.handover.isNone)

def flashWrite (m : Master) (off : Nat) (d : BitVec 32) (s : State) : State :=
  let sp := flSpec off
  let old := flReg s off
  if sp.isEmpty then s
  else if bit (flReg s 4) 31 && (off == 4 || off == 8 || off == 12) && wouldChange old d (clrBit (specBits sp) 31 ||| (if off = 4 then 0 else maskOf 31 31)) then
    updFl 0 (fun v => setBit v 4) s
  else
    let r := regWrite sp old d
    let s1 := setFl off r.1 s
    let s2 := if r.2 then updFl 0 (fun v => setBit v 4) s1 else s1
    if off = 4 && bit d 31 && !bit old 31 then
      if flashRefused s2 r.1 then updFl 0 (fun v => setBit v 3) (setFl 4 (clrBit r.1 31) s2)
      else updFl 0 (fun v => setBit v 0) { s2 with sys := { s2.sys with flBy := m == .pmB } }
    else s2

/-! ### Key store control, stewards -/

def ksWrite (off : Nat) (d : BitVec 32) (s : State) : State :=
  let sp := ksSpec off
  if sp.isEmpty then s
  else
    let r := regWrite sp (ksReg s off) d
    setKs off (if r.2 then setBit r.1 4 else r.1) s

def stWrite (n off : Nat) (d : BitVec 32) (s : State) : State :=
  let sp := stSpec off
  if sp.isEmpty then s
  else
    let r := regWrite sp (stReg s n off) d
    let s1 := setSt n off r.1 s
    if r.2 then updSt n 0 (fun v => setBit v 3) s1 else s1

/-- A write that its target performs. `mayClear` tells whether the writer may clear PENDING of a chute (R556). -/
def writeReg (m : Master) (mayClear : Bool) (b : Block) (off : Nat) (d : BitVec 32) (s : State) : State :=
  match b with
  | .ident => s
  | .cm => cmWrite off d s
  | .fuse => fuseWrite m off d s
  | .flash => flashWrite m off d s
  | .ks => ksWrite off d s
  | .ch => chWrite mayClear off d s
  | .ic b => icWrite b off d s
  | .fabric => fabricWrite off d s
  | .hc k => hcWrite k off d s
  | .st n => stWrite n off d s
  | .tile t => tileWrite t off d s
  | .inbox => s
  | .bar0 f => bar0Write f off d s

end Sys2Proof.Machine
end

