-- ==== Sys2Proof/Machine/Matrix.lean ====
section
/-! DEFINITION. How an access reaches a register: rights, hold-back, locks, hang timers, and the register commands (spec 13). -/
namespace Sys2Proof.Machine

open Sys2Proof

/-! ### Rights (address map, R84, R556, R588) -/

/-- R556: who may reach a CH register. -/
def chRight (s : State) (m : Master) (off : Nat) (wr : Bool) : Bool :=
  let x := getChute s (off / 16)
  let part := off % 16
  let okind := fld x.owner 31 30
  match m with
  | .pmA => true
  | .pmB => true
  | .pcie .pf =>
    decide (off < 0x1000) && ((part == 4 && decide (192 ≤ off / 16)) ||
      ((part == 0 || part == 8) && okind == 1) || (part == 8 && okind == 2 && !bit x.cfg 30))
  | .tilePort t =>
    decide (off < 0x1000) && (part == 0 || part == 8) && okind == 2 &&
      ((getTile s t).owner.map (·.1)) == some (fld x.owner 9 0)
  | _ => wr && false

def isPm : Master → Bool
  | .pmA => true
  | .pmB => true
  | _ => false

/-- The address map's "reached by", for reads and writes. -/
def mayReach (s : State) (m : Master) (b : Block) (off : Nat) (wr : Bool) : Bool :=
  match b with
  | .ident => !wr
  | .cm => isPm m || m == .debug
  | .fuse => isPm m || (decide (off < 0x800) && (m == .loader || m == .debug))
  | .flash => isPm m
  | .ks => isPm m
  | .ch => chRight s m off wr
  | .ic _ => isPm m
  | .fabric => isPm m
  | .hc _ => isPm m
  | .st _ => isPm m || m == .loader || (!wr && m == .pcie .pf)
  | .tile t => isPm m || (m == .tilePort t && (if wr then (tenantAccess off).2 else (tenantAccess off).1))
  | .inbox => isPm m
  | .bar0 f => isPm m || m == .pcie f

/-- What a tile's control port passes: its own block, and the CH block, which checks for itself (R588). -/
def portPasses (m : Master) (b : Option (Block × Nat)) (wr : Bool) : Bool :=
  match m with
  | .tilePort t =>
    (match b with
     | some (.ch, _) => true
     | some (.tile u, off) => u == t && (if wr then (tenantAccess off).2 else (tenantAccess off).1)
     | _ => false)
  | _ => true

/-- A PCIe master names only addresses that its BARs carry: its own BAR 0 range, and for the PF the space below 16 MiB (R608). -/
def barCarries (m : Master) (a : Nat) (b : Option (Block × Nat)) : Bool :=
  match m with
  | .pcie f => (match b with
      | some (.bar0 g, _) => f == g
      | _ => f == .pf && decide (a < 0x1000000))
  | _ => true

/-! ### Outcomes -/

/-- How a request ends at its issue: performed with data, an error completion with its cause, held, or never answered. -/
inductive MxRes where
  | done (data : BitVec 32)
  | err (cause : Nat)
  | held
  | lost
  deriving DecidableEq, Repr

/-- The target's power domain is gated: a tile in DOZE, or one powered down (R592). -/
def gatedOff (s : State) (b : Block) : Bool :=
  match b with
  | .tile t => inDoze s || (getTile s t).poweredDown
  | _ => false

/-- A master holds some lock. -/
def holdsLock (s : State) (m : Master) : Bool := s.cm.locks.any (fun kv => kv.2.owner == some m)

def targetAt (s : State) (a : BitVec 32) : Option Nat := (decodeAddr s a.toNat).map (fun p => targetOf p.1)

/-- Hold-back rules 1 to 3 against the earlier requests that wait: one of the same master to the same target, and for PCIe an earlier write
to any target; a PCIe write never waits behind a read (R591). -/
def heldBack (before : List HeldReq) (s : State) (m : Master) (x : Nat) (wr : Bool) : Bool :=
  before.any (fun h =>
    masterId h.m == masterId m &&
    (if masterId m = 2 then h.data.isSome || (!wr && targetAt s h.addr == some x) else targetAt s h.addr == some x))

/-- The CM, IC and fuse controller blocks (R673). -/
def systemTarget (x : Nat) : Bool := x == 1 || x == 2 || x == 6 || x == 7

/-- A postmaster's request to a target is answered: those abandoned at the CM, IC and fuse controller blocks are no longer in a row (R673). -/
def endAbandoned (x : Nat) (m : Master) (s : State) : State :=
  if masterId m ≤ 1 && systemTarget x then { s with sys := { s.sys with mxAbandoned := 0 } } else s

/-- The request of a master is performed at a target: the pointer moves to the ID after the master's (R590). -/
def movePtr (x : Nat) (m : Master) (s : State) : State :=
  endAbandoned x m { s with cm := { s.cm with ptr := tset (fun _ => 0) s.cm.ptr x ((masterId m + 1) % 0x90) } }
/-- How far the scan from a target's pointer has to go to a master. -/
def scanTo (s : State) (x : Nat) (m : Master) : Nat := (masterId m + 0x90 - tget (fun _ => 0) s.cm.ptr x) % 0x90

/-- The other half of a pair that hardware updates: HI address of MB_DONE_SEQ and TA_A (R587). -/
def hiOf (b : Block) (off : Nat) : Option Nat :=
  match b with
  | .tile _ => if off = 0x610 then some 0x614 else none
  | .bar0 f => if off < 64 * bagsOf f ∧ off % 64 = 0x30 then some (off + 4) else none
  | _ => none

/-- A read of CH_CFG, or of a vector's Vector Control, completes once a MASK written before is in force (R574, R575). -/
def readBack (b : Block) (off : Nat) (s : State) : State :=
  match b with
  | .ch => if off < 0x1000 ∧ off % 16 = 0 then chuteInForce (off / 16) s else s
  | .bar0 f =>
    if msixBase f ≤ off ∧ off < msixBase f + 16 * vecsOf f ∧ off % 16 = 12 then vecInForce f ((off - msixBase f) / 16) s else s
  | _ => s

/-- Perform a read: a LO half captures its HI half; a captured HI half is returned once (R587). -/
def performRead (m : Master) (a : BitVec 32) (b : Block) (off : Nat) (s : State) : BitVec 32 × State :=
  match s.cm.captured.find? (fun c => c.1 == m && c.2.1 == a) with
  | some c => (c.2.2, { s with cm := { s.cm with captured := s.cm.captured.erase c } })
  | none =>
    let s1 := match hiOf b off with
      | some h =>
        { s with cm := { s.cm with
          captured := (s.cm.captured.filter (fun c => !(c.1 == m && c.2.1 == a + 4))) ++ [(m, a + 4, readReg s b h)] } }
      | none => s
    (readReg s b off, readBack b off s1)

/-- One request, with the earlier ones that wait (R583, R588, R590 to R593, R597, R600): checks in the order port, address, power, lock,
broken sequence, hold-back, rights; then it is performed. -/
def accessAfter (before : List HeldReq) (m : Master) (a : BitVec 32) (data : Option (BitVec 32)) (s : State) : MxRes × State :=
  let wr := data.isSome
  let p := decodeAddr s a.toNat
  if !portPasses m p wr then (.err 1, s)
  else if a.toNat % 4 ≠ 0 then (.err 2, s)
  else match p with
    | none => (.lost, s)
    | some (b, off) =>
      let x := targetOf b
      let l := getLock s x
      if !barCarries m a.toNat p then (.err 1, s)
      else if gatedOff s b then (.err 5, s)
      else if l.owner.isSome && l.owner != some m then (if holdsLock s m then (.err 3, s) else (.held, s))
      else if l.former = some m then (.err 4, s)
      else if heldBack before s m x wr then (.held, s)
      else if !mayReach s m b off wr then (.err 1, s)
      else match data with
        | some d => (.done 0, writeReg m (m != .pcie .pf || fld (getChute s (off / 16)).owner 31 30 == 1) b off d (movePtr x m s))
        | none =>
          let r := performRead m a b off (movePtr x m s)
          (.done r.1, r.2)

/-- A new request: every one that waits is earlier. -/
def matrixAccess (m : Master) (a : BitVec 32) (data : Option (BitVec 32)) (s : State) : MxRes × State := accessAfter s.cm.hung m a data s

/-- CM_HANG_k.LIMIT of a master's class (R601). -/
def hangLimit (s : State) (m : Master) : Nat :=
  let k := match m with
    | .pmA => 0
    | .pmB => 0
    | .pcie _ => 1
    | .tilePort _ => 2
    | _ => 3
  fld (cmReg s (0x004 + 4 * k)) 15 0

/-- A hang timer has reached its limit: 10 MCLK to the SCLK (R601). -/
def timedOut (s : State) (since limit : Nat) : Bool := decide (limit ≤ 10 * (s.sclk - since))

/-- An error completion of a postmaster is recorded (R586). The target of an address that decodes to none is not stated. -/
def recordErr (b : Bool) (a : BitVec 32) (cause : Nat) (s : State) : State :=
  let o := if b then 8 else 0
  let x := (targetAt s a).getD ((Config.freeValue s.free).toNat % 256)
  updCm (0x044 + o) (fun v => setBit (setFld (setFld (setFld v 23 16 ((fld v 23 16 + 1) % 256)) 10 8 cause) 7 0 x) 31)
    (setCm (0x040 + o) a (endAbandoned ((targetAt s a).getD 255) (if b then .pmB else .pmA) (tick s)))

/-- A request joins those that wait. -/
def holdReq (m : Master) (a : BitVec 32) (data : Option (BitVec 32)) (op : MxOp) (e : Option EngineId) (s : State) : State :=
  { s with cm := { s.cm with hung := s.cm.hung ++ [⟨m, a, data, s.sclk, hangLimit s m, op, e⟩] } }

/-- A request that an engine's word waited for is answered. -/
def answerEngine (e : EngineId) (r : MxRes) (s : State) : State :=
  let a : Nat × BitVec 32 := match r with
    | .done v => (0, v)
    | .err c => (c, 0)
    | _ => (0, 0)
  updEng s e (fun x => { x with mxWait := none, mxAnswer := some a })

/-- What a master other than an engine's own MX operation sees of an outcome. -/
def finishAccess (m : Master) (a : BitVec 32) (data : Option (BitVec 32)) (r : MxRes) (s : State) : State :=
  match r with
  | .done v => if data.isNone then emit (.completion m v) s else s
  | .err c =>
    (match m with
     | .pmA => recordErr false a c s
     | .pmB => recordErr true a c s
     | _ => emit (.errorCompletion m c) s)
  | .held => holdReq m a data .access none s
  | .lost => holdReq m a data .access none s

/-- Issue a request. -/
def submit (m : Master) (a : BitVec 32) (data : Option (BitVec 32)) (s : State) : State :=
  let r := matrixAccess m a data s
  finishAccess m a data r.1 r.2

/-- MXLOCK at a target: granted when it is not locked; a master that holds a lock already is locked out; otherwise it waits. It ends the
broken state of the former owner (R591 to R593, R597). -/
def lockAfter (before : List HeldReq) (m : Master) (a : BitVec 32) (s : State) : MxRes × State :=
  if a.toNat % 4 ≠ 0 then (.err 2, s)
  else match decodeAddr s a.toNat with
    | none => (.lost, s)
    | some (b, _) =>
      let x := targetOf b
      let l := getLock s x
      if gatedOff s b then (.err 5, s)
      else if holdsLock s m then (.err 3, s)
      else if l.owner.isSome || heldBack before s m x true then (.held, s)
      else (.done 0, movePtr x m (setLock x { l with
        owner := some m, since := s.sclk, former := if l.former = some m then none else l.former } s))

/-- MXUNLK at a target: the owner's ends the lock, a former owner's ends the broken state and fails, any other's fails (R591, R593, R597). -/
def unlockAfter (before : List HeldReq) (m : Master) (a : BitVec 32) (s : State) : MxRes × State :=
  if a.toNat % 4 ≠ 0 then (.err 2, s)
  else match decodeAddr s a.toNat with
    | none => (.lost, s)
    | some (b, _) =>
      let x := targetOf b
      let l := getLock s x
      if gatedOff s b then (.err 5, s)
      else if l.owner.isSome && l.owner != some m then (if holdsLock s m then (.err 3, s) else (.held, s))
      else if heldBack before s m x true then (.held, s)
      else if l.owner = some m then (.done 0, setLock x { l with owner := none } (movePtr x m s))
      else if l.former = some m then (.err 4, setLock x { l with former := none } s)
      else (.err 1, s)

/-- An ESEND transfer into its tile's inbox port, which another master may have locked (R589, R591). -/
def transferAfter (before : List HeldReq) (m : Master) (a : BitVec 32) (s : State) : MxRes × State :=
  let x := (targetAt s a).getD 0xC0
  let l := getLock s x
  if (l.owner.isSome && l.owner != some m) || heldBack before s m x true then (.held, s) else (.done 0, movePtr x m s)

/-- A request, with the earlier ones that wait. -/
def requestAfter (before : List HeldReq) (op : MxOp) (m : Master) (a : BitVec 32) (data : Option (BitVec 32)) (s : State) : MxRes × State :=
  match op with
  | .access => accessAfter before m a data s
  | .lock => lockAfter before m a s
  | .unlock => unlockAfter before m a s
  | .transfer => transferAfter before m a s

/-- What becomes of the waiting request at place i when it contends. -/
def contend (s : State) (i : Nat) : MxRes × State :=
  match s.cm.hung[i]? with
  | some h => requestAfter (s.cm.hung.take i) h.op h.m h.addr h.data { s with cm := { s.cm with hung := s.cm.hung.eraseIdx i } }
  | none => (.held, s)

/-- The place of a waiting request that is performed next: it is no longer held, and at its target the scan from the pointer meets its
master first (R590). -/
def nextHeld (s : State) : Option Nat :=
  let ready := (List.range s.cm.hung.length).filter (fun i => match (contend s i).1 with | .held => false | .lost => false | _ => true)
  let at_ (i : Nat) : Option Nat × Nat :=
    match s.cm.hung[i]? with
    | some h => let x := targetAt s h.addr; (x, scanTo s (x.getD 0) h.m)
    | none => (none, 0)
  ready.find? (fun i => ready.all (fun j => (at_ j).1 != (at_ i).1 || decide ((at_ i).2 ≤ (at_ j).2)))

/-- Requests that wait contend again: each target performs them in the order of its pointer's scan (R590, R596). -/
def retryUpTo : Nat → State → State
  | 0, s => s
  | n + 1, s =>
    match nextHeld s with
    | none => s
    | some i =>
      match s.cm.hung[i]? with
      | some h =>
        let r := contend s i
        retryUpTo n (match h.eng with
          | some e => answerEngine e r.1 r.2
          | none => finishAccess h.m h.addr h.data r.1 r.2)
      | none => s
def retryHeld (s : State) : State := retryUpTo s.cm.hung.length s

/-- PCIe requests while the device is not ready or is fenced: reads complete with Completer Abort, writes are dropped (R629, R660). -/
def pcieShut (s : State) (m : Master) (a : BitVec 32) : Bool :=
  match m with
  | .pcie _ => (!s.sys.ready && !s.sys.fenced) || (s.sys.fenced && decide (0x10000000 ≤ a.toNat))
  | _ => false

/-- Whether a PCIe function answers at all: a VF whose tenant is DISABLED does not exist (R402). -/
def masterExists (s : State) : Master → Bool
  | .pcie (.vf n) => decide (n < 1024) && (getTen s n).st != .disabled
  | .tilePort t => decide (t < nTiles s)
  | _ => true

/-- A register command: a write, or a read, of one address by a master. -/
def regCommand (m : Master) (a : BitVec 32) (data : Option (BitVec 32)) (s : State) : Host.Outcome State Fault Refusal :=
  onUnit (masterExists s m) s (fun s =>
    if s.sys.phase == .off || s.sys.phase == .held || s.sys.phase == .tripped then s
    else if pcieShut s m a then (if data.isNone then emit .completerAbort s else s)
    else submit m a data (retryHeld s))

/-! ### Commands on the tile block -/

/-- A register command on logical tile t. -/
def tileCommand (m : Master) (t off : Nat) (d : BitVec 32) (s : State) : Host.Outcome State Fault Refusal :=
  if t < nTiles s then regCommand m (tileAddr t off) (some d) s else .fault .noSuchUnit

/-- TS_FILL_GO (R54). -/
def execTsFillGo (m : Master) (t : Nat) (s : State) : Host.Outcome State Fault Refusal := tileCommand m t 0x0E4 0x80000000 s
/-- TS_REPAIR_GO (R69, R73). -/
def execTsRepairGo (m : Master) (t : Nat) (bank : BitVec 4) (row : BitVec 10) (s : State) : Host.Outcome State Fault Refusal :=
  tileCommand m t 0x0E0 (BitVec.ofNat 32 (2 ^ 31 + bank.toNat * 2 ^ 27 + row.toNat * 2 ^ 17)) s
/-- TS_CLOG_CLEAR (R58): WRAP_COUNT is written with its own value. -/
def execTsClogClear (m : Master) (t : Nat) (s : State) : Host.Outcome State Fault Refusal :=
  tileCommand m t 0x0F0 (setBit (((getTile s t).reg 0x0F0) &&& maskOf 31 16) 15) s
/-- TS_INJECT_ARM (R81). -/
def execTsInjectArm (m : Master) (t : Nat) (bank : BitVec 4) (row : BitVec 10) (word : BitVec 5) (s : State) :
    Host.Outcome State Fault Refusal :=
  tileCommand m t 0x0F8 (BitVec.ofNat 32 (2 ^ 31 + bank.toNat * 2 ^ 19 + row.toNat * 2 ^ 9 + word.toNat * 2 ^ 4)) s
/-- TS_UE_SEEN_CLEAR (R63). -/
def execTsUeSeenClear (m : Master) (t : Nat) (s : State) : Host.Outcome State Fault Refusal := tileCommand m t 0x004 0x20 s
/-- TX_START (R191). -/
def execTxStart (m : Master) (t : Nat) (haltReq : Bool) (s : State) : Host.Outcome State Fault Refusal :=
  tileCommand m t 0x200 (if haltReq then 3 else 1) s
/-- TX_HALT_REQ (R192). -/
def execTxHaltReq (m : Master) (t : Nat) (s : State) : Host.Outcome State Fault Refusal := tileCommand m t 0x200 2 s
/-- TX_DINV_GO (R162, R193). -/
def execTxDinvGo (m : Master) (t : Nat) (all : Bool) (seg : BitVec 12) (s : State) : Host.Outcome State Fault Refusal :=
  tileCommand m t 0x208 (BitVec.ofNat 32 (2 ^ 31 + b2n all * 2 ^ 30 + seg.toNat)) s
/-- TV_ABORTED_CLEAR (R267). -/
def execTvAbortedClear (m : Master) (t : Nat) (s : State) : Host.Outcome State Fault Refusal := tileCommand m t 0x300 8 s
/-- TR_SHEETS_FREE (R318). -/
def execTrSheetsFree (m : Master) (t : Nat) (free : BitVec 8) (s : State) : Host.Outcome State Fault Refusal :=
  tileCommand m t 0x40C (BitVec.ofNat 32 (free.toNat * 2 ^ 8)) s
/-- TF_CTRL_WRITE (R395, R396). -/
def execTfCtrlWrite (m : Master) (t : Nat) (data : BitVec 32) (s : State) : Host.Outcome State Fault Refusal :=
  tileCommand m t 0x500 data s
/-- TF_LOG_CLEAR (R400): WRAP_COUNT is written with its own value. -/
def execTfLogClear (m : Master) (t : Nat) (s : State) : Host.Outcome State Fault Refusal :=
  tileCommand m t 0x514 (setBit (((getTile s t).reg 0x514) &&& maskOf 31 16) 15) s

/-- TA_CMD with GO and a SUB (R537). -/
def atomicGo (m : Master) (t sub : Nat) (data : BitVec 32) (s : State) : Host.Outcome State Fault Refusal :=
  tileCommand m t 0x600 (setBit (setFld data 30 29 sub) 31) s
/-- ATOMIC_FETCH_ADD (R537, R358). -/
def execAtomicFetchAdd (m : Master) (t : Nat) (data : BitVec 32) (s : State) : Host.Outcome State Fault Refusal := atomicGo m t 0 data s
/-- ATOMIC_COMPARE_SWAP (R537, R358). -/
def execAtomicCompareSwap (m : Master) (t : Nat) (data : BitVec 32) (s : State) : Host.Outcome State Fault Refusal := atomicGo m t 1 data s
/-- ATOMIC_SWAP (R537, R358). -/
def execAtomicSwap (m : Master) (t : Nat) (data : BitVec 32) (s : State) : Host.Outcome State Fault Refusal := atomicGo m t 2 data s

/-! ### Commands on the HBM controllers and the fabric -/

def hcCommand (m : Master) (k off : Nat) (d : BitVec 32) (s : State) : Host.Outcome State Fault Refusal :=
  if k < 16 then regCommand m (hcAddr k off) (some d) s else .fault .noSuchUnit

/-- HC_REPAIR_GO (R351, R354). -/
def execHcRepairGo (m : Master) (stack : Nat) (pc : BitVec 6) (unit : BitVec 20) (s : State) : Host.Outcome State Fault Refusal :=
  hcCommand m stack 0x010 (BitVec.ofNat 32 (2 ^ 31 + pc.toNat * 2 ^ 25 + unit.toNat * 2 ^ 5)) s
/-- HC_CLOG_CLEAR (R341): WRAP_COUNT is written with its own value. -/
def execHcClogClear (m : Master) (stack : Nat) (s : State) : Host.Outcome State Fault Refusal :=
  hcCommand m stack 0x01C (setBit ((hcReg s stack 0x01C) &&& maskOf 31 16) 15) s
/-- HC_INJECT_ARM (R360). -/
def execHcInjectArm (m : Master) (stack : Nat) (pc : BitVec 6) (line : BitVec 24) (s : State) : Host.Outcome State Fault Refusal :=
  hcCommand m stack 0x028 (BitVec.ofNat 32 (2 ^ 31 + pc.toNat * 2 ^ 25 + line.toNat * 2)) s
/-- HC_UE_SEEN_CLEAR (R345). -/
def execHcUeSeenClear (m : Master) (stack : Nat) (s : State) : Host.Outcome State Fault Refusal := hcCommand m stack 0x004 0x10 s

/-- FP_RETRAIN (R510): RETRAIN is set with the port's other fields as they are. -/
def execFpRetrain (m : Master) (port : Nat) (s : State) : Host.Outcome State Fault Refusal :=
  if port < 32 then regCommand m (BitVec.ofNat 32 (0x20000 + 64 * port + 8)) (some (setBit (getPort s port).ctrl 31)) s
  else .fault .noSuchUnit
/-- FX_WAKE_GO (R542). -/
def execFxWakeGo (m : Master) (device : BitVec 14) (s : State) : Host.Outcome State Fault Refusal :=
  regCommand m 0x2080C (some (BitVec.ofNat 32 (2 ^ 31 + device.toNat))) s

/-! ### Commands on mailbags, vectors and chutes -/

def bagCommand (f : Fn) (bag x : Nat) (d : BitVec 32) (s : State) : Host.Outcome State Fault Refusal :=
  if bag < bagsOf f then regCommand (.pcie f) (barAddr f (64 * bag + x)) (some d) s else .fault .noSuchUnit

/-- MB_LETTERBOX (R461 to R464). -/
def execMbLetterbox (f : Fn) (bag : Nat) (data : BitVec 32) (s : State) : Host.Outcome State Fault Refusal := bagCommand f bag 0x00 data s
/-- MB_CFG_WRITE (R465 to R468). -/
def execMbCfgWrite (f : Fn) (bag : Nat) (data : BitVec 32) (s : State) : Host.Outcome State Fault Refusal := bagCommand f bag 0x04 data s
/-- MB_TRAY_HEAD_WRITE (R469). -/
def execMbTrayHeadWrite (f : Fn) (bag : Nat) (data : BitVec 32) (s : State) : Host.Outcome State Fault Refusal :=
  bagCommand f bag 0x14 data s

/-- PAIR_LO_READ: a read of a LO half captures the HI half (R587). -/
def execPairLoRead (m : Master) (addr : BitVec 32) (s : State) : Host.Outcome State Fault Refusal := regCommand m addr none s

def chCommand (m : Master) (c x : Nat) (d : BitVec 32) (s : State) : Host.Outcome State Fault Refusal :=
  if c < 256 then regCommand m (BitVec.ofNat 32 (0x10000 + 16 * c + x)) (some d) s else .fault .noSuchUnit

/-- CH_OWNER_WRITE (R558). -/
def execChOwnerWrite (m : Master) (c : Nat) (data : BitVec 32) (s : State) : Host.Outcome State Fault Refusal := chCommand m c 4 data s
/-- CH_SIGNAL (R553). -/
def execChSignal (m : Master) (c : Nat) (s : State) : Host.Outcome State Fault Refusal := chCommand m c 8 2 s
/-- CH_PENDING_CLEAR (R553). -/
def execChPendingClear (m : Master) (c : Nat) (s : State) : Host.Outcome State Fault Refusal := chCommand m c 8 1 s
/-- CH_CFG_WRITE (R574, R581). -/
def execChCfgWrite (m : Master) (c : Nat) (data : BitVec 32) (s : State) : Host.Outcome State Fault Refusal := chCommand m c 0 data s

/-- IC_FILTER_WRITE (R563). -/
def execIcFilterWrite (m : Master) (i : Nat) (data : BitVec 32) (s : State) : Host.Outcome State Fault Refusal :=
  if i < 6 then regCommand m (BitVec.ofNat 32 (0x15010 + 4 * i)) (some data) s else .fault .noSuchUnit
/-- VC_COAL_WRITE (R582). -/
def execVcCoalWrite (f : Fn) (v : Nat) (data : BitVec 32) (s : State) : Host.Outcome State Fault Refusal :=
  if v < vecsOf f then regCommand (.pcie f) (barAddr f (0x1000 + 16 * v)) (some data) s else .fault .noSuchUnit

/-! ### Commands on the system blocks -/

/-- FC_COMMIT_GO (R641). -/
def execFcCommitGo (m : Master) (target : BitVec 7) (s : State) : Host.Outcome State Fault Refusal :=
  regCommand m 0x2008 (some (BitVec.ofNat 32 (2 ^ 31 + target.toNat))) s

/-- FL_CMD with GO, an operation, a device and a count (R642). -/
def flashCommand (m : Master) (op : Nat) (dev : Bool) (count : BitVec 16) (s : State) : Host.Outcome State Fault Refusal :=
  regCommand m 0x3004 (some (BitVec.ofNat 32 (2 ^ 31 + op * 2 ^ 29 + b2n dev * 2 ^ 28 + count.toNat))) s
/-- FLASH_READ (R642). -/
def execFlashRead (m : Master) (dev : Bool) (count : BitVec 16) (s : State) : Host.Outcome State Fault Refusal := flashCommand m 0 dev count s
/-- FLASH_PROGRAM (R642). -/
def execFlashProgram (m : Master) (dev : Bool) (count : BitVec 16) (s : State) : Host.Outcome State Fault Refusal := flashCommand m 1 dev count s
/-- FLASH_ERASE (R642). -/
def execFlashErase (m : Master) (dev : Bool) (count : BitVec 16) (s : State) : Host.Outcome State Fault Refusal := flashCommand m 2 dev count s

/-- PM_FENCE_GO (R660): TAKEOVERS is written with its own value. -/
def execPmFenceGo (m : Master) (s : State) : Host.Outcome State Fault Refusal :=
  regCommand m 0x2A00 (some (setBit ((fcReg s 0xA00) &&& maskOf 23 16) 1)) s

/-- CM_TIMEOUT_CLEAR (R601). -/
def execCmTimeoutClear (m : Master) (s : State) : Host.Outcome State Fault Refusal := regCommand m 0x1000 (some 4) s

/-- A write of SY_RESET_REQ with GO (R628). -/
def resetCommand (m : Master) (v : Nat) (s : State) : Host.Outcome State Fault Refusal :=
  regCommand m 0x2810 (some (BitVec.ofNat 32 (2 ^ 31 + v))) s
/-- SY_RESET_REQ_TILE (R628, R631). -/
def execSyResetReqTile (m : Master) (t : BitVec 7) (s : State) : Host.Outcome State Fault Refusal := resetCommand m (2 ^ 28 + t.toNat) s
/-- SY_RESET_REQ_POSTMASTER (R628, R631). -/
def execSyResetReqPostmaster (m : Master) (pm : Bool) (s : State) : Host.Outcome State Fault Refusal :=
  resetCommand m (2 * 2 ^ 28 + b2n pm * 2 ^ 8) s
/-- SY_RESET_REQ_WARM (R628, R629). -/
def execSyResetReqWarm (m : Master) (s : State) : Host.Outcome State Fault Refusal := resetCommand m (3 * 2 ^ 28) s
/-- SY_RESET_REQ_COLD (R628). -/
def execSyResetReqCold (m : Master) (s : State) : Host.Outcome State Fault Refusal := resetCommand m (4 * 2 ^ 28) s

/-! ### Hang timers and lock age (R594, R601) -/

/-- The matrix records an abandoned request (R601). -/
def recordTimeout (m : Master) (a : BitVec 32) (wr : Bool) (s : State) : State :=
  let s1 := updCm 0x000 (fun v => setBit v 2) (updCm 0x020 (· + 1) s)
  if bit (cmReg s 0x028) 31 then s1
  else setCm 0x028 (BitVec.ofNat 32 (2 ^ 31 + b2n wr * 2 ^ 8 + masterId m)) (setCm 0x024 a s1)

/-- A postmaster request to the CM, IC or fuse controller blocks abandoned, counted in a row (R673). -/
def countAbandoned (a : BitVec 32) (s : State) : State :=
  if systemTarget ((targetAt s a).getD 255) then { s with sys := { s.sys with mxAbandoned := s.sys.mxAbandoned + 1 } } else s

/-- The request h of an engine is abandoned: F_MATRIX_TIMEOUT at the word that waits (R601, R175). -/
def abandonEngine (e : EngineId) (h : HeldReq) (s : State) : State :=
  let s0 := recordTimeout h.m h.addr (h.data.isSome || h.op != .access) { s with cm := { s.cm with hung := s.cm.hung.erase h } }
  let s1 := updEng s0 e (fun x => { x with mxWait := none, waiting := false, mid := false })
  let s2 := if privOf e then countAbandoned h.addr s1 else s1
  syncFault e ⟨0x0B, 0, BitVec.ofNat 64 (h.addr.toNat + b2n (h.op == .transfer) * 2 ^ 32)⟩ s2

/-- A waiting request of a master that is no engine's is abandoned. -/
def abandonRequest (h : HeldReq) (s : State) : State :=
  let s1 := recordTimeout h.m h.addr h.data.isSome { s with cm := { s.cm with hung := s.cm.hung.erase h } }
  match h.m, h.data with
  | .pcie _, none => emit .aerCompleterAbort (emit .completerAbort s1)
  | .pcie _, some _ => s1
  | .loader, _ => updFc 0x000 (fun v => setBit v 2) { s1 with sys := { s1.sys with ready := false } }
  | m, _ => emit (.abandoned m) (if masterId m ≤ 1 then countAbandoned h.addr s1 else s1)

/-- MATRIX_HANG_TIMEOUT: the hang timer of a master with a request waiting has reached the limit that stood at its issue (R601). -/
def execMatrixHangTimeout (m : Master) (s : State) : Host.Outcome State Fault Refusal :=
  onUnit (masterExists s m) s (fun s =>
    match s.cm.hung.find? (fun h => masterId h.m == masterId m && timedOut s h.since h.limit) with
    | some h => (match h.eng with
      | some e => retryHeld (abandonEngine e h s)
      | none => retryHeld (abandonRequest h s))
    | none => s)

/-- LOCK_AGE_LIMIT: a lock whose age reaches 256 MCLK is broken (R594, R596). -/
def execLockAgeLimit (target : BitVec 8) (s : State) : Host.Outcome State Fault Refusal :=
  .next (match (getLock s target.toNat).owner with
    | some m => if lockAge s (getLock s target.toNat) = 256 then retryHeld (breakLock m target.toNat s) else s
    | none => s)

end Sys2Proof.Machine
end

