-- ==== Sys2Proof/Machine/System.lean ====
section
/-! DEFINITION. The privileged operations of a postmaster (R137 to R139, R593 to R597) and ESEND (R135, R136, R480, R589). -/
namespace Sys2Proof.Machine

open Sys2Proof

/-- A privileged word of form Z or K. -/
def pspec (op fields cycles need pops pushes : Nat) : WordSpec := { wspec op fields cycles need pops pushes with priv := true }

/-! ### Control matrix operations -/

/-- The request waits at the matrix: the word stays at the pc, at no boundary, until it is answered or abandoned (R591, R601). -/
def mxHold (c : WCtx) (a : BitVec 32) (wr : Bool) : NM Flow := do
  nMod c (fun x => { x with mxWait := some (a, wr) })
  return .hold

/-- The answer that a word's waiting request has had, taken once. -/
def mxTake (c : WCtx) : NM (Option MxRes) := do
  let x ← nEng c
  nMod c (fun x => { x with mxAnswer := none })
  return x.mxAnswer.map (fun r => if r.1 = 0 then .done r.2 else .err r.1)

/-- The request of an engine's word: issued once, it waits with those of other masters, and the word goes on with its answer (R590, R591). -/
def mxAsk (c : WCtx) (op : MxOp) (a : BitVec 32) (data : Option (BitVec 32)) : NM MxRes := do
  match ← mxTake c with
  | some r => return r
  | none =>
    let s ← get
    if s.cm.hung.any (fun h => h.eng == some c.e) then
      modify retryHeld
      return (← mxTake c).getD .held
    let r ← modifyGet (requestAfter s.cm.hung op (masterOf c.e) a data)
    match r with
    | .held => modify (holdReq (masterOf c.e) a data op (some c.e))
    | .lost => modify (holdReq (masterOf c.e) a data op (some c.e))
    | _ => pure ()
    return r

/-- A request that has been performed or refused: the cycles of its completion (R140). -/
def mxDone (c : WCtx) (pops : Nat) : NM Unit := do
  nWait c
  popD c pops

/-- Whether the engine is postmaster B. -/
def isB : EngineId → Bool
  | .pmB => true
  | _ => false

/-- An error completion of an MX operation is recorded; the operation completes (R586). -/
def mxErr (c : WCtx) (a : BitVec 32) (cause : Nat) : NM Unit := modify (recordErr (isB c.e) a cause)

/-- MXRD: pushes the 32 bits read, zero-extended, as INT; 0 after an error completion (R138, R586). -/
def execMxrd (e : EngineId) (s : State) : Host.Outcome State Fault Refusal :=
  runLong e (pspec 0x78 0 4 1 1 1) (fun c => do
    let t ← needNum c 0
    let a : BitVec 32 := t.data.setWidth 32
    let push (v : BitVec 32) : NM Flow := do
      mxDone c 1
      pushD c ⟨v.setWidth 64, 1⟩
      return .seq
    match ← mxAsk c .access a none with
    | .done v => push v
    | .err k => do
      mxErr c a k
      push 0
    | .held => mxHold c a false
    | .lost => mxHold c a false) s

/-- MXWR: writes S1[31:0] at the address in T[31:0] (R138). -/
def execMxwr (e : EngineId) (s : State) : Host.Outcome State Fault Refusal :=
  runLong e (pspec 0x79 0 4 2 2 0) (fun c => do
    let t ← needNum c 0
    let v ← needNum c 1
    let a : BitVec 32 := t.data.setWidth 32
    match ← mxAsk c .access a (some (v.data.setWidth 32)) with
    | .done _ => do
      mxDone c 2
      return .seq
    | .err k => do
      mxErr c a k
      mxDone c 2
      return .seq
    | .held => mxHold c a true
    | .lost => mxHold c a true) s

/-- MXLOCK and MXUNLK: the address operand is popped once the operation has been performed or refused; requests that the end of a lock frees
are performed (R590, R596). -/
def lockWord (e : EngineId) (op : Nat) (k : MxOp) (s : State) : Host.Outcome State Fault Refusal :=
  runLong e (pspec op 0 4 1 1 0) (fun c => do
    let t ← needNum c 0
    let a : BitVec 32 := t.data.setWidth 32
    match ← mxAsk c k a none with
    | .done _ => do
      modify retryHeld
      mxDone c 1
      return .seq
    | .err k => do
      mxErr c a k
      mxDone c 1
      return .seq
    | .held => mxHold c a true
    | .lost => mxHold c a true) s

/-- MXLOCK: begins a locked sequence on the target of the address in T (R593). -/
def execMxlock (e : EngineId) (s : State) : Host.Outcome State Fault Refusal := lockWord e 0x7A .lock s
/-- MXUNLK: ends the locked sequence on that target (R593). -/
def execMxunlk (e : EngineId) (s : State) : Host.Outcome State Fault Refusal := lockWord e 0x7B .unlock s

/-! ### Keys (R139, R424, R427, R428) -/

/-- Slots of the key-store table; every other value is reserved (R424). -/
def slotKnown (k : Nat) : Bool :=
  decide (k ≤ 2) || (decide (0x10 ≤ k) && decide (k < 0x50)) || (decide (0x80 ≤ k) && decide (k < 0x80 + 54)) || k == 0x100 ||
  (decide (0x400 ≤ k) && decide (k < 0x800)) || (decide (0x800 ≤ k) && decide (k < 0xC00))

/-- The KEYREF of a slot, with its generation. -/
def keyref (s : State) (slot : Nat) : Word := BitVec.ofNat 64 ((getKey s slot).gen.toNat * 65536 + slot)

/-- KREF: pushes a KEYREF for key-store slot SLOT (R139, R424). -/
def execKref (e : EngineId) (slot : BitVec 16) (s : State) : Host.Outcome State Fault Refusal :=
  runLong e (pspec 0x7C slot.toNat 4 0 0 1) (fun c => do
    if !slotKnown slot.toNat then rangeFault c (slot.setWidth 64)
    modify (readKey slot.toNat)
    let w := keyref (← get) slot.toNat
    pushD c ⟨w, 7⟩
    return .seq) s

/-- The slot that a KEYREF names, when its generation is the slot's (R139), once the slot has been read (R643). -/
def keySlot (c : WCtx) (k : Word) : NM Nat := do
  let slot := wfld k 15 0
  modify (readKey slot)
  if (getKey (← get) slot).gen.toNat != wfld k 31 16 then rangeFault c k
  return slot

/-- KZERO: zeroises the key named by T and advances its slot's generation (R139). -/
def execKzero (e : EngineId) (s : State) : Host.Outcome State Fault Refusal :=
  runLong e (pspec 0x7D 0 8 1 1 0) (fun c => do
    let k ← needTag c 0 7 5
    let slot ← keySlot c k.data
    modify (fun s => zeroKey s slot)
    popD c 1
    return .seq) s

/-- What cipher context x holds once the key of a slot is bound to it: the XTS pair derived from a root key, otherwise the key
itself; a slot that holds no key leaves the context unbound (R427, R428). -/
def boundKey (s : State) (slot x : Nat) : Key :=
  match (getKey s slot).key with
  | some (.draw d) => if 0x800 ≤ slot then .hbm d (x % 4) (tget (fun _ => 0) (getTen s (slot - 0x800)).keyGens (x % 4)) else .draw d
  | some k => k
  | none => .unbound

/-- Write a cipher context in all 16 controllers (R427). -/
def setCtx (x : Nat) (k : Key) (s : State) : State := { s with ctxs := tset (fun _ => Key.unbound) s.ctxs x k }

/-- KBIND: binds the key named by T to the cipher context in S1 (R424, R427). -/
def execKbind (e : EngineId) (s : State) : Host.Outcome State Fault Refusal :=
  runLong e (pspec 0x7E 0 6 2 2 0) (fun c => do
    let k ← needTag c 0 7 5
    let x ← needNum c 1
    let slot ← keySlot c k.data
    if slot ≤ 1 then rangeFault c k.data
    if 4112 ≤ x.data.toNat then rangeFault c x.data
    modify (fun s => setCtx x.data.toNat (boundKey s slot x.data.toNat) s)
    popD c 2
    return .seq) s

/-! ### ESEND -/

/-- Envelopes of a tile's queue: those in it, and those of its tenant tile index held or in execution, whichever tile sent them (R480). -/
def esendHeld (s : State) (t : Nat) : Nat :=
  (getTile s t).esendq.length +
    (s.envs.filter (fun e => (placeBag e.place).isNone && some e.origin == (getTile s t).owner && e.st != .answered)).length

/-- The data of n words of a checked image, from offset off. -/
def readImage (c : WCtx) (d : Desc) (seg : BitVec 12) (off : Nat) : Nat → NM (List Word)
  | 0 => return []
  | n + 1 => do
    let a ← readAt c d seg 1 off
    if a.tag == 0xF then uncorrFault c seg.toNat 1 off
    let r ← readImage c d seg (off + 8) n
    return a.data :: r

/-- The tenant field of a header replaced (R136). DESIGN CHOICE (log 58): only its ten tenant bits are, and the reserved bits of the 16-bit field
stay as the image holds them, so the header check still sees them. -/
def putTenant (n : Nat) (ws : List Word) : List Word :=
  match ws with
  | [] => []
  | w :: r => ((w &&& ~~~ BitVec.ofNat 64 (0x3FF * 65536)) ||| BitVec.ofNat 64 (n * 65536)) :: r

/-- Address of a tile's own part of the ESEND inbox (R589). -/
def inboxAddr (t : Nat) : BitVec 32 := BitVec.ofNat 32 (0x200000 + 64 * t)

/-- The operands of ESEND as it has checked them. -/
structure EsendOps where
  iseg : BitVec 12
  ioff : Nat
  idesc : Desc
  receipt : Nat
  deriving DecidableEq, Repr

/-- The checks of ESEND's operands in the order of R171: stack, tags, alignments, then the access checks of the image's header and of the
receipt slot. DESIGN CHOICE (log 58): the image's come before the receipt's. -/
def esendOps (c : WCtx) : NM EsendOps := do
  stackPrep c ⟨2, 2, 0, 0, 0⟩
  let r ← needTag c 0 3 2
  let i ← needTag c 1 3 2
  let iseg := codeSeg i.data
  let ioff := codeOff i.data
  let rseg := codeSeg r.data
  let roff := codeOff r.data
  if ioff % 64 != 0 then alignFault c iseg.toNat 1 ioff
  if roff % 32 != 0 then alignFault c rseg.toNat 2 roff
  let d ← accessCheck c 1 (·.r) true iseg ioff 64
  let rd ← accessCheck c 2 (·.w) false rseg roff 32
  return ⟨iseg, ioff, d, rd.base.toNat + roff⟩

/-- The wait of ESEND: after its checks, its queue holds fewer than four (R480). -/
def esendReady (c : WCtx) : NM Bool := do
  discard (esendOps c)
  match engTile c.e with
  | some t => return decide (esendHeld (← get) t < 4)
  | none => return true

/-- The last 64 bytes of an image stand in the tile's inbox port, which they moved through (R589). -/
def putInbox (t : Nat) (image : List Word) (s : State) : State :=
  { s with cm := { s.cm with inbox := tset (fun _ => []) s.cm.inbox t (image.drop (image.length - 8)) } }

/-- An envelope leaves its engine: from a tile with the tile's tenant, through its inbox port into its queue (R136, R480, R589). DEDUCED (log 13): a postmaster's goes to
its own firmware, with the tenant that its image holds. -/
def sendEnvelope (e : EngineId) (image : List Word) (receipt : Nat) (s : State) : State :=
  match e with
  | .tile t =>
    let ten := ((getTile s t).owner.map (·.1)).getD 0
    let sent := putTenant ten image
    putInbox t sent (updTile s t (fun tl => { tl with esendq := tl.esendq ++ [⟨sent, receipt, false⟩] }))
  | .pmA => updPm s false (fun p => { p with esent := p.esent ++ [⟨image, receipt, false⟩] })
  | .pmB => updPm s true (fun p => { p with esent := p.esent ++ [⟨image, receipt, false⟩] })

/-- ESEND: reads the image named by S1 and its receipt slot named by T, and sends the envelope; a full queue, or a locked inbox, makes it
wait (R135, R136, R165, R480, R589). DESIGN CHOICE (log 58): where PAYLOAD_LEN is above 4,032 or no multiple of 64, so that R452 gives the
image no length, the payload read is PAYLOAD_LEN rounded up to 64 bytes, and 4,032 at most. -/
def execEsend (e : EngineId) (s : State) : Host.Outcome State Fault Refusal :=
  runWait e (wspec 0x50 0 6 2 2 0) esendReady
    (fun c => do
      match engTile c.e with
      | some t =>
        match ← mxAsk c .transfer (inboxAddr t) none with
        | .done _ => pure ()
        | _ => return ← mxHold c (inboxAddr t) true
      | none => pure ()
      modify (drainAll c.e)
      let o ← esendOps c
      let hd ← readImage c o.idesc o.iseg o.ioff 8
      let n := 8 * min 63 (cdiv (wfld (wordAt hd 0) 47 32) 64)
      discard (accessCheck c 1 (·.r) true o.iseg o.ioff (64 + 8 * n))
      let body ← readImage c o.idesc o.iseg (o.ioff + 64) n
      addCyc c (cdiv (64 + 8 * n) 256)
      modify (sendEnvelope c.e (hd ++ body) o.receipt)
      popD c 2
      return .seq) s

end Sys2Proof.Machine
end

