-- ==== Sys2Proof/Machine/Fetch.lean ====
section
/-! DEFINITION. From letterbox to execution: which mailbag is fetched, how an envelope is checked, and how it is held (R470 to R480,
R433 to R436). -/
namespace Sys2Proof.Machine

open Sys2Proof

/-! ### The opcode table (R491) -/

/-- A row of the opcode table: origins P, T and E, whether a PF envelope names a tenant, the ARGS bytes that it uses, and the range of
its payload sizes in 64-byte units. -/
structure OpRow where
  op : Nat
  fromP : Bool
  fromT : Bool
  fromE : Bool
  names : Bool
  args : Nat
  lo : Nat
  hi : Nat
  deriving DecidableEq, Repr

/-- The opcodes of plain data movement. -/
def opRowsA : List OpRow :=
  [⟨0x01, true, true, true, false, 0, 0, 0⟩, ⟨0x02, false, true, true, false, 0x1, 0, 0⟩,
   ⟨0x03, false, true, false, false, 0x1, 0, 0⟩, ⟨0x08, true, true, true, false, 0, 0, 0⟩,
   ⟨0x09, true, true, true, false, 0xF, 0, 0⟩, ⟨0x0A, true, true, true, false, 0xFF, 1, 63⟩,
   ⟨0x10, true, true, false, false, 0xFFFF, 1, 1⟩, ⟨0x11, true, true, false, false, 0xFFFF, 1, 1⟩,
   ⟨0x18, false, true, true, false, 0x3, 1, 1⟩, ⟨0x19, false, true, true, false, 0x3, 0, 0⟩]

/-- The opcodes that act on tiles, and REMOTE_SEND. -/
def opRowsB : List OpRow :=
  [⟨0x20, false, true, true, false, 0xFFFF, 2, 63⟩, ⟨0x21, false, true, true, false, 0xFFF1, 0, 0⟩,
   ⟨0x22, false, true, true, false, 0xFFFF, 1, 1⟩, ⟨0x23, false, true, true, false, 0xFFFF, 1, 1⟩,
   ⟨0x24, false, true, true, false, 0xFFFF, 1, 2⟩, ⟨0x25, false, true, false, false, 0xFFFF, 0, 0⟩,
   ⟨0x26, false, true, false, false, 0xFFFF, 0, 0⟩, ⟨0x30, false, true, true, false, 0xF, 1, 63⟩]

/-- The opcodes of the PF. -/
def opRowsC : List OpRow :=
  [⟨0x40, true, false, false, true, 0, 1, 1⟩, ⟨0x41, true, false, false, true, 0, 0, 0⟩,
   ⟨0x42, true, false, false, false, 0xF, 0, 0⟩, ⟨0x43, true, false, false, false, 0xFF, 0, 0⟩,
   ⟨0x44, true, true, false, true, 0x1, 0, 0⟩, ⟨0x48, true, false, false, false, 0xFFF, 0, 0⟩,
   ⟨0x49, true, false, false, false, 0, 0, 0⟩, ⟨0x4A, true, false, false, false, 0, 0, 0⟩,
   ⟨0x4B, true, false, false, false, 0xFFFF, 0, 0⟩, ⟨0x4C, true, false, false, false, 0xFFFF, 0, 0⟩,
   ⟨0x50, true, false, false, false, 0, 0, 0⟩]

def opRow (op : Nat) : Option OpRow := (opRowsA ++ opRowsB ++ opRowsC).find? (fun r => r.op == op)

/-! ### Checks on a fetched envelope (R471) -/

/-- The words that franking authenticates: the header with its franking field zero, and the payload (R432). -/
def frankText (ws : List Word) : List Word := (ws.take 6) ++ [0, 0] ++ ws.drop 8

/-- Steps 1 to 3 (R433, R435): 0 when the envelope is accepted. The key and the expected sequence are those of the fetch (R436). -/
def acceptStatus (e : Env) (s : State) : Nat :=
  match placeBag e.place with
  | none => 0
  | some (f, m) =>
    if e.franking = .raw then 0x0104
    else if frankWords e.franking (frankNonce (hSeq e) m false) (frankText e.words) ≠ (e.words.drop 6).take 2 then 0x0105
    else if (hSeq e).toNat ≠ e.wait ∨ e.wait = 2 ^ 64 - 1 ∨ (getBag s f m).rcptCtr.toNat = 2 ^ 64 - 1 then 0x0106
    else 0

def fromOk (r : OpRow) (p : Place) : Bool :=
  match p with
  | .tenantBag _ _ => r.fromT
  | .pfBag _ => r.fromP
  | .esend _ => r.fromE

/-- Reserved header bits and ARGS bytes that the opcode does not use are zero; WAIT_MAILBAG and WAIT_SEQ are 0 without SEQ_WAIT
(R452, R454). -/
def reservedOk (r : OpRow) (e : Env) : Bool :=
  let w0 := wordAt e.words 0
  let args := (hArg1 e).toNat * 2 ^ 64 + (hArg0 e).toNat
  !w0.getLsbD 7 && wfld w0 15 10 == 0 && wfld w0 31 26 == 0 && wfld w0 63 54 == 0 &&
  ((hFlags e).testBit 0 || (hWaitBag e == 0 && hWaitSeq e == 0)) &&
  (List.range 16).all (fun i => r.args.testBit i || args / 2 ^ (8 * i) % 256 == 0)

/-- R453. -/
def tenantOk (r : OpRow) (e : Env) : Bool :=
  match e.place with
  | .tenantBag n _ => hTenant e == n
  | .pfBag _ => r.names || hTenant e == 0
  | .esend _ => true

/-- Ticks by which an envelope is late (R479). -/
def lateness (s : State) (e : Env) : Nat := if hDeliver e = 0 then 0 else (postmark s).toNat - (hDeliver e).toNat

/-- Steps 4 to 10. -/
def headerStatus (e : Env) (s : State) : Nat :=
  match opRow (hOpcode e) with
  | none => 0x0107
  | some r =>
    if !fromOk r e.place then 0x0108
    else if !reservedOk r e then 0x0109
    else if !tenantOk r e then 0x010A
    else if hPayload e ≠ 64 * (e.slots - 1) ∨ e.slots - 1 < r.lo ∨ r.hi < e.slots - 1 then 0x010B
    else if (postmark s).toNat + 2 ^ 40 < (hDeliver e).toNat then 0x010C
    else if 0 < lateness s e ∧ (hFlags e).testBit 1 then 0x010D
    else 0

/-! ### Holding and beginning (R472 to R479) -/

/-- The sequence wait of an envelope is met (R475). -/
def seqMet (s : State) (e : Env) : Bool :=
  !(hFlags e).testBit 0 ||
  (match placeBag e.place with
   | some (f, m) => hWaitBag e == m || decide ((hWaitSeq e).toNat ≤ (getBag s f (hWaitBag e)).doneSeq.toNat)
   | none => decide ((hWaitSeq e).toNat ≤ (getBag s (.vf e.origin.1) (hWaitBag e)).doneSeq.toNat))

/-- The postmark hold is over (R478). -/
def timeMet (s : State) (e : Env) : Bool := decide ((hDeliver e).toNat ≤ (postmark s).toNat)

/-- Envelopes in execution. -/
def executing (s : State) : Nat := (s.envs.filter (fun e => e.st == .executing)).length

/-- An envelope goes as far as its waits allow; its execution begins behind those that run already. -/
def enterEnv (e : Env) (s : State) : State :=
  if !seqMet s e then putEnv e { e with st := .heldSeq } s
  else if !timeMet s e then putEnv e { e with st := .heldTime } s
  else if 256 ≤ executing s then putEnv e { e with st := .heldTime } s
  else { s with envs := s.envs.erase e ++ [{ e with st := .executing, ran := true, startedAt := s.sclk, phase := 0, wait := 0 }] }

/-- BUSY of an envelope's mailbag. -/
def busyOf (e : Env) (v : Bool) (s : State) : State :=
  match placeBag e.place with
  | some (f, m) => setBusy f m v s
  | none => s

/-- A fetched envelope, its words in hand: it is rejected with a receipt, or held or begun (R471, R472). An accepted one has consumed
its sequence number, unless a newer session has set the counters anew (R433, R436). -/
def judge (e : Env) (s : State) : State :=
  let a := acceptStatus e s
  if a ≠ 0 then finishEnv e a 0 (if a = 0x0105 then bumpFaults (envFn e) s else s)
  else
    let s1 := match placeBag e.place with
      | some (f, m) => if e.oldCtr.isNone then updBag s f m (fun b => { b with expSeq := b.expSeq + 1 }) else s
      | none => s
    let h := headerStatus e s1
    let e1 := { e with late := lateness s e }
    let s2 := putEnv e e1 s1
    if h ≠ 0 then finishEnv e1 h 0 s2 else busyOf e1 true (enterEnv e1 s2)

/-! ### Service order (R477) -/

def bagResetting (s : State) (f : Fn) : Bool :=
  match f with
  | .pf => false
  | .vf n => (getTen s n).st == .resetting || (getTen s n).st == .disabled

/-- A mailbag is eligible. -/
def bagEligible (s : State) (f : Fn) (m : Nat) : Bool :=
  let b := getBag s f m
  bagEnabled b && b.tail != b.head && !s.envs.any (fun e => placeBag e.place == some (f, m)) && trayRoom b && !bagResetting s f

/-- A tile's ESEND queue is eligible for a tenant. -/
def queueEligible (s : State) (n t : Nat) : Bool :=
  let tl := getTile s t
  tl.owner.map (·.1) == some n && !tl.esendq.isEmpty && !bagResetting s (.vf n)

/-- Sources of tenant n, 0 to 63 its mailbags, 64 + t the queue of logical tile t. -/
def sourceEligible (s : State) (n i : Nat) : Bool := if i < 64 then bagEligible s (.vf n) i else queueEligible s n (i - 64)

/-- The first of k numbers after a pointer, cyclically, at which p holds. -/
def firstAfter (k ptr : Nat) (p : Nat → Bool) : Option Nat :=
  ((List.range k).map (fun i => (ptr + 1 + i) % k)).find? p

/-- The next source of tenant n. -/
def tenantSource (s : State) (n : Nat) : Option Nat :=
  firstAfter (64 + nTiles s) (getTen s n).svcPtr (sourceEligible s n)

/-- Tenants that may have something to fetch: those with a mailbag that was ever set up, or a tile. -/
def tenantsAbout (s : State) : List Nat :=
  let a := s.bags.foldl (fun l kv => if kv.1 < 65536 then addOnce l (kv.1 / 64) else l) []
  s.tiles.foldl (fun l kv => match kv.2.owner with | some (n, _) => addOnce l n | none => l) a

/-- The first tenant at or after t_ptr with something eligible. -/
def nextTenant (s : State) : Option Nat :=
  let ok := (tenantsAbout s).filter (fun n => (tenantSource s n).isSome)
  (List.range 1024).map (fun i => (s.tPtr + i) % 1024) |>.find? (fun n => ok.contains n)

/-- The credits of the tenants passed over become 0. -/
def clearCredits (upTo : Nat) (s : State) : State :=
  { s with tenants := tmapKeys s.tPtr upTo s.tenants }
where
  /-- Tenants from the pointer up to but not including `upTo`; 1,024 stands for all. -/
  tmapKeys (ptr upTo : Nat) (t : Tbl Tenant) : Tbl Tenant :=
    (t.map (fun kv =>
      if upTo = 1024 ∨ (kv.1 + 1024 - ptr) % 1024 < (upTo + 1024 - ptr) % 1024 then (kv.1, { kv.2 with svcCredit := 0 }) else kv)).filter
        (fun kv => decide (kv.2 ≠ Tenant.reset))

/-! ### Fetching -/

/-- The key in force for a function's envelopes; none is written as `raw`. -/
def keyNow (s : State) (f : Fn) : Key := (frankKey s f).getD .raw

/-- An envelope as its fetch finds it. -/
def newEnv (no : Nat) (p : Place) (st : EnvSt) (ws : List Word) (slots : Nat) (org : Nat × Nat) (ra : Nat) (k : Key) (exp : Nat) : Env where
  no := no
  place := p
  st := st
  words := ws
  slots := slots
  origin := org
  receiptAt := ra
  franking := k
  oldCtr := none
  late := 0
  startedAt := 0
  ran := false
  phase := 0
  prog := []
  wait := exp
  result := 0
  status := 0
  lost := []

/-- HEAD passes a fetched envelope (R470). -/
def passHead (f : Fn) (m n : Nat) (s : State) : State :=
  updBag s f m (fun b => { b with head := (b.head + n) % 131072, posted := b.posted.drop 1 })

/-- A fetch that failed: HEAD advances and S_FETCH_ERROR is written with SEQ_ECHO 0 (R470). -/
def fetchFailed (f : Fn) (m : Nat) (e : Env) (s : State) : State := finishEnv e 0x0103 0 (passHead f m e.slots s)

/-- Words of an envelope of n slots in an HBM ring. -/
def ringWords (n : Nat) (b : Mailbag) (slots : Nat) (s : State) : List (Option TWord) × State :=
  let d := tenDesc s n (wfld b.ring 63 52)
  if !(d.valid && d.space == 1 && d.r) || decide (d.limit.toNat + 1 < wfld b.ring 47 0 + 64 * ringSize b) then ([none], s)
  else go d slots b.head s
where
  go (d : Desc) : Nat → Nat → State → List (Option TWord) × State
    | 0, _, s => ([], s)
    | k + 1, h, s =>
      let a := segWords (some n) d ((wfld b.ring 47 0 + 64 * (h % ringSize b)) / 8) 8 s
      let r := go d k (h + 1) a.2
      (a.1 ++ r.1, r.2)

/-- Requests for the slots of an envelope in a host ring; one that wraps takes two (R460, R470). -/
def askRing (f : Fn) (b : Mailbag) (n : Nat) (s : State) : State :=
  let h := b.head % ringSize b
  let k := min n (ringSize b - h)
  let s1 := emitRead f (b.ring.toNat + 64 * h) (64 * k) s
  if k < n then emitRead f b.ring.toNat (64 * (n - k)) s1 else s1

/-- Fetch from a mailbag: at once from HBM, by a PCIe read from host memory (R470). -/
def fetchBag (f : Fn) (m : Nat) (s : State) : State :=
  let b := getBag s f m
  let n := b.posted.headD 1
  let p : Place := match f with | .vf k => .tenantBag k m | .pf => .pfBag m
  let e := newEnv s.nextEnv p .fetching [] n (0, 0) 0 (keyNow s f) b.expSeq.toNat
  let s1 := { s with envs := s.envs ++ [e], nextEnv := s.nextEnv + 1 }
  if bagSpace b then
    let r := ringWords (match f with | .vf k => k | .pf => 0) b n s1
    if r.1.any (·.isNone) then fetchFailed f m e r.2
    else
      let e1 := { e with words := r.1.map (fun w => (w.getD ⟨0, 0⟩).data) }
      judge e1 (passHead f m n (putEnv e e1 r.2))
  else askRing f b n s1

/-- Fetch from a tile's ESEND queue (R480). -/
def fetchQueue (t : Nat) (s : State) : State :=
  let tl := getTile s t
  match tl.esendq with
  | [] => s
  | i :: r =>
    let e := newEnv s.nextEnv (.esend t) .fetching i.image (i.image.length / 8) (tl.owner.getD (0, 0)) i.receiptAt .raw 0
    judge e (updTile { s with envs := s.envs ++ [e], nextEnv := s.nextEnv + 1 } t (fun tl => { tl with esendq := r }))

/-- Fetch from source i of tenant n, which takes one of its turns. -/
def fetchTenant (n i : Nat) (s : State) : State :=
  let t := getTen s n
  let c := (if t.svcCredit = 0 then t.contract.serviceWeight else t.svcCredit) - 1
  let s1 := updTen { clearCredits n s with tPtr := if 0 < c then n else (n + 1) % 1024 } n (fun t => { t with svcCredit := c, svcPtr := i })
  if i < 64 then fetchBag (.vf n) i s1 else fetchQueue (i - 64) s1

/-- ENVELOPE_FETCH: the postmaster fetches from the source that the service order chooses (R470, R477). -/
def execEnvelopeFetch (s : State) : Host.Outcome State Fault Refusal :=
  .next (
    if !pmServes s || decide (256 ≤ executing s) then s
    else
      match firstAfter 16 s.pfPtr (bagEligible s .pf) with
      | some m => journal (fetchBag .pf m { s with pfPtr := m })
      | none =>
        match nextTenant s with
        | none => clearCredits 1024 s
        | some n =>
          match tenantSource s n with
          | some i => journal (fetchTenant n i s)
          | none => s)

/-! ### Held envelopes -/

/-- SEQUENCE_WAIT_MET: an envelope of the place held for its sequence wait, the first whose wait is met, proceeds (R475). -/
def execSequenceWaitMet (p : Place) (s : State) : Host.Outcome State Fault Refusal :=
  .next (match s.envs.find? (fun e => e.place == p && e.st == .heldSeq && seqMet s e) with
    | some e => if pmServes s then journal (enterEnv e s) else s
    | none => s)

/-- DELIVER_AT_REACHED: an envelope of the place held for its postmark, the first whose time has come, begins (R478). -/
def execDeliverAtReached (p : Place) (s : State) : Host.Outcome State Fault Refusal :=
  .next (match s.envs.find? (fun e => e.place == p && e.st == .heldTime && timeMet s e) with
    | some e => if pmServes s then journal (enterEnv e s) else s
    | none => s)

/-! ### ESEND receipts and the journal -/

/-- Remove the first receipt waiting for an index. -/
def dropEsendReceipt (n i : Nat) : List (Nat × Nat × Nat × List Word) → List (Nat × Nat × Nat × List Word)
  | [] => []
  | r :: l => if r.1 = n ∧ r.2.1 = i then l else r :: dropEsendReceipt n i l

/-- The logical tile that holds tenant tile index i of tenant n. -/
def tileOf (s : State) (n i : Nat) : Option Nat :=
  (List.range (nTiles s)).find? (fun t => (getTile s t).owner == some (n, i))

/-- A LOCAL run of 520 stripes that holds a context, as a segment: line l of the tile store is its line l (R411, log 20). -/
def ctxDesc (die r0 : Nat) : Desc :=
  { Desc.empty with
    base := BitVec.ofNat 48 (8192 * r0), limit := BitVec.ofNat 48 (520 * 8192 - 1), homedie := BitVec.ofNat 3 die, space := 1,
    r := true, w := true, valid := true }

/-- The context area of index i of tenant n, under the tenant's KEYIDX 0 (R411). -/
def tenantArea (s : State) (n i : Nat) : Option Desc :=
  ((getTen s n).ctxAreas.find? (fun kv => kv.1 == i)).map (fun kv => ctxDesc kv.2.1 kv.2.2)

/-- Write receipt words in a saved context's banks. -/
def putSaved (n i w : Nat) (ws : List Word) (s : State) : State :=
  match tenantArea s n i with
  | some d => segPutWords (some n) d w (ws.map (fun x => ⟨x, 0⟩)) s
  | none => s

/-- ESEND_RECEIPT_ARRIVAL: the oldest receipt of an index is written into the tile that holds it, whose chute is raised, or into its
saved context (R481). -/
def execEsendReceiptArrival (n : Nat) (idx : Nat) (s : State) : Host.Outcome State Fault Refusal :=
  .next (match s.esendReceipts.find? (fun r => r.1 == n && r.2.1 == idx) with
    | none => s
    | some (_, _, a, ws) =>
      let s1 := { s with esendReceipts := dropEsendReceipt n idx s.esendReceipts }
      match tileOf s n idx with
      | some t => raiseChute t (tsWriteList (physOf s1 t) (a / 8) (ws.map (fun w => ⟨w, 0⟩)) s1)
      | none => putSaved n idx (a / 8) ws s1)

/-- The line of the journal area that takes record k: the area is used as a ring of one line a record (DESIGN CHOICE, log 60). -/
def journalLine (s : State) (k : Nat) : Nat × Nat := areaLine s 21504 (k % (7168 * 1024))

/-- JOURNAL_COMMIT: the oldest record not yet committed is handed to the journal area in HBM, and is committed (R654, R716). -/
def execJournalCommit (s : State) : Host.Outcome State Fault Refusal :=
  .next (
    let k := s.sys.journalCommitted
    if k < s.sys.journal then
      writeTable (journalLine s k) (rawWords ((List.range 8).map (Config.journalWord k)))
        { s with sys := { s.sys with journalCommitted := k + 1 } }
    else s)

end Sys2Proof.Machine
end

