-- ==== Sys2Proof/Machine/Envelopes.lean ====
section
/-! DEFINITION. The envelopes that move data, allocate memory and act on tiles (R476, R482 to R499). -/
namespace Sys2Proof.Machine

open Sys2Proof

/-! ### Arguments -/

/-- Bytes i to i + n − 1 of ARGS. -/
def argB (e : Env) (i n : Nat) : Nat := ((hArg1 e).toNat * 2 ^ 64 + (hArg0 e).toNat) / 2 ^ (8 * i) % 2 ^ (8 * n)
/-- Bytes i to i + n − 1 of the payload, within one word. -/
def payB (e : Env) (i n : Nat) : Nat := (payWord e (i / 8)).toNat / 2 ^ (8 * (i % 8)) % 2 ^ (8 * n)

/-- A number that the postmaster chooses below n: any that satisfies p may be its choice, otherwise the first that does. -/
def chosen (s : State) (n : Nat) (p : Nat → Bool) : Option Nat :=
  let k := if n = 0 then 0 else (Config.freeValue s.free).toNat % n
  if p k && decide (k < n) then some k else (List.range n).find? p

/-! ### Plain opcodes -/

/-- NOP. -/
def execEnvelopeNop (p : Place) (s : State) : Host.Outcome State Fault Refusal := onEnv p 0x01 s (fun e s => finishEnv e 0 0 s)

/-- FPFLAGS_READ: the tenant's flag word, then CLEAR (R229, R499). -/
def execFpflagsRead (p : Place) (s : State) : Host.Outcome State Fault Refusal :=
  onEnv p 0x02 s (fun e s =>
    let n := envTenant e
    let v := (getTen s n).fpflags
    let s1 := if argB e 0 1 % 2 = 1 then updTen s n (fun t => { t with fpflags := 0 }) else s
    finishEnv e 0 v.toNat s1)

/-- A held envelope of a place leaves it with S_CANCELLED (R476). -/
def cancelHeld (x : Env) (s : State) : State := finishEnv x 2 0 s

/-- The receipt of a cancelled item of a queue, placed under R481. -/
def cancelReceipt (n i : Nat) (x : EsendItem) (s : State) : State :=
  { s with esendReceipts := s.esendReceipts ++ [(n, i, x.receiptAt, [receiptW0 2 0 0, receiptW1 (wordAt x.image 1) 0, 0, 0])] }

/-- The envelopes of an index's ESEND queue that are held. -/
def heldOf (n i : Nat) (s : State) : List Env :=
  s.envs.filter (fun x => (placeBag x.place).isNone && x.origin == (n, i) && (x.st == .heldSeq || x.st == .heldTime))

/-- The queue of an index, on its tile or in its saved context, and the queue put back. -/
def queueOf (n i : Nat) (s : State) : List EsendItem :=
  match tileOf s n i with
  | some t => (getTile s t).esendq
  | none => (((getTen s n).saved.find? (fun kv => kv.1 == i)).map (·.2.esendq)).getD []
def setQueue (n i : Nat) (q : List EsendItem) (s : State) : State :=
  match tileOf s n i with
  | some t => updTile s t (fun tl => { tl with esendq := q })
  | none => updTen s n (fun t => { t with saved := t.saved.map (fun kv => if kv.1 = i then (kv.1, { kv.2 with esendq := q }) else kv) })

/-- Cancel every held envelope of an index's ESEND queue, and every item there that had been held when a context was saved: whether there was
one (R476, R480). -/
def cancelEsend (n i : Nat) (s : State) : Bool × State :=
  let hs := heldOf n i s
  let q := queueOf n i s
  let xs := q.filter (·.wasHeld)
  let s1 := if xs.isEmpty then s else setQueue n i (q.filter (fun x => !x.wasHeld)) s
  (!hs.isEmpty || !xs.isEmpty, forL xs (cancelReceipt n i) (forL hs cancelHeld s1))

/-- MB_CANCEL (R476). -/
def execMbCancel (p : Place) (s : State) : Host.Outcome State Fault Refusal :=
  onEnv p 0x03 s (fun e s =>
    let v := argB e 0 1
    let n := envTenant e
    if 0x40 ≤ v ∧ v < 0x80 then finishEnv e 4 0 s
    else if v < 0x40 then
      match s.envs.find? (fun x => x.place == .tenantBag n v && (x.st == .heldSeq || x.st == .heldTime)) with
      | some x => finishEnv e 0 1 (cancelHeld x s)
      | none => finishEnv e 0 0 s
    else
      let r := cancelEsend n (v - 0x80) s
      finishEnv e 0 (b2n r.1) r.2)

/-! ### Payload buffers (R485 to R490) -/

/-- The owner number of a requester: 1,024 the PF. -/
def requesterNo (e : Env) : Nat := match e.place with | .pfBag _ => 1024 | _ => envTenant e
def bufIndex (h : Nat) : Nat := h % 1024
/-- The handle of a buffer (R485). -/
def bufHandle (s : State) (i : Nat) : Nat := (getBuf s i).gen.toNat * 1024 + i

/-- Checks 1 to 3 of R487 as every other opcode makes them: 0 when the handle may be used (R488). -/
def bufStatus (s : State) (e : Env) (h : Nat) : Nat :=
  let b := getBuf s (bufIndex h)
  if b.owner.isNone || b.gen.toNat != h / 1024 then 0x0202
  else if b.owner != some (requesterNo e) then 0x0204 else 0

/-- An envelope fails on its buffer: S_NOT_OWNER counts a fault of the requester, and a free buffer or a stale handle is written to the event
log with the requester's number (R487, R488). -/
def failBuf (e : Env) (st : Nat) (s : State) : State :=
  finishEnv e st 0 (if st = 0x0204 then bumpFaults (envFn e) s else if st = 0x0202 then logEvent 0x0202 (requesterNo e) s else s)

/-- BUF_ALLOC: a free buffer, its bytes written as zero (R486). -/
def execBufAlloc (p : Place) (s : State) : Host.Outcome State Fault Refusal :=
  onEnv p 0x08 s (fun e s =>
    let o := requesterNo e
    let held := (s.buffers.filter (fun kv => kv.2.owner == some o)).length
    if (if o = 1024 then 64 else 16) ≤ held then finishEnv e 0x0201 0 s
    else match chosen s 1024 (fun i => (getBuf s i).owner.isNone) with
      | none => finishEnv e 0x0201 0 s
      | some i =>
        let s1 := setBuf (clearArea (4096 + 16 * i) 16 (tick s)) i { getBuf s i with owner := some o, words := [] }
        finishEnv e 0 (bufHandle s1 i) s1)

/-- Free a buffer: its generation advances. -/
def freeBuf (i : Nat) (s : State) : State := setBuf s i { getBuf s i with owner := none, gen := (getBuf s i).gen + 1, words := [] }

/-- The handle that an envelope's opcode names; none for an opcode that names none. -/
def handleOf (e : Env) : Option Nat :=
  let op := hOpcode e
  if op = 0x0A ∨ op = 0x42 ∨ op = 0x43 ∨ op = 0x48 then some (argB e 0 4)
  else if op = 0x10 ∨ op = 0x11 then (if payB e 8 1 = 1 then some (payB e 12 4) else none)
  else if op = 0x21 then some (argB e 8 4) else none

/-- BUF_RETURN: it waits while another envelope uses the buffer, and behind an earlier return of it (R487, R489). -/
def execBufReturn (p : Place) (s : State) : Host.Outcome State Fault Refusal :=
  onEnv p 0x09 s (fun e s =>
    let h := argB e 0 4
    let i := bufIndex h
    let b := getBuf s i
    let earlier := s.envs.takeWhile (fun x => x != e)
    let waits := s.envs.any (fun x => x.st == .executing && handleOf x == some h) ||
      earlier.any (fun x => x.st == .executing && hOpcode x == 0x09 && bufIndex (argB x 0 4) == i)
    if waits then s
    else if b.owner.isNone || b.gen.toNat != h / 1024 then finishEnv e 0x0203 0 (logEvent 0x0203 (requesterNo e) s)
    else if b.owner != some (requesterNo e) then failBuf e 0x0204 s
    else finishEnv e 0 0 (freeBuf i s))

/-- Line l of payload buffer i (R716). -/
def bufLine (s : State) (i l : Nat) : Nat × Nat := areaLine s (4096 + 16 * i) l
def bufWord (s : State) (i w : Nat) : Word := tget (fun _ => 0) (getBuf s i).words w

/-- Words of a buffer from word w: what it holds, and its lines in HBM. -/
def putBufWords (i w : Nat) (ws : List Word) (s : State) : State :=
  let s1 := setBuf s i { getBuf s i with words := forN ws.length (fun k b => tset (fun _ => 0) b (w + k) (nthD 0 ws k)) (getBuf s i).words }
  forN (cdiv (w % 8 + ws.length) 8) (fun j s =>
    let l := w / 8 + j
    writeTable (bufLine s i l) (rawWords ((List.range 8).map (fun k => bufWord s i (8 * l + k)))) s) s1

/-- Read n lines of an area of the region from line l, as postmaster payload: how many can be read before the first that cannot (R343,
R346). -/
def areaGood (f : State → Nat → Nat × Nat) : Nat → Nat → State → Nat × State
  | _, 0, s => (0, s)
  | l, n + 1, s =>
    let a := readTable (f s l) (rawWords []) 2 pmRequester s
    match a.1 with
    | some v =>
      if (List.range 8).any (fun k => (lineWord v.1 v.2 k).tag == 0xF) then (0, a.2)
      else
        let r := areaGood f (l + 1) n a.2
        (r.1 + 1, r.2)
    | none => (0, a.2)
/-- Read n lines of payload buffer i from line l. -/
def bufGood (i l n : Nat) (s : State) : Nat × State := areaGood (fun s l => bufLine s i l) l n s

/-- Read the first n words of a buffer: the envelope fails on a line that cannot be read (R343). -/
def readBuf (e : Env) (i n : Nat) (s : State) (k : List Word → State → State) : State :=
  let r := bufGood i 0 (cdiv n 8) s
  if r.1 < cdiv n 8 then finishEnv e 5 0 r.2 else k ((List.range n).map (bufWord s i)) r.2

/-- BUF_WRITE: the payload is copied into the buffer. -/
def execBufWrite (p : Place) (s : State) : Host.Outcome State Fault Refusal :=
  onEnv p 0x0A s (fun e s =>
    let h := argB e 0 4
    let off := argB e 4 4
    let st := bufStatus s e h
    if st ≠ 0 then failBuf e st s
    else if off % 64 ≠ 0 ∨ 2 ^ 20 < off + hPayload e then finishEnv e 4 0 s
    else finishEnv e 0 0 (putBufWords (bufIndex h) (off / 8) ((e.words.drop 8).take (hPayload e / 8)) s))

/-! ### DMA (R492) -/

/-- Where a transfer moves to or from: a segment with its descriptor and offset, or a buffer and offset. -/
inductive DmaEnd where
  | seg (n : Nat) (d : Desc) (off : Nat)
  | buf (i off : Nat)
  deriving DecidableEq, Repr

/-- The checks of a DMA payload: a status, or the target. -/
def dmaTarget (s : State) (e : Env) (write : Bool) : Nat ⊕ DmaEnd :=
  let len := wfld (payWord e 0) 63 0
  let kind := payB e 8 1
  let tag := payB e 9 1
  let host := (hArg0 e).toNat
  let t := hArg1 e
  if len % 64 ≠ 0 ∨ len < 64 ∨ 2 ^ 36 < len ∨ 2 ≤ kind ∨ 3 ≤ tag ∨ (!write ∧ tag ≠ 0) ∨ payB e 10 2 ≠ 0 ∨ !payZeroFrom e 2 ∨
      host % 64 ≠ 0 then .inl 4
  else if kind = 1 then
    let h := payB e 12 4
    let st := bufStatus s e h
    if st ≠ 0 then .inl st
    else if t.toNat % 64 ≠ 0 ∨ 2 ^ 20 < t.toNat + len then .inl 4
    else .inr (.buf (bufIndex h) t.toNat)
  else if payB e 12 4 ≠ 0 ∨ wfld t 51 48 ≠ 0 ∨ wfld t 47 0 % 64 ≠ 0 then .inl 4
  else match e.place with
    | .pfBag _ => .inl 0x0215
    | _ =>
      let d := tenDesc s (envTenant e) (wfld t 63 52)
      if !d.valid || d.space != 1 || !(if write then d.w else d.r) then .inl 0x0215
      else if d.limit.toNat + 1 < wfld t 47 0 + len then .inl 4
      else .inr (.seg (envTenant e) d (wfld t 47 0))

/-- Write the words that arrived, whole lines. -/
def dmaStore (e : Env) (k : DmaEnd) (ws : List Word) (s : State) : State :=
  let tag := BitVec.ofNat 4 (payB e 9 1)
  match k with
  | .buf i off => putBufWords i (off / 8) ws s
  | .seg n d off =>
    forN (ws.length / 8) (fun j s =>
      let l := ((ws.drop (8 * j)).take 8).map (fun w => (⟨w, tag⟩ : TWord))
      segWriteLine (some n) d (off / 64 + j) pmRequester (lineData l, lineTags l) s) s

/-- DMA_IN: after its checks the data is asked for (R492). -/
def execDmaIn (p : Place) (s : State) : Host.Outcome State Fault Refusal :=
  onEnv p 0x10 s (fun e s =>
    if e.phase ≠ 0 then s
    else match dmaTarget s e true with
      | .inl st => failBuf e st s
      | .inr _ => emitRead (envFn e) (hArg0 e).toNat (payWord e 0).toNat (putEnv e { e with phase := 1 } s))

/-- The words of a transfer outward up to the first that cannot be read. -/
def dmaLoad (k : DmaEnd) (len : Nat) (s : State) : List (Option TWord) × State :=
  match k with
  | .buf i off =>
    let r := bufGood i (off / 64) (len / 64) s
    ((List.range (len / 8)).map (fun j => if j < 8 * r.1 then some ⟨bufWord s i (off / 8 + j), 0⟩ else none), r.2)
  | .seg n d off => segWords (some n) d (off / 8) (len / 8) s

/-- DMA_OUT: whole lines to host memory; one that is uncorrectable or POISON ends it (R343), and so does a PCIe error, with the count of the
lines moved before it (R492): whether one comes, and at which line, is a free value (log 64). -/
def execDmaOut (p : Place) (s : State) : Host.Outcome State Fault Refusal :=
  onEnv p 0x11 s (fun e s =>
    match dmaTarget s e false with
    | .inl st => failBuf e st s
    | .inr k =>
      let r := dmaLoad k (payWord e 0).toNat s
      let good := (r.1.takeWhile (·.isSome)).map (fun w => (w.getD ⟨0, 0⟩).data)
      let sent := Config.pcieTakes r.2.free
      let lines := min sent (good.length / 8)
      let s1 := if lines = 0 then tick r.2 else emitWrite (envFn e) (hArg0 e).toNat (good.take (8 * lines)) (tick r.2)
      if sent < good.length / 8 then finishEnv e 6 lines s1
      else if good.length < r.1.length then finishEnv e 5 0 s1 else finishEnv e 0 0 s1)

/-- The data of a DMA_IN arrives: every line is written, or with a PCIe error those before it; RESULT is then their count. -/
def dmaArrives (e : Env) (d : HostData) (s : State) : State :=
  match dmaTarget s e true with
  | .inl st => failBuf e st s
  | .inr k =>
    let n := (payWord e 0).toNat / 64
    match d with
    | .ok ws => finishEnv e 0 0 (dmaStore e k ((List.range (8 * n)).map (wordAt ws)) s)
    | .err g ws =>
      let g := min g n
      finishEnv e 6 g (dmaStore e k ((List.range (8 * g)).map (wordAt ws)) s)

/-- HOST_READ_COMPLETION: the slots of an envelope being fetched, or the data of a DMA_IN (R470, R492). -/
def execHostReadCompletion (p : Place) (d : HostData) (s : State) : Host.Outcome State Fault Refusal :=
  .next (match envAt s p .fetching with
    | some e =>
      (match placeBag p, d with
       | some (f, m), .ok ws =>
         let e1 := { e with words := (List.range (8 * e.slots)).map (wordAt ws) }
         journal (judge e1 (passHead f m e.slots (putEnv e e1 s)))
       | some (f, m), .err _ _ => journal (fetchFailed f m e s)
       | none, _ => s)
    | none =>
      match s.envs.find? (fun e => e.place == p && e.st == .executing && hOpcode e == 0x10 && e.phase == 1) with
      | some e => journal (dmaArrives e d s)
      | none => s)

/-! ### Segments (R324, R325, R335, R336, R493, R494) -/

/-- A run of stripes: spread, die, first index, length. -/
structure Run where
  global : Bool
  die : Nat
  r0 : Nat
  n : Nat
  deriving DecidableEq, Repr

def Run.meets (a b : Run) : Bool :=
  (a.global || b.global || a.die == b.die) && decide (a.r0 < b.r0 + b.n) && decide (b.r0 < a.r0 + a.n)

def descRun (d : Desc) : Run := ⟨d.global, d.homedie.toNat, segR0 d, segStripes d⟩
/-- An HBM segment in use. -/
def inPool (d : Desc) : Bool := d.valid && d.space == 1
def jobRun (b : Job) : Run := ⟨b.global, b.die, b.r0, b.stripes⟩

/-- Every run of the tenant pool that is not free: segments, context areas, fills and rewrites that run (R336, R411). -/
def poolRuns (s : State) : List Run :=
  s.tenants.flatMap (fun tn => ((tn.2.segs.filter (fun kv => inPool kv.2)).map (fun kv => descRun kv.2)) ++
    tn.2.ctxAreas.map (fun kv => ⟨false, kv.2.1, kv.2.2, 520⟩)) ++
  (s.jobs.filter (fun j => j.2.kind != .rotate)).map (fun j => jobRun j.2)

/-- A run lies in the pool and meets no other. -/
def runFree (s : State) (r : Run) : Bool := decide (r.r0 + r.n ≤ sysBase s) && !(poolRuns s).any (r.meets ·)

/-- The first index that the postmaster chooses for a run: any free place may be its choice; none when there is none. -/
def findRun (s : State) (global : Bool) (die n : Nat) : Option Nat :=
  let k := (Config.freeValue s.free).toNat % sysBase s
  (k :: 0 :: (poolRuns s).map (fun r => r.r0 + r.n)).find? (fun i => runFree s ⟨global, die, i, n⟩)

/-- LOCAL stripes that a descriptor counts for against the quota (R403). -/
def quotaOf (d : Desc) : Nat := segStripes d * (if d.global then 8 else 1)
/-- LOCAL stripes of a tenant: segments, context areas, and a segment that is being filled. -/
def quotaUsed (s : State) (n : Nat) : Nat :=
  let t := getTen s n
  ((t.segs.filter (fun kv => inPool kv.2)).map (fun kv => quotaOf kv.2)).foldl (· + ·) 0 + 520 * t.ctxAreas.length +
  ((s.jobs.filter (fun j => j.2.kind == .fill && j.2.tenant == n)).map (fun j => j.2.stripes * (if j.2.global then 8 else 1))).foldl (· + ·) 0

/-- A payload descriptor as SEG_ALLOC takes it: none when it breaks R156, R157 or R493. -/
def allocDesc (e : Env) : Option Desc :=
  let w (i : Nat) : Word := payWord e i
  let d := wordsDesc [w 0, w 1, w 2, w 3]
  let res := wfld (w 0) 63 48 != 0 || wfld (w 1) 63 48 != 0 || wfld (w 2) 63 40 != 0 || wfld (w 2) 31 13 != 0 || (w 2).getLsbD 11 ||
    wfld (w 3) 63 0 != 0 || wfld (w 4) 63 1 != 0 || !payZeroFrom e 5
  if res || !d.valid || !decide (d.space.toNat < 2) then none
  else if d.space == 0 then
    (if d.base.toNat % 64 ≠ 0 ∨ 0x3FFFFF < d.base.toNat + d.limit.toNat then none else some { d with keyidx := 0 })
  else if d.base ≠ 0 ∨ (d.limit.toNat + 1) % 4096 ≠ 0 ∨ 4 ≤ d.keyidx.toNat then none
  else some { d with x := false, sheet := false }

/-- Install a segment: its generation advances (R156); RESULT is the new one. -/
def installSeg (e : Env) (seg : Nat) (d : Desc) (s : State) : State :=
  let n := envTenant e
  let g := (tenDesc s n seg).gen + 1
  finishEnv e 0 g.toNat (putSeg n seg { d with gen := g } s)

/-- BASE of a segment whose run begins at index r (R324, R325). -/
def baseOf (d : Desc) (r : Nat) : BitVec 48 := BitVec.ofNat 48 (r * (if d.global then 65536 else 8192))

/-- SEG_ALLOC: checks, stripes, an optional fill, then the descriptor (R335, R493). Under an HBM_QUOTA of 0 it is refused for every segment
(R404, R447), with S_QUOTA_EXCEEDED (DEDUCED, log 63). -/
def execSegAlloc (p : Place) (s : State) : Host.Outcome State Fault Refusal :=
  onEnv p 0x18 s (fun e s =>
    let n := envTenant e
    let seg := argB e 0 2
    let filling := s.jobs.find? (fun j => j.1 == e.wait && j.2.kind == .fill)
    if e.phase = 1 then
      match filling, allocDesc { e with words := setAt e.words 8 0 } with
      | some (j, b), some d =>
        if jobDone b then
          installSeg e seg { d with base := baseOf d b.r0 }
            { s with jobs := s.jobs.filter (fun x => x.1 != j) }
        else s
      | _, _ => s
    else if 4096 ≤ seg then finishEnv e 4 0 s
    else if (tenDesc s n seg).valid || s.jobs.any (fun j => j.2.kind == .fill && j.2.tenant == n && j.2.seg.toNat == seg) then
      finishEnv e 0x0211 0 s
    else match allocDesc e with
      | none => finishEnv e 0x0210 0 s
      | some d =>
        if (getTen s n).contract.quota = 0 then finishEnv e 0x0213 0 s
        else if d.space == 0 then installSeg e seg d s
        else if (getTen s n).contract.quota < quotaUsed s n + quotaOf d then finishEnv e 0x0213 0 s
        else match findRun s d.global d.homedie.toNat (segStripes d) with
          | none => finishEnv e 0x0214 0 s
          | some r =>
            if (payWord e 4).getLsbD 0 then
              let q := startJob ⟨.fill, n, BitVec.ofNat 12 seg, d.keyidx.toNat, d.global, d.homedie.toNat, r, segStripes d, []⟩ (tick s)
              putEnv e { e with phase := 1, wait := q.1 } (joinRotation n seg { d with base := baseOf d r } q.2)
            else installSeg e seg { d with base := baseOf d r } (joinRotation n seg { d with base := baseOf d r } (tick s)))

/-- A unit or a loaded sheet uses a segment. -/
def usesSeg (seg : Nat) (us : List VUnit) (sh : Tbl Sheet) : Bool :=
  us.any (fun u => (u.ops ++ u.pst.toList).any (fun c => !c.remote && c.seg.toNat == seg)) ||
  sh.any (fun kv => kv.2.loaded && (parseSheet kv.2.entries).streams.any (fun x => !x.remote && x.seg.toNat == seg))

/-- A segment of a tenant is busy on one of its tiles or in a saved context (R494). -/
def segBusy (s : State) (n seg : Nat) : Bool :=
  s.tiles.any (fun kv => kv.2.owner.map (·.1) == some n && usesSeg seg kv.2.units kv.2.sheets) ||
  (getTen s n).saved.any (fun kv => usesSeg seg kv.2.units kv.2.sheets)

/-- The logical tiles that a tenant holds. -/
def tilesOf (s : State) (n : Nat) : List Nat := (List.range (nTiles s)).filter (fun t => (getTile s t).owner.map (·.1) == some n)

/-- TX_DINV as the postmaster writes it for a segment, where it is not still in use for another (R162, R193). -/
def askDinv (seg t : Nat) (s : State) : State :=
  if bit ((getTile s t).reg 0x208) 31 then s else updTile s t (writeDinv (BitVec.ofNat 32 (2 ^ 31 + seg)))

/-- Tile t holds a descriptor of a segment in its cache. -/
def caches (s : State) (seg t : Nat) : Bool := (getTile s t).eng.dcache.any (fun x => x.1.toNat == seg)
/-- GO has cleared on every tile of the tenant, and none holds the descriptor (R162). -/
def dinvDone (s : State) (n seg : Nat) : Bool := (tilesOf s n).all (fun t => !bit ((getTile s t).reg 0x208) 31 && !caches s seg t)

/-- SEG_FREE: the descriptor goes, then its copies on every tile of the tenant; the receipt follows, and the stripes are rewritten
(R162, R336, R494). -/
def execSegFree (p : Place) (s : State) : Host.Outcome State Fault Refusal :=
  onEnv p 0x19 s (fun e s =>
    let n := envTenant e
    let seg := argB e 0 2
    if e.phase = 1 then
      (if dinvDone s n seg then finishEnv e 0 0 s else forL ((tilesOf s n).filter (caches s seg)) (askDinv seg) s)
    else if 4096 ≤ seg then finishEnv e 4 0 s
    else
      let d := tenDesc s n seg
      if !d.valid then finishEnv e 0x0215 0 s
      else if segBusy s n seg then finishEnv e 0x0212 0 s
      else
        let s1 := putSeg n seg { d with valid := false, gen := d.gen + 1 } s
        let s2 := if d.space == 1 then
            (startJob ⟨.unwritten, n, BitVec.ofNat 12 seg, 0, d.global, d.homedie.toNat, segR0 d, segStripes d, []⟩ s1).2 else s1
        let s3 := forL (tilesOf s2 n) (askDinv seg) s2
        if dinvDone s3 n seg then finishEnv e 0 0 s3 else putEnv e { e with phase := 1 } s3)

/-- POOL_REWRITE_DONE: stripes whose rewrite has finished may be allocated again (R336). -/
def execPoolRewriteDone (s : State) : Host.Outcome State Fault Refusal :=
  .next { s with jobs := s.jobs.filter (fun j => !(j.2.kind == .unwritten && jobDone j.2)) }

end Sys2Proof.Machine
end

