-- ==== Sys2Proof/Machine/TileWork.lean ====
section
/-! DEFINITION. The envelopes that name tiles, and REMOTE_SEND (R31, R482, R484, R495 to R498). -/
namespace Sys2Proof.Machine

open Sys2Proof

/-! ### Tiles of a TILE_SET (R31, R491) -/

/-- What an envelope's step on one tile answers. -/
inductive TileOut where
  | stay (stage : Nat)
  | ended (status result : Nat)
  deriving DecidableEq, Repr

/-- Tenant tile indices set in TILE_SET. -/
def tileSet (e : Env) : List Nat := (List.range 128).filter (fun i => (wordAt e.words (4 + i / 64)).getLsbD (i % 64))

/-- RESULT of a tile's failure: its tenant tile index where the opcode says so (R496, R497), otherwise 0 (R491). -/
def failResult (op i : Nat) : Nat := if op = 0x22 ∨ op = 0x23 then i else 0

/-- One step on the tile of an index: a tile reset ends it (R652); an index that holds no tile waits for one. -/
def stepTile (e : Env) (op : Nat) (k : Nat → Nat → Nat → State → TileOut × State) (g : TileProg) (s : State) : TileProg × State :=
  if g.done.isSome then (g, s)
  else
    let t := tileOf s (envTenant e) g.idx
    if e.lost.contains g.idx then ({ g with done := some (t.getD 1024, 0x0222, failResult op g.idx) }, s)
    else match t with
      | none => (g, s)
      | some t =>
        match k g.idx t g.stage s with
        | (.stay n, s1) => ({ g with stage := n }, s1)
        | (.ended st r, s1) => ({ g with done := some (t, st, r) }, s1)

def stepTiles (e : Env) (op : Nat) (k : Nat → Nat → Nat → State → TileOut × State) : List TileProg → State → List TileProg × State
  | [], s => ([], s)
  | g :: r, s =>
    let a := stepTile e op k g s
    let b := stepTiles e op k r a.2
    (a.1 :: b.1, b.2)

/-- The first failure in logical tile order (R31). -/
def firstFailure (l : List TileProg) : Option (Nat × Nat × Nat) :=
  (l.filterMap (·.done)).foldl (fun a d => if d.2.1 = 0 then a else match a with | some x => if d.1 < x.1 then some d else a | none => some d) none

/-- An opcode that acts on each named tile: the receipt waits for every one. -/
def onTiles (p : Place) (op : Nat) (s : State) (pre : Env → State → Nat) (k : Env → Nat → Nat → Nat → State → TileOut × State) :
    Host.Outcome State Fault Refusal :=
  onEnv p op s (fun e s =>
    let n := envTenant e
    let l := if e.prog.isEmpty then (tileSet e).map (fun i => (⟨i, 0, none⟩ : TileProg)) else e.prog
    let st := if e.prog.isEmpty then pre e s else 0
    if l.any (fun g => decide ((getTen s n).contract.tiles ≤ g.idx)) && e.prog.isEmpty then finishEnv e 4 0 s
    else if st ≠ 0 then finishEnv e st 0 s
    else
      let r := stepTiles e op (k e) l s
      if r.1.all (·.done.isSome) then
        match firstFailure r.1 with
        | some d => finishEnv e d.2.1 d.2.2 r.2
        | none => finishEnv e 0 0 r.2
      else putEnv e { e with prog := r.1 } r.2)

/-- The engine is halted, or was never started. -/
def tileHalted (s : State) (t : Nat) : Bool := (getTile s t).eng.runstate != 1
/-- Words lie in the tile's banks and outside its system rows. -/
def wordsInside (s : State) (t a n : Nat) : Bool := decide (a + 8 * n ≤ 0x400000) && (n == 0 || (firstOutside (getTile s t) a (8 * n)).isNone)

/-- A fill runs on the tile: accesses to its store wait (R713). -/
def filling (s : State) (t : Nat) : Bool := bit ((getTile s t).reg 0x004) 0

/-! ### TILE_WRITE and TILE_READ -/

/-- The first payload unit of TILE_WRITE is well formed, and the words lie in the payload (R495). -/
def tileWriteOk (e : Env) : Bool :=
  payB e 0 4 % 8 == 0 && decide (payB e 6 1 < 3) && payB e 7 1 == 0 &&
  (List.range 7).all (fun i => payWord e (1 + i) == 0) && decide (8 * payB e 4 2 + 64 ≤ hPayload e)

/-- TILE_WRITE (R495). -/
def execTileWrite (p : Place) (s : State) : Host.Outcome State Fault Refusal :=
  onTiles p 0x20 s (fun e _ => if tileWriteOk e then 0 else 4) (fun e _ t _ s =>
    let a := payB e 0 4
    let n := payB e 4 2
    if !tileHalted s t then (.ended 0x0220 0, s)
    else if !wordsInside s t a n then (.ended 4 0, s)
    else if filling s t then (.stay 0, s)
    else
      let ws := (List.range n).map (fun j => (⟨payWord e (8 + j), BitVec.ofNat 4 (payB e 6 1)⟩ : TWord))
      (.ended 0 0, tsWriteList (physOf s t) (a / 8) ws s))

/-- Words of a tile store read on the management face; none where one is uncorrectable or POISON. -/
def tileWords (p : Nat) : Nat → Nat → State → List (Option TWord) × State
  | _, 0, s => ([], s)
  | w, n + 1, s =>
    let a := tsRead p w 0xC s
    let r := tileWords p (w + 1) n a.2
    ((a.1.bind (fun v => if v.tag == 0xF then none else some v)) :: r.1, r.2)

/-- TILE_READ: the words' data into the buffer from offset 0. -/
def execTileRead (p : Place) (s : State) : Host.Outcome State Fault Refusal :=
  onEnv p 0x21 s (fun e s =>
    let i := argB e 0 1
    let a := argB e 4 4
    let n := argB e 12 4
    let h := argB e 8 4
    let st := bufStatus s e h
    if (getTen s (envTenant e)).contract.tiles ≤ i then finishEnv e 4 0 s
    else if e.lost.contains i then finishEnv e 0x0222 0 s
    else match tileOf s (envTenant e) i with
      | none => s
      | some t =>
        if st ≠ 0 then failBuf e st s
        else if !tileHalted s t then finishEnv e 0x0220 0 s
        else if a % 8 ≠ 0 ∨ 131072 < n ∨ !wordsInside s t a n then finishEnv e 4 0 s
        else if filling s t then s
        else
          let r := tileWords (physOf s t) (a / 8) n s
          if r.1.any (·.isNone) then finishEnv e 5 0 r.2
          else finishEnv e 0 0 (putBufWords (bufIndex h) 0 (r.1.map (fun v => (v.getD ⟨0, 0⟩).data)) r.2))

/-! ### ROUND_LOAD and ROUND_LAUNCH -/

/-- Read n 16-byte entries of a tile store from byte b, which no rule aligns; none when a word is uncorrectable or POISON. -/
def tileEntries (p b n : Nat) (s : State) : Option (List (BitVec 128)) × State :=
  let r := tileWords p (b / 8) (2 * n + b2n (b % 8 != 0)) s
  let w := fun i => ((nthD none r.1 i).getD ⟨0, 0⟩).data.toNat
  if r.1.any (·.isNone) then (none, r.2)
  else (some ((List.range n).map (fun k => BitVec.ofNat 128
    ((w (2 * k + 2) * 2 ^ 128 + w (2 * k + 1) * 2 ^ 64 + w (2 * k)) / 2 ^ (8 * (b % 8))))), r.2)

/-- n bytes at an offset of a tile-store segment with the sheet right: their address, or a status. -/
def sheetPlace (s : State) (t : Nat) (d : Desc) (off n : Nat) : Nat ⊕ Nat :=
  if !grants d || d.space != 0 || !d.sheet then .inl 0x0215
  else if d.limit.toNat + 1 < off + n ∨ (firstOutside (getTile s t) (d.base.toNat + off) n).isSome then .inl 4
  else .inr (d.base.toNat + off)

/-- Validate the sheet named by an ADDR into a slot: the status and entry index of a failure (R300, R496). -/
def loadInto (t n slot : Nat) (a : Word) (s : State) : Option (Nat × Nat) × State :=
  let d := tenDesc s n (wfld a 63 52)
  let off := wfld a 47 0
  if wfld a 51 48 ≠ 0 then (some (4, 0), s)
  else match sheetPlace s t d off 64 with
    | .inl st => (some (st, 0), s)
    | .inr b =>
      let h := tileEntries (physOf s t) b 4 s
      match h.1 with
      | none => (some (5, 0), h.2)
      | some hd =>
        let k := ent (nthD 0 hd 0) 47 32
        let k := if 1 ≤ k ∧ k ≤ 2048 then k else 0
        match sheetPlace s t d off (64 + 16 * k) with
        | .inl st => (some (st, 0), h.2)
        | .inr _ =>
          let r := tileEntries (physOf s t) (b + 64) k h.2
          match r.1 with
          | none => (some (5, 0), r.2)
          | some body =>
            match sheetCheck r.2 t n (sheetAt (getTile r.2 t) slot).loaded (hd ++ body) with
            | some x => (some x, r.2)
            | none => (none, placeSheet t slot (hd ++ body) r.2)

/-- ROUND_LOAD (R496). -/
def execRoundLoad (p : Place) (s : State) : Host.Outcome State Fault Refusal :=
  onTiles p 0x22 s (fun e _ => if payB e 8 1 < 8 ∧ payB e 9 7 = 0 ∧ payZeroFrom e 2 then 0 else 4) (fun e i t _ s =>
    if filling s t then (.stay 0, s)
    else
    let r := loadInto t (envTenant e) (payB e 8 1) (payWord e 0) s
    match r.1 with
    | some (st, x) => (.ended st (i + x * 65536), r.2)
    | none => (.ended 0 0, r.2))

/-- ROUND_LAUNCH: each tile acts as RCALL would, its store buffer empty, and the receipt waits for the ends of the rounds that it began
(R132, R165, R305, R308, R497). -/
def execRoundLaunch (p : Place) (s : State) : Host.Outcome State Fault Refusal :=
  onTiles p 0x23 s (fun e _ => if payB e 0 1 < 8 ∧ payB e 1 3 = 0 ∧ payZeroFrom e 1 then 0 else 4) (fun e i t stage s =>
    let s := if stage = 0 then drainAll (.tile t) s else s
    let tl := getTile s t
    if stage ≠ 0 then (if tl.round.any (fun r => r.no + 1 == stage) then (.stay stage, s) else (.ended 0 0, s))
    else if tl.round.isSome || filling s t then (.stay 0, s)
    else
      let w := sheetHandle tl (payB e 0 1)
      let n := payB e 4 4
      match callStatus tl w n with
      | some st => (.ended st i, s)
      | none => if n = 0 then (.ended 0 0, s) else (.stay (tl.roundNo + 1), acceptRound t w n s))

/-! ### TILE_VECTOR (R498) -/

def tvN (e : Env) : Nat := wfld (payWord e 0) 26 24
def tvVop (e : Env) : Nat := wfld (payWord e 0) 23 16
def tvId (e : Env) : BitVec 4 := BitVec.ofNat 4 (wfld (payWord e 0) 15 12)
def tvMod (e : Env) : BitVec 12 := BitVec.ofNat 12 (wfld (payWord e 0) 11 0)

/-- One VMAKE per stream, in order: the VDESC words (R196, R197). -/
def tvMakes (c : WCtx) (t : Nat) (e : Env) : Nat → Nat → NM (List Word)
  | _, 0 => return []
  | i, k + 1 => do
    let a := payWord e (1 + 3 * i)
    let sw := payWord e (2 + 3 * i)
    let tw := payWord e (3 + 3 * i)
    match vmakeBad (← get) sw tw with
    | some f => rangeFault c f
    | none => pure ()
    let n := wfld tw 63 58
    let en := vmakeEntry (streamAt (getTile (← get) t) n) a sw tw
    modify (fun s => updTile s t (putStream n en))
    let r ← tvMakes c t e (i + 1) k
    return vdescWord tw en.gen :: r

/-- The word that a TILE_VECTOR performs on tile t. -/
def tvWord (t : Nat) (e : Env) : WCtx := ⟨.tile t, 0x48, 0, longWord 0x48 (wfld (payWord e 0) 23 0)⟩

/-- The generations of VDESC words as one number, from which they are made again at the issue. -/
def packGens (ws : List Word) : Nat := ws.foldr (fun w a => w.toNat % 2 ^ 32 + 2 ^ 32 * a) 0

/-- The VDESC words of a TILE_VECTOR whose VMAKEs left these generations. -/
def tvWords (e : Env) (gens : Nat) : List Word :=
  (List.range (tvN e)).map (fun i => vdescWord (payWord e (3 + 3 * i)) (BitVec.ofNat 32 (gens / 2 ^ (32 * i))))

/-- The VISSUE of a TILE_VECTOR on tile t, with its ID wait: whether it is done (R129, R246). -/
def tvIssue (t : Nat) (e : Env) (ws : List Word) : NM Bool := do
  let c := tvWord t e
  if !vopAssigned (tvVop e) || vIllegal (tvVop e) (tvMod e) then illegalFault c
  if !(← vissueReady (tvId e) c) then return false
  modify (drainAll c.e)
  let roles := issueRoles (tvVop e) (modPred (tvMod e))
  let u ← issueChecks c t (tvVop e) (tvId e) (tvMod e) ((List.range roles.length).map (fun i => (nthD none roles i, nthD 0 ws i)))
  modify (acceptUnit t u)
  return true

/-- The VWAIT of a TILE_VECTOR: whether its instruction has ended; then both fetch lines are discarded (R246, R264). -/
def tvWait (t : Nat) (e : Env) : NM Bool := do
  let c : WCtx := { tvWord t e with word := longWord 0x49 (2 ^ (tvId e).toNat) }
  if !(← vwaitReady (BitVec.ofNat 16 (2 ^ (tvId e).toNat)) c) then return false
  nMod c (fun x => { x with lines := [], known := x.cycles })
  return true

/-- Faults of an ID that wait at a tile's engine. -/
def idFaults (s : State) (t : Nat) (id : BitVec 4) : List Async :=
  (getTile s t).eng.pending.filter (fun a => a == .vector (id.setWidth 64) || a == .reflect (id.setWidth 64))

/-- The stream count agrees with the operation; an unassigned operation is left to the issue. -/
def tvCountOk (e : Env) : Bool :=
  decide (1 ≤ tvN e ∧ tvN e ≤ 5) && wfld (payWord e 0) 63 27 == 0 && decide (8 + 24 * tvN e ≤ hPayload e) &&
  payZeroFrom e (1 + 3 * tvN e) && (!vopAssigned (tvVop e) || (issueRoles (tvVop e) (modPred (tvMod e))).length == tvN e)

/-- TILE_VECTOR: VMAKEs, VISSUE and VWAIT on each named halted tile; a fault or an abort gives S_VEC_FAULT. An abort is reported here
and no longer waits at the engine. Stage 0 has done nothing, 4g + 1 the VMAKEs, which left generations g, and 4f + 2 the VISSUE, before which
f faults of the ID waited. -/
def execTileVector (p : Place) (s : State) : Host.Outcome State Fault Refusal :=
  onTiles p 0x24 s (fun e _ => if tvCountOk e then 0 else 4) (fun e i t stage s =>
    let id := tvId e
    let bad (f : NFault) : TileOut := .ended 0x0221 (i + f.code.toNat * 256)
    if stage = 0 then
      if !tileHalted s t then (.ended 0x0220 0, s)
      else match (tvMakes (tvWord t e) t e 0 (tvN e)).run s with
        | .ok ws s1 => (.stay (4 * packGens ws + 1), s1)
        | .error f s1 => (bad f, s1)
    else if stage % 4 = 1 then
      match (tvIssue t e (tvWords e (stage / 4))).run s with
      | .ok true s1 => (.stay (4 * (idFaults s1 t id).length + 2), s1)
      | .ok false s1 => (.stay stage, s1)
      | .error f s1 => (bad f, s1)
    else match (tvWait t e).run s with
      | .error f s1 => (bad f, s1)
      | .ok false s1 => (.stay stage, s1)
      | .ok true s1 =>
        match (idFaults s1 t id)[stage / 4]? with
        | none => (.ended 0 0, s1)
        | some a =>
          let code := match a with | .reflect _ => 0x0D | _ => 0x0C
          let cause := fld ((getTile s1 t).reg 0x318) 23 20
          (.ended 0x0221 (i + code * 256 + cause * 65536), updEng s1 (.tile t) (fun x => { x with pending := x.pending.erase a })))

/-! ### TILE_START and TILE_STOP -/

/-- A substitution of logical tile t falls due by itself (R646): a pipe retired, a repair refused for want of a spare row, a soft fuse not
applied, or TX_TRIPLE at 2. -/
def substitutionDue (s : State) (t : Nat) : Bool :=
  let p := physOf s t
  let x := getP s p
  (x.reg 0x30C &&& maskOf 31 24) != 0 || fld (x.reg 0x0E0) 16 15 == 2 || decide (2 ≤ fld (x.reg 0x210) 7 0) ||
  s.sys.softRows.any (fun r => r.1 == p && !x.spared.contains r.2)

/-- A substitution of a logical tile is due or runs; it needs the die's spare (R646, R647, R652). -/
def substituting (s : State) (t : Nat) : Bool :=
  s.sys.activities.any (fun a => a.no == 5 && a.scope == some t) || (spareFree s (physOf s t / 17) && substitutionDue s t)

/-- TILE_START: TX_CTRL.START on each tile; a tile about to be substituted is not started before (R191, R652). -/
def execTileStart (p : Place) (s : State) : Host.Outcome State Fault Refusal :=
  onTiles p 0x25 s (fun _ _ => 0) (fun _ _ t _ s =>
    if substituting s t then (.stay 0, s) else (.ended 0 0, tileWrite t 0x200 1 s))

/-- Every unit of a tile is parked and its round too. -/
def tileParked (s : State) (t : Nat) : Bool :=
  let tl := getTile s t
  tl.units.all (·.parked) && (match tl.round with | some r => r.st == 4 | none => true)

/-- One step of stopping a tile for a deferrable cause: raise it, wait until all is parked, set HALT_REQ, wait for the halt
(R244, R245, R409). -/
def stopTile (cause t stage : Nat) (s : State) : Bool × Nat × State :=
  if stage = 0 then (false, 1, updTile s t (fun tl => { tl with stops := addOnce tl.stops cause }))
  else if !tileParked s t then (false, 1, s)
  else if tileHalted s t then (true, 2, s)
  else (false, 2, updTile s t (fun tl => tl.updReg 0x200 (fun v => setBit v 1)))

/-- TILE_STOP: every named tile is halted with its units parked, which START lets go on; nothing that begins later is parked (R244, R245). -/
def execTileStop (p : Place) (s : State) : Host.Outcome State Fault Refusal :=
  onTiles p 0x26 s (fun _ _ => 0) (fun _ _ t stage s =>
    let r := stopTile 1 t stage s
    if r.1 then (.ended 0 0, updTile r.2.2 t (fun tl => { tl with stops := dropAll tl.stops 1 })) else (.stay r.2.1, r.2.2))

/-! ### REMOTE_SEND -/

/-- REMOTE_SEND: the inner envelope leaves as an ENVELOPE letter; its acknowledgement or a dead letter ends it (R482, R484).
Such a message is ORDERED: it takes the first candidate path (R526). -/
def execRemoteSend (p : Place) (s : State) : Host.Outcome State Fault Refusal :=
  onEnv p 0x30 s (fun e s =>
    if e.phase ≠ 0 then s
    else
      let x := s.nextXtag.toNat
      let ws := (e.words.drop 8).take (hPayload e / 8)
      let r := sendRequest none true (argB e 0 2 % 16384) (envTenant e) (.envelope p) 0 0 (fun l => { l with
        op := 7, tenant := BitVec.ofNat 10 (argB e 2 2), body := bodyOfWords ws }) s
      match r.2 with
      | some c => finishEnv e 0x010E c r.1
      | none => putEnv e { e with phase := 1, wait := x } r.1)

end Sys2Proof.Machine
end

