-- ==== Sys2Proof/Machine/Context.lean ====
section
/-! DEFINITION. Saving and restoring a tile's context, tile switches and assignments, and slices (R406 to R412, R446, R559). -/
namespace Sys2Proof.Config

/-- Words of the 64 KiB in which a context area records a context beside its tile store; the spec gives no layout (R411, log 20). -/
opaque recordWord : Machine.SavedCtx → Nat → Word

end Sys2Proof.Config

namespace Sys2Proof.Machine

open Sys2Proof

/-! ### The context of a tile (R410) -/

/-- What of an engine is saved: stacks, spill pointers, X, Y, flags, the place of the next word with its delay slot, handler level, pending
faults and what holds them (log 20). The seal counter keeps its count. -/
def ctxEngine (x : Engine) (ran : Bool) : Engine :=
  { Engine.reset with
    runstate := if ran then 1 else x.runstate, ds := x.ds, dSpilled := x.dSpilled, rs := x.rs, rSpilled := x.rSpilled, x := x.x, y := x.y,
    flags := x.flags, pc := x.pc, npc := x.npc, dslot := x.dslot, annulled := x.annulled, dspill := x.dspill, rspill := x.rspill,
    isSealed := x.isSealed, dfault := x.dfault, hlevel := x.hlevel, sealLevel := x.sealLevel, sealStart := x.sealStart - x.cycles,
    sealPc := x.sealPc, pending := x.pending, mid := x.mid, waiting := x.waiting, svc := x.svc, intParked := x.intParked, intActed := x.intActed }

/-- Registers of the context: the tenant-writable ones and the abort records. -/
def ctxReg (off : Nat) : Bool := (tenantAccess off).2 || off == 0x318 || off == 0x31C || off == 0x410 || off == 0x414
/-- Registers that a substitution moves as well: TV_RESUME_n and TR_RESUME (R648). -/
def resumeReg (off : Nat) : Bool := (decide (0x340 ≤ off) && decide (off ≤ 0x37C)) || off == 0x418

/-- Conflict counters, as registers of the context. -/
def conflictRegs (t : Tile) : Tbl (BitVec 32) :=
  ((List.range 13).map (fun i => (0x040 + 4 * i, nthD 0 t.conflicts i)) ++ [(0x074, t.conflictWrap)]).filter (fun kv => kv.2 != 0)

/-- Envelopes of an index's queue that are held (R480). -/
def heldItems (n i : Nat) (s : State) : List EsendItem :=
  (s.envs.filter (fun e => (placeBag e.place).isNone && e.origin == (n, i) && (e.st == .heldSeq || e.st == .heldTime))).map (fun e =>
    ⟨e.words, e.receiptAt, true⟩)
def dropHeld (n i : Nat) (s : State) : State :=
  { s with envs := s.envs.filter (fun e =>
      !((placeBag e.place).isNone && e.origin == (n, i) && (e.st == .heldSeq || e.st == .heldTime))) }

/-- Banks of a tile that its tenant owns (TS_MASK). -/
def tileMask (t : Tile) : BitVec 16 := (t.reg 0x008).setWidth 16

/-- The context of physical tile p, which index i of tenant n holds, but for its tile store. -/
def ctxOf (p n i : Nat) (s : State) : SavedCtx :=
  let t := getP s p
  { eng := ctxEngine t.eng t.switchRan
    streams := t.streams
    sheets := t.sheets
    units := t.units.map parkUnit
    round := t.round
    sheetOwners := t.sheetOwners
    esendq := heldItems n i s ++ t.esendq
    stops := t.stops.filter (fun c => c == 1 || c == 2)
    regs := t.regs.filter (fun kv => ctxReg kv.1 || resumeReg kv.1) ++ conflictRegs t
    mask := tileMask t }

/-- The substitution area of a die (R648, R716), under the postmaster's key (log 60). -/
def substArea (s : State) (die : Nat) : Desc := ctxDesc die (sysBase s + 28672)

/-- The lines of the tile store that a context holds: those of the tenant's banks, without the system rows. -/
def inCtx (mask : BitVec 16) (l : Nat) : Bool := decide (8 * l < sysWord) && mask.getLsbD (l / 4096)

/-- A courier (K0, log 20) reads line l of the store and writes it to the area in a counter slot of tile t's requester; a line with an
uncorrectable word is not written (R60, R411). -/
def storeLine (n : Option Nat) (a : Desc) (t p l : Nat) (s : State) : State :=
  let x := tsReadUp p 0xA (8 * l) 8 s
  if x.1.any (·.isNone) then x.2
  else
    let ws := x.1.map (·.getD ⟨0, 0⟩)
    segWriteLine n a l t (lineData ws, lineTags ws) x.2

/-- The tile store of a context is written to its area. -/
def storeCtx (n : Option Nat) (a : Desc) (t p : Nat) (mask : BitVec 16) (s : State) : State :=
  forN 65536 (fun l s => if inCtx mask l then storeLine n a t p l s else s) s

/-- The record of a context is written after the store's lines (R411). -/
def storeRecord (n : Option Nat) (a : Desc) (t : Nat) (c : SavedCtx) (s : State) : State :=
  forN 1024 (fun k s =>
    segWriteLine n a (65536 + k) t (lineData ((List.range 8).map (fun j => ⟨Config.recordWord c (8 * k + j), 0⟩)), 0) s) s

/-- The staging image: the record, read back from the area, stands in the first bank outside BANK_MASK (R412). -/
def stageRecord (n : Option Nat) (a : Desc) (t p : Nat) (mask : BitVec 16) (s : State) : State :=
  match (List.range 16).find? (fun b => !mask.getLsbD b) with
  | none => s
  | some b => forN 1024 (fun k s =>
      let x := segReadLine n a (65536 + k) 1 t s
      match x.1 with
      | none => x.2
      | some (d, tg) => tsWriteList p (8 * (4096 * b + k)) ((List.range 8).map (lineWord d tg)) x.2) s

/-- A courier reads line l of the area and writes it to the store; for a line that cannot be read the zero INT words of the fill stay. -/
def loadLine (n : Option Nat) (a : Desc) (t p l : Nat) (s : State) : State :=
  let x := segReadLine n a l 1 t s
  match x.1 with
  | none => x.2
  | some (d, tg) => tsWriteList p (8 * l) ((List.range 8).map (lineWord d tg)) x.2

/-- The tile store of a context comes back from its area. -/
def loadCtx (n : Option Nat) (a : Desc) (t p : Nat) (mask : BitVec 16) (s : State) : State :=
  forN 65536 (fun l s => if inCtx mask l then loadLine n a t p l s else s) s

/-- A context area for index i of tenant n, where it has none: that of a pinned tenant is allocated when a tile of it is first switched out
(log 20). -/
def needArea (t n i : Nat) (s : State) : State :=
  if (tenantArea s n i).isSome then s
  else match findRun (tick s) false (t / perDie s) 520 with
    | some r => updTen (tick s) n (fun x => { x with ctxAreas := tset (fun _ => (8, 0)) x.ctxAreas i (t / perDie s, r) })
    | none => s

/-- What the physical tile keeps when its tenant leaves it: a tile reset, without the tenant's own fields and queue (R410). DESIGN CHOICE
(log 2): row registers, latches and shadows become zero. -/
def clearTile (p : Nat) (s : State) : State :=
  updP (resetTile p s) p (fun t => { t with
    regs := t.regs.filter (fun kv => !ctxReg kv.1), conflicts := List.replicate 13 0, conflictWrap := 0, esendq := [], owner := none,
    rowRegs := [], latches := [], shadows1 := [], shadows2 := [] })

/-- Put one saved register back. -/
def putCtxReg (kv : Nat × BitVec 32) (t : Tile) : Tile :=
  if 0x040 ≤ kv.1 ∧ kv.1 ≤ 0x070 then { t with conflicts := setAt t.conflicts ((kv.1 - 0x040) / 4) kv.2 }
  else if kv.1 = 0x074 then { t with conflictWrap := kv.2 }
  else t.setReg kv.1 kv.2

/-- Restore a context into physical tile p, whose store was just filled, from its area: the banks that it has under both masks (R446).
`moved` brings the resume registers as well (R648). -/
def restoreCtx (n : Option Nat) (a : Option Desc) (tl p : Nat) (c : SavedCtx) (mask : BitVec 16) (moved : Bool) (s : State) : State :=
  updP (match a with | some d => loadCtx n d tl p (c.mask &&& mask) s | none => s) p (fun t =>
    let t1 := forL (c.regs.filter (fun kv => ctxReg kv.1 || moved)) putCtxReg t
    let t2 : Tile := { t1 with
      eng := { c.eng with runstate := if c.eng.runstate = 1 then 2 else c.eng.runstate }, streams := c.streams, sheets := c.sheets,
      units := c.units, round := c.round, sheetOwners := c.sheetOwners, esendq := c.esendq, stops := c.stops,
      tfInForce := t1.reg 0x500 }
    releaseCause 4 (releaseCause 0 t2))

/-! ### The tile chute at a switch (R559) -/

/-- MASK set and PENDING cleared. -/
def quietChute (t : Nat) (s : State) : State := updChute s t (fun x => { x with cfg := setBit x.cfg 31, pending := false, presented := none })
/-- Raised once and unmasked. -/
def wakeChute (t : Nat) (s : State) : State := updChute (raiseChute t s) t (fun x => { x with cfg := clrBit x.cfg 31 })

/-! ### TILE_SWITCH (R409, R410, R559) -/

/-- The tile is to be taken from its tenant: preemption is raised on it, or its tenant has been granted another. -/
def leaving (s : State) (t : Nat) : Bool :=
  match (getTile s t).owner with
  | none => false
  | some (n, i) => (getTile s t).stops.contains 0 || (getTen s n).tiles[i]? != some t

/-- Preemption is raised. -/
def preempt (t : Nat) (s : State) : State := updTile s t (fun tl => { tl with stops := addOnce tl.stops 0 })

/-- Nothing of the tile is under way that the postmaster waits for before HALT_REQ: parking, an ESEND transfer, an atomic, post-box
fetches (R309, R559). -/
def readyToHalt (s : State) (t : Nat) : Bool :=
  let tl := getTile s t
  tileParked s t && !bit (tl.reg 0x004) 0 && (getLock s 0xC0).owner != some (.tilePort t) && !bit (tl.reg 0x600) 31 &&
  (match tl.round with | some r => r.fetches.isEmpty | none => true)

/-- RESIDENT or COMPUTING by the tiles held (R402). -/
def settleTenant (n : Nat) (s : State) : State :=
  updTen s n (fun t => { t with
    st := if t.st == .resident || t.st == .computing then (if (tilesOf s n).isEmpty then .resident else .computing) else t.st })

/-- The postmaster manages tiles while it serves envelopes and no DOZE is requested. -/
def pmManages (s : State) : Bool := pmServes s && s.sys.doze == .run

/-- The context of a tile leaves it for its tenant's context area; that of an index that the contract no longer has is dropped. -/
def saveTile (t n i : Nat) (s : State) : State :=
  let p := physOf s t
  let keep := decide (i < (getTen s n).contract.tiles)
  let s0 := quietChute t s
  let s1 :=
    if keep then
      (let s1 := needArea t n i s0
       match tenantArea s1 n i with
       | some d => storeCtx (some n) d t p (tileMask (getP s p)) s1
       | none => s1)
    else s0
  let c := ctxOf p n i s1
  let s1 := if keep then (match tenantArea s1 n i with | some d => storeRecord (some n) d t c s1 | none => s1) else s1
  let s2 := dropTileReqs t (clearTile p (dropHeld n i s1))
  settleTenant n (if keep then updTen s2 n (fun x => { x with saved := insCtx i c x.saved }) else s2)
where
  /-- The context of index i, in ascending order. -/
  insCtx (i : Nat) (c : SavedCtx) : Tbl SavedCtx → Tbl SavedCtx
    | [] => [(i, c)]
    | (j, d) :: r => if i < j then (i, c) :: (j, d) :: r else if i = j then (i, c) :: r else (j, d) :: insCtx i c r

/-- TILE_SWITCH: a tile to be taken is parked, halted, and then saved and freed. -/
def execTileSwitch (t : Nat) (s : State) : Host.Outcome State Fault Refusal :=
  onTile t s (fun s =>
    if !pmManages s || !leaving s t then s
    else if !(getTile s t).stops.contains 0 then preempt t s
    else if !readyToHalt s t then s
    else match (getTile s t).owner, tileHalted s t with
      | some (n, i), true => journal (saveTile t n i s)
      | _, _ => updTile s t (fun tl => { tl.updReg 0x200 (fun v => setBit v 1) with switchRan := true }))

/-! ### TILE_ASSIGN (R412, R446, R559) -/

/-- The tenant and index that a free tile has been granted to. -/
def granteeOf (s : State) (t : Nat) : Option (Nat × Nat) :=
  s.tenants.findSome? (fun kv =>
    if kv.2.st == .resident || kv.2.st == .computing then (kv.2.tiles.findIdx? (· == t)).map (fun i => (kv.1, i)) else none)

/-- The tile is filled, the context restored or left at zero INT, its staging image written, the chute raised and unmasked; an engine that ran
is started last (R412). DESIGN CHOICE (log 20): one that HALT_REQ stopped inside its double-fault handler is set running too, though START
would be refused under DFAULT (R184). -/
def giveTile (t n i : Nat) (s : State) : State :=
  let p := physOf s t
  let mask := (getTen s n).contract.bankMask
  let s1 := updP (endFill p (clearTile p s)) p (fun x => { x with owner := some (n, i) })
  let s2 := updP s1 p (fun x => x.setReg 0x008 (mask.setWidth 32))
  match (getTen s n).saved.find? (fun kv => kv.1 == i) with
  | none => settleTenant n (wakeChute t s2)
  | some (_, c) =>
    let s3 := wakeChute t (restoreCtx (some n) (tenantArea s n i) t p c mask false s2)
    let s3 := match tenantArea s n i with | some d => stageRecord (some n) d t p mask s3 | none => s3
    let s4 := if c.eng.runstate = 1 then updP s3 p (fun x => { x with eng := { x.eng with runstate := 1 } }) else s3
    settleTenant n (updTen s4 n (fun x => { x with saved := x.saved.filter (fun kv => kv.1 != i) }))

/-- TILE_ASSIGN: a tile that its tenant has been granted and that no tenant holds is given to it. -/
def execTileAssign (t : Nat) (s : State) : Host.Outcome State Fault Refusal :=
  onTile t s (fun s =>
    if !pmManages s || (getTile s t).owner.isSome || (getTile s t).poweredDown then s
    else match granteeOf s t with
      | some (n, i) => journal (giveTile t n i s)
      | none => s)

/-! ### SLICE_BOUNDARY (R406 to R408, R445) -/

/-- Stripes that go back to the pool are rewritten (R336). -/
def freeStripes (n : Nat) (r : Run) (s : State) : State :=
  (startJob ⟨.unwritten, n, 0, 0, r.global, r.die, r.r0, r.n, []⟩ s).2

/-- The context areas of a tenant go back to the pool. -/
def freeAreas (n : Nat) (s : State) : State :=
  forL (getTen s n).ctxAreas (fun kv s => freeStripes n ⟨false, kv.2.1, kv.2.2, 520⟩ s) (updTen s n (fun t => { t with ctxAreas := [] }))

/-- The context areas of the indices that a contract no longer has go back to the pool. -/
def dropAreas (n tiles : Nat) (s : State) : State :=
  let old := (getTen s n).ctxAreas.filter (fun kv => decide (tiles ≤ kv.1))
  forL old (fun kv s => freeStripes n ⟨false, kv.2.1, kv.2.2, 520⟩ s)
    (updTen s n (fun t => { t with ctxAreas := t.ctxAreas.filter (fun kv => decide (kv.1 < tiles)) }))

/-- The tile terms of a contract accepted since the last boundary take effect: the tenant's tiles are switched out and in (R445). -/
def applyTerms (n : Nat) (s : State) : State :=
  match (getTen s n).nextContract with
  | none => s
  | some c =>
    let o := (getTen s n).contract
    let moved := o.tiles != c.tiles || o.pinned != c.pinned
    let s1 := updTen s n (fun t => { t with
      nextContract := none,
      contract := { t.contract with pinned := c.pinned, tiles := c.tiles, tileWeight := c.tileWeight, bankMask := c.bankMask } })
    let s2 := if moved || o.bankMask != c.bankMask then forL (tilesOf s1 n) preempt s1 else s1
    if moved then
      dropAreas n c.tiles (updTen s2 n (fun t => { t with dies := [], tiles := [], saved := t.saved.filter (fun kv => decide (kv.1 < c.tiles)) }))
    else s2

/-- Tenants that may hold tiles. -/
def liveTenants (s : State) : List Nat :=
  (s.tenants.filter (fun kv => kv.2.st == .resident || kv.2.st == .computing)).map (·.1)

/-- The tiles that pinned tenants hold. -/
def pinnedTiles (s : State) : List Nat :=
  (liveTenants s).flatMap (fun n => if (getTen s n).contract.pinned then (getTen s n).tiles else [])

/-- A tile of a tenant that is being reset. -/
def inReset (s : State) (t : Nat) : Bool :=
  match (getTile s t).owner with
  | some (n, _) => (getTen s n).st == .resetting
  | none => false

/-- Enabled tiles not held by pinned tenants. -/
def sliceTiles (s : State) : List Nat := (List.range (nTiles s)).filter (fun t => !(pinnedTiles s).contains t && !inReset s t)

/-- A pinned tenant that lacks tiles receives them: tiles that nobody holds before tiles of shared tenants. -/
def pinOne (n : Nat) (s : State) : State :=
  let pool := sliceTiles s
  let nobody := fun t => pool.contains t && (getTile s t).owner.isNone && !(liveTenants s).any (fun m => (getTen s m).tiles.contains t)
  let pick := match chosen s (nTiles s) nobody with
    | some t => some t
    | none => chosen s (nTiles s) (fun t => pool.contains t)
  match pick with
  | some t =>
    forL (liveTenants s) (fun m s => if (getTen s m).contract.pinned then s else
        updTen s m (fun x => if x.tiles.contains t then { x with tiles := [] } else x))
      (updTen (tick s) n (fun x => { x with tiles := x.tiles ++ [t] }))
  | none => s

def pinTiles (n : Nat) (s : State) : State :=
  let t := getTen s n
  if t.contract.pinned then forN (t.contract.tiles - t.tiles.length) (fun _ s => pinOne n s) s else s

/-- A context has something to run: its engine is not halted, or a unit is outstanding or parked. -/
def ctxBusy (x : Engine) (us : List VUnit) (r : Option Round) (ran : Bool) : Bool := x.runstate == 1 || ran || !us.isEmpty || r.isSome

/-- A shared tenant has work (R408): an envelope in a mailbag, or a context, saved or on a tile, that has something to run. -/
def hasWork (s : State) (n : Nat) : Bool :=
  (List.range 64).any (fun m => let b := getBag s (.vf n) m; bagEnabled b && b.tail != b.head) ||
  s.envs.any (fun e => match e.place with | .tenantBag k _ => k == n | _ => false) ||
  (getTen s n).saved.any (fun kv => ctxBusy kv.2.eng kv.2.units kv.2.round false) ||
  (tilesOf s n).any (fun t => let x := getTile s t; ctxBusy x.eng x.units x.round x.switchRan)

/-- Insert in order of credit descending, ties by number ascending. -/
def insCredit (x : Int × Nat) : List (Int × Nat) → List (Int × Nat)
  | [] => [x]
  | y :: r => if y.1 < x.1 ∨ (y.1 = x.1 ∧ x.2 < y.2) then x :: y :: r else y :: insCredit x r

def dieOf (s : State) (t : Nat) : Nat := t / perDie s
/-- How many of a list of dies or tiles lie on die d. -/
def countDie (l : List Nat) (d : Nat) : Nat := (l.filter (· == d)).length

/-- The lines of a context go from one area to another, as postmaster payload; a line that cannot be read is left out. -/
def moveArea (n : Nat) (a b : Desc) (s : State) : State :=
  forN 66560 (fun l s =>
    let x := segReadLine (some n) a l 2 pmRequester s
    match x.1 with
    | some v => segWriteLine (some n) b l pmRequester v x.2
    | none => x.2) s

/-- The context area of index i is the run at r of die d; the area that it had before, on another die, hands its lines over and goes back to
the pool (R407, R411, R445). -/
def setArea (n i d r : Nat) (s : State) : State :=
  let s1 := updTen s n (fun t => { t with ctxAreas := tset (fun _ => (8, 0)) t.ctxAreas i (d, r) })
  match (getTen s n).ctxAreas.find? (fun kv => kv.1 == i) with
  | none => s1
  | some (_, o) =>
    let s2 := if (getTen s n).saved.any (fun kv => kv.1 == i) then moveArea n (ctxDesc o.1 o.2) (ctxDesc d r) s1 else s1
    freeStripes n ⟨false, o.1, o.2, 520⟩ s2

/-- Index i has its context area on die d already. -/
def hasArea (s : State) (n i d : Nat) : Bool := (getTen s n).ctxAreas.any (fun kv => kv.1 == i && kv.2.1 == d)

/-- Choose a die with a free tile, and a context area on it, for every index from i on (R407, R411). -/
def chooseDies (n : Nat) (free : List Nat) : Nat → Nat → State → Option State
  | _, 0, s => some s
  | i, k + 1, s =>
    match chosen s 8 (fun d => decide (countDie (getTen s n).dies d < countDie free d) &&
        (hasArea s n i d || (findRun (tick s) false d 520).isSome)) with
    | none => none
    | some d =>
      let on := updTen (tick s) n (fun t => { t with dies := t.dies ++ [d] })
      if hasArea s n i d then chooseDies n free (i + 1) k on
      else match findRun on false d 520 with
        | none => none
        | some r => chooseDies n free (i + 1) k (setArea n i d r (tick on))

/-- One tenant's turn of the grant procedure: the dies of the free pool tiles, the tenants granted. -/
def grantOne (w : Int) (n : Nat) (x : State × List Nat × List Nat) : State × List Nat × List Nat :=
  let s := x.1
  let t := getTen s n
  let s1 := if t.dies.length = t.contract.tiles then some s else chooseDies n x.2.1 0 t.contract.tiles s
  match s1 with
  | none => x
  | some s1 =>
    let dies := (getTen s1 n).dies
    if (List.range 8).all (fun d => decide (countDie dies d ≤ countDie x.2.1 d)) then
      (updTen s1 n (fun t => { t with credit := t.credit - w }), dies.foldl (fun l d => l.erase d) x.2.1, x.2.2 ++ [n])
    else x

/-- Tiles for a tenant granted anew: for each index a free tile of its die. -/
def placeTiles (n : Nat) : List Nat → State × List Nat → State × List Nat
  | [], x => x
  | d :: r, (s, free) =>
    match chosen s (nTiles s) (fun t => free.contains t && dieOf s t == d) with
    | some t => placeTiles n r (updTen (tick s) n (fun x => { x with tiles := x.tiles ++ [t] }), free.erase t)
    | none => placeTiles n r (s, free)

/-- Shared tenants with a contract for tiles. -/
def sharedTenants (s : State) : List Nat :=
  (liveTenants s).filter (fun n => !(getTen s n).contract.pinned && decide (0 < (getTen s n).contract.tiles))

/-- The grants of a slice (R408): credits, then tiles for those granted. A tenant granted in the slice before keeps its tiles. -/
def grantSlice (s : State) : State :=
  let sh := sharedTenants s
  let busy := sh.filter (hasWork s)
  let w : Int := (busy.map (fun n => ((getTen s n).contract.tileWeight : Int))).foldl (· + ·) 0
  let s1 := forL sh (fun n s => updTen s n (fun t => { t with
    credit := if busy.contains n then t.credit + (t.contract.tileWeight : Int) else 0 })) s
  let order := (busy.map (fun n => ((getTen s1 n).credit, n))).foldl (fun l x => insCredit x l) []
  let pool := sliceTiles s1
  let g := order.foldl (fun x y => grantOne w y.2 x) (s1, pool.map (dieOf s1), [])
  let s2 := forL sh (fun n s => if g.2.2.contains n then s else updTen s n (fun t => { t with tiles := [] })) g.1
  let kept := g.2.2.flatMap (fun n => (getTen s2 n).tiles)
  (g.2.2.foldl (fun x n =>
    if (getTen x.1 n).tiles.isEmpty then placeTiles n (getTen x.1 n).dies x else x) (s2, pool.filter (fun t => !kept.contains t))).1

/-- SLICE_BOUNDARY: contract terms for tiles take effect, pinned tenants receive their tiles, pool tiles are granted, and preemption is
raised on every tile that its tenant loses (R406 to R409, R445). -/
def execSliceBoundary (s : State) : Host.Outcome State Fault Refusal :=
  .next (
    if !pmManages s then s
    else
      let s1 := forL (liveTenants s) applyTerms s
      let s2 := grantSlice (forL (liveTenants s1) pinTiles s1)
      journal (forL ((List.range (nTiles s2)).filter (fun t => leaving s2 t && !inReset s2 t)) preempt s2))

end Sys2Proof.Machine
end

