-- ==== Sys2Proof/Machine/Activity.lean ====
section
/-! DEFINITION. Maintenance activities and the conflict matrix (R663 to R668). -/
namespace Sys2Proof.Machine

open Sys2Proof

/-- A row of the conflict matrix by the number of the requested activity: against activities 1 to 12, 0 both run, 1 the requested
one waits, 2 it is refused (R663). -/
def conflictRow : Nat → List Nat
  | 1 => [0, 0, 0, 0, 0, 0, 0, 0, 0, 0, 1, 1]
  | 2 => [0, 0, 0, 0, 0, 0, 0, 0, 0, 0, 1, 1]
  | 3 => [0, 0, 1, 0, 2, 0, 0, 0, 0, 0, 1, 1]
  | 4 => [0, 1, 0, 1, 0, 0, 0, 0, 0, 0, 1, 1]
  | 5 => [0, 0, 1, 0, 1, 0, 0, 0, 0, 0, 1, 1]
  | 7 => [0, 0, 0, 0, 0, 0, 1, 0, 0, 0, 1, 1]
  | 8 => [0, 0, 0, 0, 0, 0, 0, 1, 0, 0, 1, 1]
  | 9 => [0, 0, 0, 0, 0, 0, 0, 0, 1, 0, 1, 1]
  | 10 => [0, 0, 0, 0, 0, 0, 0, 0, 0, 2, 1, 1]
  | 11 => [0, 0, 1, 1, 1, 0, 1, 1, 1, 1, 2, 1]
  | 12 => [0, 0, 1, 1, 1, 0, 1, 2, 2, 2, 2, 2]
  | _ => []

/-- The entry of a requested activity against one running or waiting, when their scopes overlap: substitutions on one die share its
spare. -/
def conflict (s : State) (a b : Activity) : Nat :=
  let overlap := match a.scope, b.scope with
    | some x, some y => if a.no = 5 ∧ b.no = 5 then dieOf s x == dieOf s y else x == y
    | _, _ => true
  if overlap then nthD 0 (conflictRow a.no) (b.no - 1) else 0

/-- Activities that run because hardware carries them out: row repairs, unit repairs, lane retraining. -/
def hardwareActs (s : State) : List Activity :=
  ((List.range (nTiles s)).filter (fun t => bit ((getTile s t).reg 0x0E0) 31)).map (fun t => ⟨3, some t, none, true⟩) ++
  ((List.range 16).filter (fun k => bit (hcReg s k 0x010) 31)).map (fun k => ⟨4, some k, none, true⟩) ++
  ((List.range 32).filter (fun p => bit (getPort s p).ctrl 31)).map (fun p => ⟨7, some p, none, true⟩)

/-- An activity may begin: no entry "waits" applies to it against those that run, or that were requested before it (R663, R665). -/
def mayBegin (s : State) (a : Activity) : Bool :=
  let others := s.sys.activities.filter (fun b => b != a && b.running) ++ s.sys.activities.takeWhile (fun b => b != a) ++ hardwareActs s
  others.all (fun b => conflict s a b != 1)

/-- How a request for an activity fares. -/
inductive Ask where
  | refused (no : Nat)
  | waits
  | runs
  deriving DecidableEq, Repr

/-- Request an activity, or ask again for one that waits (R663 to R666). -/
def askActivity (p : Option Place) (no : Nat) (scope : Option Nat) (s : State) : Ask × State :=
  let a : Activity := ⟨no, scope, p, false⟩
  let put := fun (l : List Activity) => { s with sys := { s.sys with activities := l } }
  if s.sys.activities.contains { a with running := true } then (.runs, s)
  else if s.sys.activities.contains a then
    (if mayBegin s a then (.runs, put (s.sys.activities.map (fun b => if b == a then { a with running := true } else b))) else (.waits, s))
  else
    match (s.sys.activities ++ hardwareActs s).find? (fun b => conflict s a b == 2) with
    | some b => (.refused b.no, s)
    | none =>
      let s1 := put (s.sys.activities ++ [a])
      if mayBegin s1 a then (.runs, put (s.sys.activities ++ [{ a with running := true }])) else (.waits, s1)

/-- An envelope's activity: it is refused, waits, or runs its step. -/
def inActivity (e : Env) (no : Nat) (scope : Option Nat) (s : State) (k : Env → State → State) : State :=
  match askActivity (some e.place) no scope s with
  | (.refused b, s1) => if no = 10 ∧ b = 10 then finishEnv e 3 0 s1 else finishEnv e 0x0504 b s1
  | (.waits, s1) => s1
  | (.runs, s1) => k e s1

/-- Activity no is over. -/
def dropActivity (no : Nat) (scope : Option Nat) (s : State) : State :=
  { s with sys := { s.sys with activities := s.sys.activities.filter (fun a => !(a.no == no && a.scope == scope && a.place.isNone)) } }

end Sys2Proof.Machine
end

