-- ==== Sys2Proof/Machine/Tenants.lean ====
section
/-! DEFINITION. Contracts, the post-cycle plan, tenant resets, virtual functions, key rotation and the device-ring window
(R270 to R276, R402 to R405, R421, R429, R430, R442 to R451, R609, R610, R630, R717). -/
namespace Sys2Proof.Machine

open Sys2Proof

/-! ### TENANT_CONTRACT (R442 to R445) -/

/-- The contract that the payload carries. -/
def contractIn (e : Env) : Contract where
  pinned := (payWord e 0).getLsbD 8
  tiles := payB e 2 1
  tileWeight := payB e 3 1
  fabricWeight := payB e 4 1
  serviceWeight := payB e 5 1
  intMinCount := payB e 6 1
  intMinTime := payB e 8 2
  bankMask := BitVec.ofNat 16 (payB e 10 2)
  quota := payB e 12 4
  slots := (List.range 8).map (fun i => payB e (16 + 2 * i) 2)
  image := (List.range 8).map (payWord e)

/-- VERSION, reserved bytes and every field within its values. -/
def contractOk (s : State) (e : Env) : Bool :=
  let c := contractIn e
  payB e 0 1 == 1 && decide (payB e 1 1 < 2) && decide (c.tiles ≤ nTiles s) &&
  (if !c.pinned && decide (0 < c.tiles) then decide (1 ≤ c.tileWeight) else c.tileWeight == 0) &&
  decide (1 ≤ c.serviceWeight) && decide (1 ≤ c.intMinCount) && payB e 7 1 == 0 &&
  (c.tiles == 0 || c.bankMask != 0) && c.slots.all (fun x => decide (x ≤ 912)) && (List.range 4).all (fun i => payWord e (4 + i) == 0)

/-- Tenants that have a contract. -/
def contracted (s : State) : List Nat := (s.tenants.filter (fun kv => kv.2.st != .disabled)).map (·.1)

/-- Positions of die d scheduled to tenant n (R273). -/
def planShare (pl : Plan) (d n : Nat) : Nat := (pl.sched.filter (fun kv => kv.1 / 1024 == d && kv.2 == some n)).length

/-- On each die the SLOTS of all tenants, with the new contract in place, sum to at most 912. -/
def diesHold (s : State) (n : Nat) (c : Contract) : Bool :=
  (List.range 8).all (fun d => decide ((((contracted s).filter (· != n)).map (fun m =>
    nthD 0 (getTen s m).contract.slots d)).foldl (· + ·) (nthD 0 c.slots d) ≤ 912))

/-- The tiles of the pool: the enabled ones that no pinned tenant holds (R406). -/
def poolSize (s : State) : Nat :=
  ((List.range (nTiles s)).filter (fun t =>
    !(contracted s).any (fun m => (getTen s m).contract.pinned && (getTen s m).tiles.contains t))).length

/-- Enabled tiles that nobody holds. -/
def freeTiles (s : State) : Nat :=
  ((List.range (nTiles s)).filter (fun t =>
    (getTile s t).owner.isNone && !(contracted s).any (fun m => (getTen s m).tiles.contains t))).length

/-- There are tiles enough (R443). -/
def tilesHold (s : State) (n : Nat) (c : Contract) : Bool :=
  if c.pinned then decide (c.tiles ≤ freeTiles s + (getTen s n).tiles.length) else decide (c.tiles ≤ poolSize s)

/-- The quota covers the stripes allocated, and for a shared tenant its context areas. -/
def quotaHolds (s : State) (n : Nat) (c : Contract) : Bool :=
  decide (quotaUsed s n - 520 * (getTen s n).ctxAreas.length + (if c.pinned then 0 else 520 * c.tiles) ≤ c.quota)

/-- The first failing check (R443). -/
def contractStatus (s : State) (e : Env) : Nat :=
  let n := envTenant e
  let c := contractIn e
  if !contractOk s e then 0x0408
  else if (getTen s n).st == .disabled then 0x040E
  else if (getTen s n).st == .resetting then 0x0409
  else if !diesHold s n c then 0x040A
  else if !(List.range 8).all (fun d => decide (nthD 0 c.slots d ≤ planShare s.plan d n)) then 0x040B
  else if !tilesHold s n c then 0x040C
  else if !quotaHolds s n c then 0x040D else 0

/-- TENANT_CONTRACT: the terms but those for tiles hold at once, those at the next slice boundary (R445). None is accepted between a
plan's check and its boundary (R717). -/
def execTenantContract (p : Place) (s : State) : Host.Outcome State Fault Refusal :=
  onEnv p 0x40 s (fun e s =>
    if s.nextPlan.isSome then s
    else
      let st := contractStatus s e
      if st ≠ 0 then finishEnv e st 0 s
      else
        let c := contractIn e
        finishEnv e 0 0 (updTen s (envTenant e) (fun t => { t with
          nextContract := some c,
          contract := { c with
            pinned := t.contract.pinned, tiles := t.contract.tiles, tileWeight := t.contract.tileWeight,
            bankMask := t.contract.bankMask } })))

/-! ### PLAN_LOAD (R273, R274, R717) -/

/-- Entry a of die map d in a plan image. -/
def planEntry (ws : List Word) (d a : Nat) : Nat :=
  let b := 64 + 1856 * d + 2 * a
  (wordAt ws (b / 8)).toNat / 2 ^ (8 * (b % 8)) % 65536

/-- The scheduled entries of an image, in ascending order. -/
def planSched (ws : List Word) : Tbl (Option Nat) :=
  (List.range 8).flatMap (fun d => (List.range 928).filterMap (fun a =>
    let v := planEntry ws d a
    if 32768 ≤ v then some (1024 * d + a, some (v % 1024)) else none))

def planIn (ws : List Word) : Plan := ⟨BitVec.ofNat 32 (wfld (wordAt ws 0) 31 0), planSched ws, ws⟩

/-- VERSION and reserved fields of a plan image. -/
def planFormatOk (ws : List Word) : Bool :=
  wfld (wordAt ws 0) 63 56 == 1 && wfld (wordAt ws 0) 55 32 == 0 && (List.range 7).all (fun i => wordAt ws (1 + i) == 0) &&
  (List.range 8).all (fun d => (List.range 928).all (fun a =>
    let v := planEntry ws d a
    v / 1024 % 32 == 0 && (decide (32768 ≤ v) || v % 1024 == 0)))

/-- Die and position of every slot that a loaded sheet names, by its tenant's descriptors. -/
def sheetSlots (s : State) (n : Nat) (x : Sheet) : List (Nat × Nat) :=
  if !x.loaded then []
  else
    let v := parseSheet x.entries
    v.slots.flatMap (fun y =>
      let d := rDesc s n (streamOf v y.hst)
      let dies := if d.global then List.range 8 else [d.homedie.toNat]
      (slotPositions v y).flatMap (fun q => dies.map (fun k => (k, q))))

/-- Sheets loaded on a tenant's tiles, or in its saved contexts. -/
def sheetsOf (s : State) (n : Nat) : List Sheet :=
  (s.tiles.filter (fun kv => kv.2.owner.map (·.1) == some n)).flatMap (fun kv => kv.2.sheets.map (·.2)) ++
  (getTen s n).saved.flatMap (fun kv => kv.2.sheets.map (·.2))

/-- Some position that the plan takes from a tenant is named by one of its sheets. -/
def slotInUse (s : State) (pl : Plan) : Bool :=
  (contracted s).any (fun n => (sheetsOf s n).any (fun x => (sheetSlots s n x).any (fun y =>
    planTenant s.plan y.1 y.2 == some n && planTenant pl y.1 y.2 != some n)))

/-- The first failing check of a plan (R274). -/
def planStatus (s : State) (ws : List Word) : Nat :=
  let pl := planIn ws
  if !planFormatOk ws then 0x0401
  else if !(List.range 8).all (fun d => decide ((pl.sched.filter (fun kv => kv.1 / 1024 == d)).length ≤ 912)) then 0x0402
  else if pl.sched.any (fun kv => match kv.2 with | some n => (getTen s n).st == .disabled | none => false) then 0x0403
  else if !(contracted s).all (fun n => (List.range 8).all (fun d =>
      decide (nthD 0 (getTen s n).contract.slots d ≤ planShare pl d n))) then 0x0404
  else if slotInUse s pl then 0x0405 else 0

/-- PLAN_LOAD: the image is checked, and waits for the next post-cycle boundary, or is refused. -/
def execPlanLoad (p : Place) (s : State) : Host.Outcome State Fault Refusal :=
  onEnv p 0x42 s (fun e s =>
    if e.phase = 1 then s
    else
      let h := argB e 0 4
      let st := bufStatus s e h
      if st ≠ 0 then failBuf e st s
      else inActivity e 9 none s (fun e s =>
        if s.nextPlan.isSome then s
        else
          readBuf e (bufIndex h) 1864 s (fun ws s =>
            let c := planStatus s ws
            if c ≠ 0 then finishEnv e c 0 s
            else putEnv e { e with phase := 1 } { s with nextPlan := some (planIn ws, some p) })))

/-! ### Tenant reset (R448 to R451, R560) -/

/-- Chutes that tenant n owns. -/
def ownedChutes (s : State) (n : Nat) : List Nat :=
  (List.range 256).filter (fun c => let o := (getChute s c).owner; fld o 31 30 == 2 && fld o 9 0 == n)

/-- Step 1: chutes and vectors are masked, and pending counts are discarded. -/
def muteTenant (n : Nat) (s : State) : State :=
  let s1 := forL (ownedChutes s n) (fun c s => updChute s c (fun x => { x with cfg := setBit x.cfg 31, presented := none, masking := false })) s
  forN 16 (fun v s => updVec s (.vf n) v (fun x => { x with mask := true, masking := false, events := 0, pendingBit := false, prio := 0 })) s1

/-- An envelope that the tenant sent. -/
def sentBy (n : Nat) (e : Env) : Bool := envFn e == .vf n

/-- Envelopes of the tenant are abandoned, with their activities and mailbag states; none receives a receipt (R448, R476). -/
def dropTenantEnvs (n : Nat) (s : State) : State :=
  let gone := (s.envs.filter (sentBy n)).map (·.place)
  let s1 := { s with
    envs := s.envs.filter (fun e => !sentBy n e), esendReceipts := s.esendReceipts.filter (fun r => r.1 != n),
    sys := { s.sys with activities := s.sys.activities.filter (fun a => match a.place with | some q => !gone.contains q | none => true) } }
  forN 64 (fun m s => setBusy (.vf n) m false s) s1

/-- A running rotation of the tenant is abandoned; an envelope of the PF that asked for it ends (R451). -/
def dropRotation (n : Nat) (s : State) : State :=
  match s.rotation with
  | none => s
  | some ro =>
    if ro.tenant ≠ n then s
    else
      let s1 := forL ro.jobs drainJob { s with rotation := none }
      match running s1 ro.place with
      | some e => if sentBy n e then s1 else finishEnv e 0x0409 0 s1
      | none => s1

/-- Requests that the tenant's segments were asked for from outside are answered with dead letters (step 4). -/
def refuseServed (n : Nat) (s : State) : State :=
  let mine := s.served.filter (fun x => x.letter.tenant.toNat == n)
  forL (mine.filter (fun x => !atomicHeld s x.k)) (fun x s =>
    let s1 := dropServed x.k s
    match x.localTile with
    | some _ => s1
    | none => deadLetter x.port x.letter 4 s1) s

/-- The tenant's tiles stop and take a tile reset; its contexts and envelopes go (steps 2 and 3). -/
def stopTenant (n : Nat) (s : State) : State :=
  let s1 := { s with reqs := s.reqs.map (fun q =>
    if q.tenant = n then (match q.kind with | .bookLoad p => { q with kind := .bookLoad p } | _ => { q with kind := .gone }) else q) }
  let s2 := forL (tilesOf s1 n) (fun t s => updTile (resetLogical t (drainRound t s)) t (fun x => { x with esendq := [] })) s1
  let s3 := updTen s2 n (fun t => { t with saved := [], credit := 0 })
  let s4 := forL (s3.jobs.filter (fun j => j.2.kind == .fill && j.2.tenant == n)) abandonJob s3
  dropRotation n (refuseServed n (dropTenantEnvs n s4))

/-- The tenant reset begins: T0 and steps 1 to 3 (R448). A second cause is merged (R451). -/
def beginReset (n : Nat) (s : State) : State :=
  match (getTen s n).st with
  | .disabled => s
  | .resetting => s
  | _ => stopTenant n (muteTenant n (updTen s n (fun t => { t with st := .resetting, resetStep := some 5, abandoned := 0 })))

/-- The tenant's counter-slot requests already granted have completed. -/
def slotsQuiet (s : State) (n : Nat) : Bool :=
  s.chans.all (fun kv => match kv.2.held with
    | none => true
    | some h => match h.atomic with
      | some k => !s.served.any (fun x => x.k == k && x.letter.tenant.toNat == n)
      | none => match h.job.bind (jobOf s) with
        | some b => b.tenant != n || b.kind != .rotate
        | none => true)

/-- Steps 5 and 6: letters still in flight are abandoned and counted; every tile the tenant held is filled and freed. -/
def releaseTenant (n : Nat) (s : State) : State :=
  let mine := fun (q : RemoteReq) => q.tenant == n && q.kind == .gone
  let s1 := updTen { s with reqs := s.reqs.filter (fun q => !mine q) } n (fun t => { t with abandoned := (s.reqs.filter mine).length })
  let s2 := forL (tilesOf s1 n) (fun t s => clearTile (physOf s t) (endFill (physOf s t) (quietChute t s))) s1
  updTen s2 n (fun t => { t with tiles := [] })

/-- Step 7: keys are zeroised and the segments return to the pool (R336). -/
def eraseTenant (n : Nat) (s0 : State) : State :=
  let s := { s0 with jobs := s0.jobs.filter (fun j => !(j.2.kind == .rotate && j.2.tenant == n)) }
  let s1 := zeroKey (zeroKey s (0x800 + n)) (0x400 + n)
  let s2 := forN 4 (fun i s => setCtx (4 * n + i) .unbound s) s1
  let s3 := forL ((getTen s2 n).segs.filter (fun kv => inPool kv.2)) (fun kv s => freeStripes n (descRun kv.2) s) s2
  forL ((getTen s3 n).segs.filter (·.2.valid)) (fun kv s => putSeg n kv.1 { kv.2 with valid := false, gen := kv.2.gen + 1 } s) s3

/-- The DRBG may give a root key (R426, R644). -/
def drbgOk (s : State) : Bool := bit (ksReg s 0) 2

/-- A root key is drawn and the four cipher contexts are bound to its pairs of generation 0 (R426 to R428). -/
def newRoot (n : Nat) (s : State) : State :=
  let k := s.free
  let s1 := writeKey (tick s) (0x800 + n) (.draw k)
  forN 4 (fun i s => setCtx (4 * n + i) (.hbm k i 0) s) (updTen s1 n (fun t => { t with keyGens := [] }))

/-- A mailbag emptied, its indices zero, and what belongs to the session cleared. -/
def emptyBag (b : Mailbag) : Mailbag :=
  { b with
    head := 0, tail := 0, trayHead := 0, trayTail := 0, posted := [], doneSeq := 0, expSeq := Mailbag.reset.expSeq,
    rcptCtr := Mailbag.reset.rcptCtr }

/-- Every buffer of an owner is freed (R490). -/
def freeBuffers (o : Nat) (s : State) : State := forL (s.buffers.filter (fun kv => kv.2.owner == some o)) (fun kv s => freeBuf kv.1 s) s

/-- Step 8 for a tenant that stays: it enters RESIDENT under its contract (R448, R560). -/
def readmit (n : Nat) (s : State) : State :=
  let s1 := forN 64 (fun m s => updBag s (.vf n) m emptyBag) s
  let s2 := forL (ownedChutes s1 n) (fun c s => setOwner c (getChute s c).owner s) s1
  newRoot n (updTen s2 n (fun t => { t with
    st := .resident, spdm := Spdm.empty, boundKey := none, unsol := [], lost := 0, resetStep := none,
    tdi := if t.unlockTdi then .configUnlocked else t.tdi, stream := if t.unlockTdi then none else t.stream, unlockTdi := false }))

/-- Step 8 for a tenant whose VF is gone: it owns nothing, and its chutes pass to the PF (R402, R405, R560). -/
def dismiss (n : Nat) (s : State) : State :=
  let s1 := forN 64 (fun m s => setBag s (.vf n) m Mailbag.reset) (freeAreas n s)
  let s2 := forN 16 (fun v s => setVec s (.vf n) v Vec.reset) { s1 with
    fmask := tset (fun _ => false) s1.fmask (n + 1) false, cfgRegs := tset (fun _ => 0) s1.cfgRegs (1024 * (n + 1) + 0x2C) 0 }
  setTen (forL (ownedChutes s2 n) (fun c s => setOwner c 0x40000000 s) s2) n Tenant.reset

/-- Envelopes TENANT_RESET that wait for tenant n are answered with the count of abandoned letters. -/
def answerReset (n count : Nat) (s : State) : State :=
  forL (s.envs.filter (fun e => e.st == .executing && hOpcode e == 0x41 && e.phase == 1 && envTenant e == n))
    (fun e s => finishEnv e 0 count s) s

/-- TENANT_KEY_ERASE: steps 5 to 8 of the tenant reset, once the tenant's granted requests have completed (R448). -/
def execTenantKeyErase (n : Nat) (s : State) : Host.Outcome State Fault Refusal :=
  onUnit (decide (n < 1024)) s (fun s =>
    let t := getTen s n
    if t.st != .resetting || !slotsQuiet s n || (!drbgOk s && !t.disabling) then s
    else
      let s1 := freeBuffers n (eraseTenant n (releaseTenant n s))
      journal (answerReset n (getTen s1 n).abandoned (if t.disabling then dismiss n s1 else readmit n s1)))

/-- TENANT_RESET: the PF asks for the sequence; the receipt follows its completion (R448, R444). -/
def execTenantReset (p : Place) (s : State) : Host.Outcome State Fault Refusal :=
  onEnv p 0x41 s (fun e s =>
    if e.phase = 1 then s
    else if (getTen s (envTenant e)).st == .disabled then finishEnv e 0x040E 0 s
    else beginReset (envTenant e) (putEnv e { e with phase := 1 } s))

/-! ### Virtual functions (R402 to R405, R630) -/

/-- A configuration request: retried until READY and in DOZE, when it is a wake as well; otherwise it acts (R622, R629, R635). -/
def configRequest (s : State) (k : State → State) : State :=
  if s.sys.phase == .booting then emit .configRetry s
  else if s.sys.phase != .ready then s
  else if inDoze s then emit .configRetry (noteWake 4 s)
  else k (noteWake 4 s)

/-- VF_ENABLE: the tenant of a VF that was not enabled enters RESIDENT with the default contract (R404, R644). -/
def execVfEnable (n : Nat) (s : State) : Host.Outcome State Fault Refusal :=
  onUnit (decide (n < 1024)) s (fun s => configRequest s (fun s =>
    if (getTen s n).st != .disabled || !drbgOk s then s
    else newRoot n (setTen { s with vfEnable := true, numVfs := max s.numVfs (n + 1) } n { Tenant.reset with st := .resident })))

/-- The VF of a tenant is lost: its reset ends in DISABLED (R405). -/
def loseVf (n : Nat) (s : State) : State :=
  if (getTen s n).st == .disabled then s else updTen (beginReset n s) n (fun t => { t with disabling := true })

/-- A TDI in CONFIG_LOCKED or RUN enters ERROR, which starts the tenant reset (R422). -/
def tdiError (n : Nat) (s : State) : State :=
  if (getTen s n).tdi == .configLocked || (getTen s n).tdi == .run then
    beginReset n (updTen s n (fun t => { t with tdi := .error }))
  else s

/-- VF_DISABLE: VF Enable is cleared, or NumVFs falls below the VF's number: every tenant from n on loses its VF (R405),
and a TDI that was locked enters ERROR (R422). -/
def execVfDisable (n : Nat) (s : State) : Host.Outcome State Fault Refusal :=
  onUnit (decide (n < 1024)) s (fun s => configRequest s (fun s =>
    forL ((contracted s).filter (fun m => decide (n ≤ m))) (fun m s => loseVf m (tdiError m s))
      { s with numVfs := min s.numVfs n, vfEnable := s.vfEnable && decide (0 < n) }))

/-- VF_FLR: the tenant reset; its TDI ends CONFIG_UNLOCKED (R422, R448). -/
def execVfFlr (n : Nat) (s : State) : Host.Outcome State Fault Refusal :=
  onUnit (decide (n < 1024)) s (fun s => configRequest s (fun s =>
    if (getTen s n).st == .disabled then s else updTen (beginReset n s) n (fun t => { t with unlockTdi := true })))

/-- RESET_CAP_WARM: WARM in the PF's reset capability; in a VF's configuration space it has no effect (R629, R639). -/
def execResetCapWarm (f : Fn) (s : State) : Host.Outcome State Fault Refusal :=
  .next (configRequest s (fun s => match f with | .pf => requestWarm 6 s | .vf _ => s))

/-- RESET_CAP_COLD: COLD, alone or together with WARM (R639). -/
def execResetCapCold (f : Fn) (warm : Bool) (s : State) : Host.Outcome State Fault Refusal :=
  .next (configRequest s (fun s => match f, warm with | .pf, _ => requestCold 4 s | .vf _, _ => s))

/-- What a write of a configuration register holds: VF BAR 0 of the SR-IOV capability at 0x124 and 0x128 in the PF's space, and MSI-X Enable
and Function Mask at 0x0B0 in every function's (PRESUMED, PCI Express, log 4; the offsets are a DESIGN CHOICE, log 62). -/
def cfgBits (f : Fn) (off : Nat) : BitVec 32 :=
  if off = 0x0B0 then maskOf 31 30
  else if f = .pf ∧ off = 0x124 then maskOf 31 30
  else if f = .pf ∧ off = 0x128 then maskOf 31 0
  else 0

/-- A write of the configuration space: a locked TDI whose BAR or MSI-X capability it changes enters ERROR (R422), and a Function Mask
cleared lets messages go (R572). -/
def configWrite (f : Fn) (off : Nat) (d : BitVec 32) (s : State) : State :=
  let k := 1024 * fnKey f + off / 4
  let old := tget (fun _ => 0) s.cfgRegs k
  let v := d &&& cfgBits f off
  if v = old then s
  else
    let s1 := { s with cfgRegs := tset (fun _ => 0) s.cfgRegs k v }
    if off = 0x0B0 then
      let s2 := { s1 with fmask := tset (fun _ => false) s1.fmask (fnKey f) (bit v 30) }
      let s3 := match f with | .vf n => tdiError n s2 | .pf => s2
      if bit v 30 then s3 else forN (vecsOf f) (unmasked f) s3
    else forL (contracted s1) tdiError s1

/-- REGISTER_WRITE: a write of any register, with the field-kind and reserved-value rules (R603 to R606). DESIGN CHOICE (log 62): from a PCIe
function, an address from 0xF000_0000, which no BAR carries, is the offset in bits 11:0 of its configuration space. -/
def execRegisterWrite (m : Master) (addr data : BitVec 32) (s : State) : Host.Outcome State Fault Refusal :=
  match m with
  | .pcie f =>
    if 0xF0000000 ≤ addr.toNat then onUnit (masterExists s m) s (fun s => configRequest s (configWrite f (addr.toNat % 4096) data))
    else regCommand m addr (some data) s
  | _ => regCommand m addr (some data) s

/-- The SPDM sessions of an endpoint end; their franking key is destroyed once their receipts are written (R436). -/
def endSessions (f : Fn) (s : State) : State := sweepKey f (setSpdm f Spdm.empty s)

/-- PF_FLR: every enabled tenant is reset, VF Enable clears, the PF mailbags are disabled, the PF's sessions end (R630). -/
def execPfFlr (s : State) : Host.Outcome State Fault Refusal :=
  .next (configRequest s (fun s =>
    let s1 := forL (contracted s) loseVf { s with vfEnable := false, numVfs := 0 }
    let s2 := forN 16 (fun m s => updBag s .pf m (fun b => { b with cfg := clrBit b.cfg 31 })) s1
    let s3 := { s2 with envs := s2.envs.filter (fun e => !((placeBag e.place).map (·.1) == some .pf && e.st == .fetching)) }
    endSessions .pf s3))

/-! ### Key rotation (R429, R430) -/

/-- Jobs over the tenant's segments under a KEYIDX, in ascending order of first index. -/
def rotateSegs (s : State) (n i : Nat) : List (Nat × Desc) :=
  ((getTen s n).segs.filter (fun kv => inPool kv.2 && kv.2.keyidx.toNat == i)).foldl (fun l kv => ins kv l) []
where
  ins (x : Nat × Desc) : List (Nat × Desc) → List (Nat × Desc)
    | [] => [x]
    | y :: r => if segR0 x.2 < segR0 y.2 then x :: y :: r else y :: ins x r

/-- Segments being filled under the KEYIDX rotate as well. -/
def fillingSegs (s : State) (n i : Nat) : List (Nat × Desc) :=
  (s.jobs.filter (fun j => j.2.kind == .fill && j.2.tenant == n && j.2.keyidx == i)).map (fun j => (j.2.seg.toNat, fillDesc j.2))

/-- The generation and root of a tenant's KEYIDX, one generation on. -/
def nextPair (s : State) (n i : Nat) : Key :=
  match (getKey s (0x800 + n)).key with
  | some (.draw k) => .hbm k i (tget (fun _ => 0) (getTen s n).keyGens i + 1)
  | _ => .unbound

/-- Begin a rotation: its jobs, and the first lines asked of each pseudo-channel. -/
def startRotation (p : Place) (n i : Nat) (s1 : State) : State :=
  let s := readKey (0x800 + n) s1
  let s0 := { s with rotation := some ⟨n, i, nextPair s n i, [], p⟩ }
  let s1 := forL (rotateSegs s n i ++ fillingSegs s n i) (fun x s =>
    let j := s.nextJob
    let b := rotateJob n x.1 x.2
    { s with
      jobs := s.jobs ++ [(j, b)], nextJob := j + 1,
      rotation := s.rotation.map (fun ro => { ro with jobs := insJob s j b.r0 ro.jobs }) }) s0
  forN 1024 nextRotate s1

/-- KEY_ROTATE. -/
def execKeyRotate (p : Place) (s : State) : Host.Outcome State Fault Refusal :=
  onEnv p 0x44 s (fun e s =>
    let n := envTenant e
    let i := argB e 0 1
    if e.phase = 1 then s
    else if 4 ≤ i then finishEnv e 4 0 s
    else if (getTen s n).st == .disabled then finishEnv e 0x040E 0 s
    else if (getTen s n).st == .resetting then finishEnv e 0x0409 0 s
    else inActivity e 10 none s (fun e s => startRotation p n i (putEnv e { e with phase := 1 } s)))

/-- KEY_ROTATION_DONE: every cursor has passed the last stripe; the context holds the new pair alone. -/
def execKeyRotationDone (s : State) : Host.Outcome State Fault Refusal :=
  .next (match s.rotation with
    | none => s
    | some ro =>
      if !pmServes s || !ro.jobs.all (fun j => match jobOf s j with | some b => jobDone b | none => true) then s
      else
        let n := ro.tenant
        let s1 := setCtx (4 * n + ro.keyidx) ro.newKey { s with
          rotation := none, jobs := s.jobs.filter (fun x => !ro.jobs.contains x.1) }
        let s2 := updTen s1 n (fun t => { t with
          keyGens := tset (fun _ => 0) t.keyGens ro.keyidx (tget (fun _ => 0) t.keyGens ro.keyidx + 1) })
        journal (match s2.envs.find? (fun e => e.place == ro.place && e.st == .executing && hOpcode e == 0x44 && e.phase == 1) with
          | some e => finishEnv e 0 0 s2
          | none => s2))

/-! ### The device-ring window (R609, R610, R622) -/

/-- The mailbag of a window offset, and the segment's word address that it stands for; none where nothing is there. -/
def windowPlace (s : State) (f : Fn) (off : Nat) : Option (Nat × Desc × Nat) :=
  let m := (off - 0x20000000) / 0x800000
  let x := off % 0x800000
  match f with
  | .pf => none
  | .vf n =>
    let b := getBag s f m
    if off < 0x20000000 ∨ 64 ≤ m ∨ !bagEnabled b ∨ !bagSpace b then none
    else
      let inRing := decide (x < 64 * ringSize b)
      let inTray := decide (0x400000 ≤ x ∧ x < 0x400000 + 32 * traySize b)
      let w := if inRing then b.ring else b.tray
      let o := wfld w 47 0 + (if inRing then x else x - 0x400000)
      let d := tenDesc s n (wfld w 63 52)
      if (inRing || inTray) && d.valid && d.space == 1 && decide (o + 8 ≤ d.limit.toNat + 1) then some (n, d, o / 8) else none

/-- A read of one word of the window. -/
def windowRead (f : Fn) (off : Nat) (s : State) : State :=
  match windowPlace s f off with
  | none => emit (.windowData [0]) s
  | some (n, d, w) =>
    let r := segWords (some n) d w 1 s
    match r.1 with
    | [some v] => emit (.windowData [v.data]) r.2
    | _ => emit .completerAbort r.2

/-- A write of words from an offset on, each in its place, with tag RAW (R610). -/
def windowWrite (f : Fn) (off : Nat) (ws : List Word) (s : State) : State :=
  segPutAll ((List.range ws.length).filterMap (fun i =>
    (windowPlace s f (off + 8 * i)).map (fun p => ((some p.1, p.2.1, p.2.2), ⟨wordAt ws i, 0⟩)))) s

/-- An access to BAR 0 at a window offset: Completer Abort, or dropped, while the device is not ready, is fenced or sleeps. -/
def windowAccess (f : Fn) (off : Nat) (wr : Option (List Word)) (s : State) : State :=
  let shut := !s.sys.ready || s.sys.fenced || inDoze s
  let s1 := noteWake 4 s
  if s.sys.phase != .ready && s.sys.phase != .booting then s
  else match wr with
    | none => if shut then emit .completerAbort s1 else windowRead f off s1
    | some ws => if shut then s1 else windowWrite f off ws s1

/-- DEVICE_RING_WINDOW: an access of 8-byte words at an offset of BAR 0. -/
def execDeviceRingWindow (f : Fn) (off : BitVec 32) (wr : Option (List Word)) (s : State) : Host.Outcome State Fault Refusal :=
  onUnit (masterExists s (.pcie f)) s (windowAccess f off.toNat wr)

/-- TDI_NON_TEE_REQUEST: Unsupported Request while the TDI is in RUN; in its other states the request is served as any other
(R421). -/
def execTdiNonTeeRequest (n : Nat) (off : BitVec 32) (wr : Option (List Word)) (s : State) : Host.Outcome State Fault Refusal :=
  onUnit (decide (n < 1024) && (getTen s n).st != .disabled) s (fun s =>
    if (getTen s n).tdi == .run then emit (.unsupportedRequest n) s
    else if 0x20000000 ≤ off.toNat then windowAccess (.vf n) off.toNat wr s
    else if pcieShut s (.pcie (.vf n)) 0x10000000 then (if wr.isNone then emit .completerAbort s else s)
    else if 0x20000 ≤ off.toNat then (if wr.isNone then emit (.completion (.pcie (.vf n)) 0) s else s)
    else submit (.pcie (.vf n)) (barAddr (.vf n) off.toNat) (wr.map (fun ws => (wordAt ws 0).setWidth 32)) (retryHeld s))

end Sys2Proof.Machine
end

