-- ==== Sys2Proof/Machine/Spdm.lean ====
section
/-! DEFINITION. Attestation and sessions over SPDM, TDISP and IDE key management (R414 to R424, R431, R436). Response and error codes
are those of the DMTF and PCI-SIG specifications that the chapter names (log 7, PRESUMED). -/
namespace Sys2Proof.Machine

open Sys2Proof

/-! ### Answering -/

/-- The endpoint exists: the PF, or a VF that is enabled (R417). -/
def endpointExists (s : State) : Fn → Bool
  | .pf => true
  | .vf n => decide (n < 1024) && (getTen s n).st != .disabled

/-- A request at an SPDM endpoint, answered while the primary serves. -/
def spdmRequest (f : Fn) (s : State) (k : State → State) : Host.Outcome State Fault Refusal :=
  onUnit (endpointExists s f) s (fun s => if pmServes s then k s else s)

def updSpdm (f : Fn) (g : Spdm → Spdm) (s : State) : State := setSpdm f (g (getSpdm s f)) s
def spdmErr (f : Fn) (code : Nat) (s : State) : State := emit (.spdmError f code) s
def spdmRsp (f : Fn) (code : Nat) (ws : List Word) (s : State) : State := emit (.spdm f code ws) s
/-- A response that CHUNK_GET may fetch in parts. -/
def spdmLong (f : Fn) (code : Nat) (ws : List Word) (s : State) : State := updSpdm f (fun x => { x with reply := ws }) (spdmRsp f code ws s)

/-- The connection has reached a phase; otherwise ERROR UnexpectedRequest. -/
def inPhase (f : Fn) (n : Nat) (s : State) (k : State → State) : State :=
  if n ≤ (getSpdm s f).phase then k s else spdmErr f 0x04 s

/-- A session exists; otherwise ERROR InvalidSession. -/
def inSession (f : Fn) (s : State) (k : State → State) : State :=
  if (getSpdm s f).sessions.isEmpty then spdmErr f 0x02 s else k s

/-! ### Connection set-up -/

/-- GET_VERSION: versions 1.2 and 1.3; negotiation begins anew. -/
def execGetVersion (f : Fn) (s : State) : Host.Outcome State Fault Refusal :=
  spdmRequest f s (fun s => spdmRsp f 0x04 [0x12, 0x13] (updSpdm f (fun x => { x with phase := 1, exchanging := none, chunk := [], reply := [] }) s))

/-- The capabilities of an endpoint, from the requests of R417: certificates, challenges, signed measurements, encryption and authentication,
key exchange, heartbeats, key update, chunks, Alias certificates, and, of a VF, mutual authentication. -/
def spdmCaps : Fn → Word
  | .pf => 0x662D6
  | .vf _ => 0x663D6

/-- GET_CAPABILITIES. -/
def execGetCapabilities (f : Fn) (s : State) : Host.Outcome State Fault Refusal :=
  spdmRequest f s (fun s => inPhase f 1 s (fun s => spdmRsp f 0x61 [spdmCaps f] (updSpdm f (fun x => { x with phase := 2 }) s)))

/-- The device's one set of algorithms: DMTF measurements, ECDSA P-384, SHA-384, secp384r1, AES-256-GCM (R417). -/
def deviceAlgs : SpdmAlgs := ⟨0x01, 0x80, 0x02, 0x10, 0x02⟩

/-- A request offers every algorithm of the device. -/
def offersAlgs (a : SpdmAlgs) : Bool :=
  let d := deviceAlgs
  a.meas &&& d.meas == d.meas && a.sig &&& d.sig == d.sig && a.hash &&& d.hash == d.hash && a.dhe &&& d.dhe == d.dhe && a.aead &&& d.aead == d.aead

/-- The algorithms that a response names: those of the device, SHA-384 for measurements, and a VF's signature demanded of the requester. -/
def algWords (f : Fn) : List Word :=
  let d := deviceAlgs
  [d.meas.setWidth 64, 0x04, d.sig.setWidth 64, d.hash.setWidth 64, d.dhe.setWidth 64, d.aead.setWidth 64,
   match f with | .pf => 0 | .vf _ => d.sig.setWidth 64]

/-- NEGOTIATE_ALGORITHMS: the device's one set of algorithms, when the request offers it. -/
def execNegotiateAlgorithms (f : Fn) (offer : SpdmAlgs) (s : State) : Host.Outcome State Fault Refusal :=
  spdmRequest f s (fun s => inPhase f 2 s (fun s =>
    if offersAlgs offer then spdmRsp f 0x63 (algWords f) (updSpdm f (fun x => { x with phase := 3 }) s) else spdmErr f 0x01 s))

/-! ### Identity (R414, R416, R417) -/

/-- GET_DIGESTS: the digest of slot 0, the only one provisioned. -/
def execGetDigests (f : Fn) (s : State) : Host.Outcome State Fault Refusal :=
  spdmRequest f s (fun s => inPhase f 3 s (fun s => spdmRsp f 0x01 (digestWords (sha384 (chainOf s))) s))

/-- Bytes off to off + len − 1 of a list of words, as words. -/
def sliceBytes (ws : List Word) (off len : Nat) : List Word :=
  let byte := fun i => (wordAt ws (i / 8)).toNat / 2 ^ (8 * (i % 8)) % 256
  (List.range (cdiv len 8)).map (fun k => BitVec.ofNat 64 ((List.range 8).foldl (fun a j =>
    if 8 * k + j < len then a + byte (off + 8 * k + j) * 2 ^ (8 * j) else a) 0))

/-- GET_CERTIFICATE: a part of the chain of slot 0; the other slots are not provisioned (R416). -/
def execGetCertificate (f : Fn) (slot : Nat) (off : Nat) (len : Nat) (s : State) : Host.Outcome State Fault Refusal :=
  spdmRequest f s (fun s => inPhase f 3 s (fun s =>
    let n := 8 * (chainOf s).length
    if slot ≠ 0 ∨ n ≤ off then spdmErr f 0x01 s
    else spdmLong f 0x02 (sliceBytes (chainOf s) off (min len (n - off))) s))

/-- CHALLENGE: a signature by the Alias key. -/
def execChallenge (f : Fn) (slot : Nat) (s : State) : Host.Outcome State Fault Refusal :=
  spdmRequest f s (fun s => inPhase f 3 s (fun s =>
    if slot ≠ 0 then spdmErr f 0x01 s
    else spdmLong f 0x03 (digestWords (sha384 (chainOf s)) ++ Config.sign (aliasKey s) (chainOf s)) s))

/-! ### Measurements (R419) -/

/-- The Alias key of a firmware image: from the UDS, the image's digest and SVN, and the fuse-map digest (R414 to R416). -/
def aliasKeyOf (s : State) (img : Bool) : Key :=
  let ws := imageWords s img
  .aliasOf (aliasSeed (Config.imageDigest ws) (Config.imageSvn ws).toNat (fuseDigest s))

/-- The image that the primary runs. -/
def runningImage (s : State) : Bool := if s.sys.stateA = 2 then s.pmA.image else s.pmB.image

/-- Measurement indices of an endpoint. -/
def measIndices : Fn → List Nat
  | .pf => [1, 2, 3, 4, 5, 6]
  | .vf _ => [1, 2, 3, 4, 5, 6, 7, 8]

/-- The DMTF type of an index (R419). -/
def measType (i : Nat) : Nat := if i = 1 then 0 else if i = 2 then 1 else if i ≤ 4 then 2 else 3

/-- The DER bytes of the SubjectPublicKeyInfo of a P-384 key: the algorithm's header, then the point, of which a bound key is the x
coordinate. -/
def spkiBytes (k : BitVec 384) : List Nat :=
  [0x30, 0x76, 0x30, 0x10, 0x06, 0x07, 0x2A, 0x86, 0x48, 0xCE, 0x3D, 0x02, 0x01, 0x06, 0x05, 0x2B, 0x81, 0x04, 0x00, 0x22, 0x03, 0x62, 0x00, 0x04] ++
  beBytes 48 k.toNat ++ beBytes 48 (Config.keyY k).toNat

/-- The content of one index. -/
def measurement (s : State) (f : Fn) (i : Nat) : List Word :=
  let img := runningImage s
  if i = 1 then digestWords Config.bootRomDigest
  else if i = 2 then
    digestWords (Config.imageDigest (imageWords s img)) ++ [if img then 0x42 else 0x41, (Config.imageSvn (imageWords s img)).setWidth 64]
  else if i = 3 then digestWords (fuseDigest s)
  else if i = 4 then
    [BitVec.ofNat 64 (orderCode s), s.fuses.revision.setWidth 64, BitVec.ofNat 64 (nTiles s), BitVec.ofNat 64 (capGib s),
     s.fuses.svn.setWidth 64]
  else if i = 5 then s.plan.gen.setWidth 64 :: digestWords (sha384 s.plan.words)
  else if i = 6 then
    (match s.book with
     | some b => b.version.setWidth 64 :: digestWords (sha384 b.words)
     | none => 0 :: digestWords (sha384 []))
  else match f with
    | .pf => []
    | .vf n =>
      if i = 7 then (getTen s n).contract.image
      else match (getTen s n).boundKey with
        | some k => digestWords (BitVec.ofNat 384 (ofBytes (sha384Bytes (spkiBytes k))))
        | none => [0, 0, 0, 0, 0, 0]

/-- One index in a response: its number, its DMTF type and its length in bytes, then its content. -/
def measBlock (s : State) (f : Fn) (i : Nat) : List Word :=
  let ws := measurement s f i
  BitVec.ofNat 64 (i + measType i * 2 ^ 8 + 8 * ws.length * 2 ^ 16) :: ws

/-- GET_MEASUREMENTS: index 0 asks for their number, 0xFF for all, any other for itself; all are sampled in this step. -/
def execGetMeasurements (f : Fn) (idx : Nat) (s : State) : Host.Outcome State Fault Refusal :=
  spdmRequest f s (fun s => inPhase f 3 s (fun s =>
    if idx = 0 then spdmRsp f 0x60 [BitVec.ofNat 64 (measIndices f).length] s
    else if idx = 0xFF then spdmLong f 0x60 ((measIndices f).flatMap (measBlock s f)) s
    else if (measIndices f).contains idx then spdmLong f 0x60 (measBlock s f idx) s
    else spdmErr f 0x01 s))

/-! ### Sessions (R418, R431, R436) -/

/-- Sessions an endpoint may hold. -/
def sessionLimit : Fn → Nat
  | .pf => 4
  | .vf _ => 1

/-- A requester key that differs from the tenant's bound key. -/
def keyRefused (s : State) (f : Fn) (key : BitVec 384) : Bool :=
  match f with
  | .pf => false
  | .vf n => match (getTen s n).boundKey with
    | some k => k != key
    | none => false

/-- KEY_EXCHANGE: on a VF endpoint the requester key must be the bound key, once there is one. -/
def execKeyExchange (f : Fn) (key : BitVec 384) (secret : Nat) (s : State) : Host.Outcome State Fault Refusal :=
  spdmRequest f s (fun s => inPhase f 3 s (fun s =>
    if keyRefused s f key then spdmErr f 0x01 s
    else if sessionLimit f ≤ (getSpdm s f).sessions.length then spdmErr f 0x0A s
    else spdmRsp f 0x64 (Config.sign (aliasKey s) (digestWords key)) (updSpdm f (fun x => { x with exchanging := some (key, secret) }) s)))

/-- The mailbags of a function start the session's counts; envelopes in hand keep the counter that they were fetched under (R433, R436). -/
def startCounts (f : Fn) (s : State) : State :=
  let keep := fun (e : Env) => match placeBag e.place with
    | some (g, m) => if g == f && e.oldCtr.isNone then { e with oldCtr := some (getBag s f m).rcptCtr } else e
    | none => e
  forN (bagsOf f) (fun m s => updBag s f m (fun b => { b with expSeq := 1, rcptCtr := 1, doneSeq := 0 })) { s with envs := s.envs.map keep }

/-- The first session completed on a VF endpoint binds the tenant's key (R418). -/
def bindKey (f : Fn) (key : BitVec 384) (s : State) : State :=
  match f with
  | .pf => s
  | .vf n => updTen s n (fun t => { t with boundKey := some (t.boundKey.getD key) })

/-- FINISH: the session is complete, its franking key is in its slot, and the counts restart. -/
def execFinish (f : Fn) (ok : Bool) (s : State) : Host.Outcome State Fault Refusal :=
  spdmRequest f s (fun s =>
    match (getSpdm s f).exchanging with
    | none => spdmErr f 0x04 s
    | some (key, secret) =>
      let s1 := updSpdm f (fun x => { x with exchanging := none }) s
      if !ok || keyRefused s1 f key then spdmErr f 0x01 s1
      else
        let s2 := updSpdm f (fun x => { x with sessions := ⟨.franking secret⟩ :: x.sessions }) s1
        spdmRsp f 0x65 [] (startCounts f (bindKey f key (writeKey s2 (frankSlot f) (.franking secret)))))

/-- HEARTBEAT. -/
def execHeartbeat (f : Fn) (s : State) : Host.Outcome State Fault Refusal :=
  spdmRequest f s (fun s => inSession f s (fun s => spdmRsp f 0x68 [] s))

/-- KEY_UPDATE: the franking key does not change (R431). -/
def execKeyUpdate (f : Fn) (s : State) : Host.Outcome State Fault Refusal :=
  spdmRequest f s (fun s => inSession f s (fun s => spdmRsp f 0x69 [] s))

/-- The newest session of an endpoint ends. Its franking key is destroyed; that of a session still open takes its place. -/
def endNewest (f : Fn) (s : State) : State :=
  let s1 := updSpdm f (fun x => { x with sessions := x.sessions.drop 1 }) s
  match (getSpdm s1 f).sessions with
  | x :: _ => writeKey (zeroKey s1 (frankSlot f)) (frankSlot f) x.franking
  | [] => sweepKey f s1

/-- END_SESSION (R436). -/
def execEndSession (f : Fn) (s : State) : Host.Outcome State Fault Refusal :=
  spdmRequest f s (fun s => inSession f s (fun s => spdmRsp f 0x6C [] (endNewest f s)))

/-- SPDM_HEARTBEAT_TIMEOUT: the session is lost (R436). -/
def execSpdmHeartbeatTimeout (f : Fn) (s : State) : Host.Outcome State Fault Refusal :=
  spdmRequest f s (fun s => if (getSpdm s f).sessions.isEmpty then s else endNewest f s)

/-! ### Chunks and other requests -/

/-- CHUNK_SEND: a part of a long request; with the last the whole has arrived, and is the request that follows. -/
def execChunkSend (f : Fn) (last : Bool) (words : List Word) (s : State) : Host.Outcome State Fault Refusal :=
  spdmRequest f s (fun s => inPhase f 2 s (fun s =>
    spdmRsp f 0x05 [] (updSpdm f (fun x => { x with chunk := if last then [] else x.chunk ++ words }) s)))

/-- CHUNK_GET: part seq of the last long response, 64 words at a time. -/
def execChunkGet (f : Fn) (seq : Nat) (s : State) : Host.Outcome State Fault Refusal :=
  spdmRequest f s (fun s => inPhase f 2 s (fun s =>
    let r := (getSpdm s f).reply
    if r.length ≤ 64 * seq then spdmErr f 0x01 s else spdmRsp f 0x06 ((r.drop (64 * seq)).take 64) s))

/-- SPDM_UNSUPPORTED_REQUEST: ERROR UnsupportedRequest (R417). -/
def execSpdmUnsupportedRequest (f : Fn) (_code : BitVec 8) (s : State) : Host.Outcome State Fault Refusal :=
  spdmRequest f s (spdmErr f 0x07)

/-! ### TDISP (R420 to R422) -/

/-- A TDISP or IDE_KM message: taken only inside a session on the PF endpoint. -/
def pfMessage (s : State) (k : State → State) : Host.Outcome State Fault Refusal :=
  spdmRequest .pf s (fun s => inSession .pf s k)

/-- TDISP_ERROR with a code. -/
def tdispErr (code : Nat) (s : State) : State := spdmRsp .pf 0x7F [BitVec.ofNat 64 code] s

/-- A TDISP message about the TDI of VF n + 1. -/
def tdispMessage (n : Nat) (s : State) (k : State → State) : Host.Outcome State Fault Refusal :=
  if n < 1024 then pfMessage s (fun s => if (getTen s n).st == .disabled then tdispErr 0x0101 s else k s) else .fault .noSuchUnit

/-- GET_TDISP_VERSION: version 1.0. -/
def execGetTdispVersion (n : Nat) (s : State) : Host.Outcome State Fault Refusal := tdispMessage n s (spdmRsp .pf 0x01 [0x10])

/-- GET_TDISP_CAPABILITIES: the messages supported. -/
def execGetTdispCapabilities (n : Nat) (s : State) : Host.Outcome State Fault Refusal :=
  tdispMessage n s (spdmRsp .pf 0x02 [0x81, 0x82, 0x83, 0x84, 0x85, 0x86, 0x87])

/-- LOCK_INTERFACE_REQUEST: CONFIG_UNLOCKED to CONFIG_LOCKED, bound to a selective stream. -/
def execLockInterfaceRequest (n : Nat) (stream : Nat) (s : State) : Host.Outcome State Fault Refusal :=
  tdispMessage n s (fun s =>
    if (getTen s n).tdi != .configUnlocked then tdispErr 0x0004 s
    else if stream = 0 ∨ 8 < stream then tdispErr 0x0001 s
    else spdmRsp .pf 0x03 [] (updTen s n (fun t => { t with tdi := .configLocked, stream := some stream })))

/-- GET_DEVICE_INTERFACE_REPORT: offset and length of the VF's BAR 0 ranges. -/
def execGetDeviceInterfaceReport (n : Nat) (s : State) : Host.Outcome State Fault Refusal :=
  tdispMessage n s (fun s =>
    if (getTen s n).tdi == .configLocked || (getTen s n).tdi == .run then
      spdmRsp .pf 0x04 [0x0, 0x1000, 0x2000, 0x100, 0x3000, 0x8, 0x20000000, 0x20000000] s
    else tdispErr 0x0004 s)

/-- The code of a TDI state. -/
def tdiCode : TdiState → Word
  | .configUnlocked => 0
  | .configLocked => 1
  | .run => 2
  | .error => 3

/-- GET_DEVICE_INTERFACE_STATE. -/
def execGetDeviceInterfaceState (n : Nat) (s : State) : Host.Outcome State Fault Refusal :=
  tdispMessage n s (fun s => spdmRsp .pf 0x05 [tdiCode (getTen s n).tdi] s)

/-- START_INTERFACE_REQUEST: CONFIG_LOCKED to RUN. -/
def execStartInterfaceRequest (n : Nat) (s : State) : Host.Outcome State Fault Refusal :=
  tdispMessage n s (fun s =>
    if (getTen s n).tdi == .configLocked then spdmRsp .pf 0x06 [] (updTen s n (fun t => { t with tdi := .run })) else tdispErr 0x0004 s)

/-- STOP_INTERFACE_REQUEST: to CONFIG_UNLOCKED, from ERROR as well (R422). -/
def execStopInterfaceRequest (n : Nat) (s : State) : Host.Outcome State Fault Refusal :=
  tdispMessage n s (fun s => spdmRsp .pf 0x07 [] (updTen s n (fun t => { t with tdi := .configUnlocked, stream := none })))

/-- IDE_INTEGRITY_FAILURE on the stream bound to the TDI of VF n + 1 (R422). -/
def execIdeIntegrityFailure (n : Nat) (s : State) : Host.Outcome State Fault Refusal := onUnit (decide (n < 1024)) s (tdiError n)

/-! ### IDE key management (R420, R424) -/

/-- The key-store slot of a stream, sub-stream and key set. -/
def ideSlot (stream sub : Nat) (kset : Bool) : Nat := 0x80 + 6 * stream + 2 * sub + b2n kset

/-- An IDE_KM message about a stream; one that does not exist is refused. -/
def ideMessage (stream sub : Nat) (s : State) (k : State → State) : Host.Outcome State Fault Refusal :=
  pfMessage s (fun s => if stream ≤ 8 ∧ sub ≤ 2 then k s else spdmErr .pf 0x01 s)

/-- QUERY: which key sets of the stream are active. -/
def execQuery (stream : Nat) (s : State) : Host.Outcome State Fault Refusal :=
  ideMessage stream 0 s (fun s =>
    spdmRsp .pf 0x01 [BitVec.ofNat 64 ((List.range 6).foldl (fun a i => if s.ideActive.contains (6 * stream + i) then a + 2 ^ i else a) 0)] s)

/-- KEY_PROG: a key is written into its slot. -/
def execKeyProg (stream : Nat) (sub : Nat) (kset : Bool) (key : Nat) (s : State) : Host.Outcome State Fault Refusal :=
  ideMessage stream sub s (fun s => spdmRsp .pf 0x03 [0] (writeKey s (ideSlot stream sub kset) (.ide key)))

/-- K_SET_GO: the key set is used from now on, when its key is there; the other set of the sub-stream is not. -/
def execKSetGo (stream : Nat) (sub : Nat) (kset : Bool) (s : State) : Host.Outcome State Fault Refusal :=
  ideMessage stream sub s (fun s =>
    if (getKey s (ideSlot stream sub kset)).key.isNone then spdmErr .pf 0x01 s
    else
      let x := 6 * stream + 2 * sub
      spdmRsp .pf 0x05 [] { s with ideActive := addOnce (dropAll s.ideActive (x + b2n (!kset))) (x + b2n kset) })

/-- K_SET_STOP: the keys of the set are destroyed, and a TDI bound to the stream enters ERROR (R422, R424). -/
def execKSetStop (stream : Nat) (sub : Nat) (kset : Bool) (s : State) : Host.Outcome State Fault Refusal :=
  ideMessage stream sub s (fun s =>
    let s1 := zeroKey { s with ideActive := dropAll s.ideActive (6 * stream + 2 * sub + b2n kset) } (ideSlot stream sub kset)
    spdmRsp .pf 0x05 [] (forL (contracted s1) (fun n s => if (getTen s n).stream = some stream then tdiError n s else s) s1))

end Sys2Proof.Machine
end

