-- ==== Sys2Proof/Machine/Dump.lean ====
section
/-! DEFINITION. The fatal dump: its words, when it is written, and what reads it (R673 to R678). -/
namespace Sys2Proof.Machine

open Sys2Proof

/-! ### Pieces -/

/-- Two registers in one word, the lower offset in [31:0]. -/
def regPair (lo hi : BitVec 32) : Word := BitVec.ofNat 64 (lo.toNat + hi.toNat * 2 ^ 32)
/-- Registers from an offset on, n words of two. -/
def regWords (rd : Nat → BitVec 32) (first n : Nat) : List Word := (List.range n).map (fun i => regPair (rd (first + 8 * i)) (rd (first + 8 * i + 4)))
/-- A list cut or padded with zeros to n words. -/
def padTo (n : Nat) (ws : List Word) : List Word := (List.range n).map (wordAt ws)
/-- Bits of a word from a list of Bools, bit 0 first. -/
def bitsWord (l : List Bool) : Word := BitVec.ofNat 64 (l.reverse.foldl (fun a b => 2 * a + b2n b) 0)

/-- Section 0: the CM block, the pending chutes, the two IC_CTRLs. -/
def dumpMatrix (s : State) : List Word :=
  regWords (cmRead s) 0 160 ++
  (List.range 4).map (fun k => bitsWord ((List.range 64).map (fun i => (getChute s (64 * k + i)).pending))) ++ [regPair s.ic0 s.ic1]

/-- The resident entries of a stack, lowest first, and their tags. -/
def entryTags (l : List TWord) : Word := BitVec.ofNat 64 (l.reverse.foldl (fun a w => 16 * a + w.tag.toNat) 0)

/-- Words 0 to 63 of a tile record: identity, engine and stacks. -/
def tileHead (s : State) (t : Nat) : List Word :=
  let tl := getTile s t
  let x := tl.eng
  let p := physOf s t
  let ten := (tl.owner.map (·.1)).getD 0
  let ds := x.ds.reverse
  let rs := x.rs.reverse
  let w0 := t + p % 17 * 2 ^ 8 + p / 17 * 2 ^ 13 + ten * 2 ^ 16 + b2n tl.owner.isSome * 2 ^ 31 + x.runstate.toNat * 2 ^ 32 +
    x.hlevel * 2 ^ 34 + b2n x.isSealed * 2 ^ 38 + b2n x.dfault * 2 ^ 39 + b2n x.resume * 2 ^ 40
  let fl := b2n x.flags.n * 8 + b2n x.flags.z * 4 + b2n x.flags.c * 2 + b2n x.flags.v
  [BitVec.ofNat 64 w0, x.pc, x.x, x.y, BitVec.ofNat 64 fl, BitVec.ofNat 64 (x.ds.length + x.dSpilled),
   BitVec.ofNat 64 (x.rs.length + x.rSpilled), x.dspill.getD 0, x.rspill.getD 0, x.cycles, vpend s (.tile t), x.status.setWidth 64] ++
  padTo 16 (ds.map (·.data)) ++ padTo 16 rs ++ [entryTags ds, entryTags (rs.map (fun w => (⟨w, 1⟩ : TWord)))] ++ padTo 18 []

/-- A whole tile record of 1,024 words. -/
def tileRecord (s : State) (t : Nat) : List Word :=
  tileHead s t ++ regWords (tileRead s t) 0 224 ++ padTo 224 [] ++
  (List.range 512).map (fun i => ((getTile s t).store.cell (0x3FF000 / 8 + i)).data)

/-- The origin number of an envelope record. -/
def originNo (p : Place) : Nat :=
  match p with
  | .tenantBag n m => 64 * n + m
  | .pfBag m => 0x10000 + m
  | .esend t => 0x20000 + t

/-- STATE of an envelope record; 0 for one that has none. -/
def envCode (e : Env) : Nat :=
  match e.st with
  | .heldSeq => 1
  | .heldTime => 2
  | .executing => 3
  | _ => 0

/-- An envelope record of 16 words. -/
def envRecord (s : State) (e : Env) : List Word :=
  padTo 8 e.words ++
  [BitVec.ofNat 64 (originNo e.place + envCode e * 2 ^ 20 + e.phase % 256 * 2 ^ 24),
   BitVec.ofNat 64 (if e.ran then (s.sclk - e.startedAt) * 20 else 0)] ++ padTo 6 []

def insOrigin (e : Env) : List Env → List Env
  | [] => [e]
  | x :: r => if originNo e.place < originNo x.place then e :: x :: r else x :: insOrigin e r

/-- The envelopes that a dump records, in ascending order of origin (R678). -/
def dumpEnvs (s : State) (full : Bool) : List Env :=
  (s.envs.filter (fun e => e.st == .executing || (full && (e.st == .heldSeq || e.st == .heldTime)))).foldl (fun l e => insOrigin e l) []

/-- Section 3: the tile-store logs. -/
def dumpTileLogs (s : State) (t : Nat) : List Word :=
  (tileRead s t 0x0F0).setWidth 64 :: (List.range 16).map (fun e => regPair (tileRead s t (0x100 + 8 * e)) (tileRead s t (0x104 + 8 * e)))

/-- Section 4: the HBM logs. -/
def dumpStackLogs (s : State) (k : Nat) : List Word :=
  (hcReg s k 0x01C).setWidth 64 :: (List.range 64).flatMap (fun e =>
    [regPair (hcReg s k (0x400 + 16 * e)) (hcReg s k (0x404 + 16 * e)), (hcReg s k (0x408 + 16 * e)).setWidth 64])

/-- Section 5: the journal tail, whose contents the spec does not give. -/
def dumpJournal (s : State) (n : Nat) : List Word := (List.range n).map (fun i => Config.freeValue (s.free + i))

/-- Section 6: pair, system, key-store, fabric and port registers. -/
def dumpMisc (s : State) : List Word :=
  ([fuseRead s 0xA00, fuseRead s 0x800, ksRead s 0, fabricRead s 0x804, fabricRead s 0x810] ++
   (List.range 32).map (fun p => fabricRead s (64 * p))).map (fun v => v.setWidth 64)

/-- The sections in order. -/
def dumpSections (s : State) (full : Bool) : List (List Word) :=
  let ts := List.range (nTiles s)
  [dumpMatrix s, ts.flatMap (if full then tileRecord s else tileHead s), (dumpEnvs s full).flatMap (envRecord s),
   ts.flatMap (dumpTileLogs s), (List.range 16).flatMap (dumpStackLogs s), dumpJournal s (if full then 8192 else 512), dumpMisc s, []]

/-- Section words 32 to 39: first word and length. -/
def sectionWords : Nat → List (List Word) → List Word
  | _, [] => []
  | at_, x :: r => BitVec.ofNat 64 (if x.isEmpty then 0 else at_ * 2 ^ 32 + x.length) :: sectionWords (at_ + x.length) r

/-- The dump header; COMPLETE stands in word 20. -/
def dumpHeader (s : State) (d : Dumping) : List Word :=
  let full := d.full
  let sec := dumpSections s full
  let total := 64 + (sec.map (·.length)).foldl (· + ·) 0
  let img := runningImage s
  let book := match s.book with | some b => (b.version.toNat, b.words) | none => (0, [])
  padTo 32 ([0x00504D5544394E54, BitVec.ofNat 64 (2 ^ 48 + (if full then 1 else 2) * 2 ^ 40 + total), d.mark,
    BitVec.ofNat 64 (d.code + b2n d.writer * 2 ^ 8 + d.detail * 2 ^ 16),
    BitVec.ofNat 64 ((identRead s 4).toNat + orderCode s * 2 ^ 32), BitVec.ofNat 64 (s.plan.gen.toNat + book.1 * 2 ^ 32)] ++
    digestWords (sha384 s.plan.words) ++ digestWords (sha384 book.2) ++
    [BitVec.ofNat 64 ((Config.imageSvn (imageWords s img)).toNat + b2n img * 2 ^ 8),
     BitVec.ofNat 64 (nTiles s + (dumpEnvs s full).length * 2 ^ 16), 1]) ++
  padTo 32 (sectionWords 64 sec)

def dumpWords (s : State) (d : Dumping) : List Word := dumpHeader s d ++ (dumpSections s d.full).flatten

/-! ### Writing it -/

/-- A new dump overwrites the earlier one from word 0 on (R676). -/
def overwrite (ws : List Word) (old : Tbl Word) : Tbl Word :=
  (List.range ws.length).map (fun i => (i, wordAt ws i)) ++ old.filter (fun kv => decide (ws.length ≤ kv.1))

/-- Word 20 of a dump that is there becomes 0. -/
def clearComplete (t : Tbl Word) : Tbl Word := t.map (fun kv => if kv.1 = 20 then (20, 0) else kv)

/-- Line l of the HBM dump area (R716), and the postmaster's write of it as the dump holds it. -/
def dumpLine (s : State) (l : Nat) : Nat × Nat := areaLine s 20480 l
def putDumpLine (l : Nat) (s : State) : State :=
  writeTable (dumpLine s l) (rawWords ((List.range 8).map (fun k => ((s.sys.dumpHbm.find? (fun kv => kv.1 == 8 * l + k)).map (·.2)).getD 0))) s

/-- The COMPLETE word of the HBM dump becomes 0. -/
def unmarkHbm (s : State) : State :=
  if s.sys.dumpHbm.any (fun kv => kv.1 == 20) then putDumpLine 2 { s with sys := { s.sys with dumpHbm := clearComplete s.sys.dumpHbm } }
  else s
/-- The COMPLETE word of the flash dump becomes 0. -/
def unmarkFlash (s : State) : State := { s with sys := { s.sys with dumpFlash := clearComplete s.sys.dumpFlash } }

/-- Words of a dump are written from word 0 on. -/
def writeDump (full : Bool) (ws : List Word) (s : State) : State :=
  if full then forN (cdiv ws.length 8) putDumpLine { s with sys := { s.sys with dumpHbm := overwrite ws s.sys.dumpHbm } }
  else { s with sys := { s.sys with dumpFlash := overwrite ws s.sys.dumpFlash } }

/-- The tiles are halted as by the fence, those at a boundary at once (R674). -/
def haltTiles (s : State) : State :=
  forL (List.range (nTiles s)) (fun t s =>
    let x := getEng s (.tile t)
    if x.runstate == 1 && atBoundary x then haltEngine (.tile t) s else s) (fenceTiles s)

/-- A fatal error: READY falls, which stops the letterboxes, the tiles halt, and the primary begins a dump, in condensed form to flash when
HBM is implicated. Without a primary there is no dump (R673, R674). DESIGN CHOICE (log 45): the COMPLETE word of the earlier dump is
cleared first, and a fatal error during a dump changes nothing. -/
def fatalError (code detail : Nat) (s : State) : State :=
  if s.sys.phase != .ready || s.sys.fenced || s.sys.dumping.isSome || !(s.sys.stateA == 2 || s.sys.stateB == 2) then s
  else
    let full := !(code == 4 || code == 7)
    let s1 := haltTiles { s with sys := { s.sys with ready := false, dumping := some ⟨s.sys.stateA != 2, full, code, detail, postmark s⟩ } }
    if full then unmarkHbm s1 else unmarkFlash s1

/-- The dump ends: its words are written, the COMPLETE word with them, and the device fences (R674). -/
def endDump (s : State) : State :=
  match s.sys.dumping with
  | none => s
  | some d =>
    engageFence (writeDump d.full (dumpWords s d) { s with free := s.free + 8192 })

/-- The writing postmaster fails and no standby runs: the dump is left as far as it came, without COMPLETE, and the device fences (R675).
How far it came is free (log 45). -/
def leaveDump (s : State) : State :=
  match s.sys.dumping with
  | none => engageFence s
  | some d =>
    let ws := (dumpWords s d).set 20 0
    engageFence (writeDump d.full (ws.take ((Config.freeValue s.free).toNat % ws.length)) { s with free := s.free + 8193 })

/-- The postmaster that writes a dump fails: the standby begins it again at word 0 (R675). -/
def restartDump (b : Bool) (s : State) : State :=
  { s with sys := { s.sys with dumping := s.sys.dumping.map (fun d => if d.writer == b then { d with writer := !b } else d) } }

/-- The bridge link or the clock tree of a die has failed: ST_STATUS.FATAL is set, and raises its chute when it was 0 (R679). -/
def setFatal (d : Nat) (s : State) : State :=
  let s1 := updSt d 0 (fun v => setBit v 2) s
  if bit (stReg s d 0) 2 then s1 else chuteEvent (144 + d) s1

/-- What a trigger needs: DETAIL names the die of a steward, and two requests abandoned in a row (R673, R601). -/
def triggers (code detail : Nat) (s : State) : Bool :=
  match code with
  | 5 => decide (detail < 8)
  | 6 => decide (2 ≤ s.sys.mxAbandoned)
  | c => decide (1 ≤ c ∧ c ≤ 7)

/-- FATAL_ERROR: one of the triggers (R673). That of a steward stands in its ST_STATUS whether or not a dump follows (R679). -/
def execFatalError (code : BitVec 8) (detail : BitVec 16) (s : State) : Host.Outcome State Fault Refusal :=
  .next (if !powered s || !triggers code.toNat detail.toNat s then s
    else fatalError code.toNat detail.toNat (if code = 5 then setFatal detail.toNat s else s))

/-! ### Reading it (R677) -/

/-- Word i of the two dump areas: the HBM area's first word is 0, that of the flash area 0x0080_0000. A word of the HBM area that no
dump has written is in the unwritten state; one of the flash area decrypts to a value that the spec does not give. -/
def dumpWord (s : State) (i : Nat) : Option Word :=
  if i < 0x800000 then (s.sys.dumpHbm.find? (fun kv => kv.1 == i)).map (·.2)
  else some (((s.sys.dumpFlash.find? (fun kv => kv.1 == i - 0x800000)).map (·.2)).getD (Config.freeValue (s.free + i)))

/-- DUMP_READ: the range goes to host memory, up to a word that cannot be read; each line of the HBM area takes a counter slot and the
checks of any payload line (R343, R677). -/
def execDumpRead (p : Place) (s : State) : Host.Outcome State Fault Refusal :=
  onEnv p 0x4C s (fun e s =>
    let off := argB e 8 4
    let len := argB e 12 4
    if 0x04400000 < off + len ∨ off % 8 ≠ 0 ∨ len % 8 ≠ 0 then finishEnv e 4 0 s
    else
      let r := areaGood dumpLine (off / 64) (cdiv (min (off + len) 0x4000000) 64 - off / 64) s
      let all := (List.range (len / 8)).map (fun i =>
        let w := off / 8 + i
        if w < 0x800000 ∧ off / 64 + r.1 ≤ w / 8 then none else dumpWord s w)
      let good := (all.takeWhile (·.isSome)).map (·.getD 0)
      let s1 := if good.isEmpty then r.2 else emitWrite .pf (hArg0 e).toNat good r.2
      if good.length < all.length then finishEnv e 5 0 s1 else finishEnv e 0 0 s1)

end Sys2Proof.Machine
end

