-- ==== Sys2Proof/Machine/Clock.lean ====
section
/-! DEFINITION. One SCLK period with no command: fabric time advances, masks written come into force, inputs are sampled, and a fatal dump
under way ends (R544, R545, R561, R574, R615, R674). -/
namespace Sys2Proof.Machine

open Sys2Proof

/-- Fabric time after one SCLK period at the following rate, or at 17/16 or 15/16 of it while an offset is being slewed,
until it is below 1/16 tick (R544, R545). -/
def timeTick (t : FabTime) : FabTime :=
  if t.trim = 1 then
    (let t1 := { t with ft := t.ft + 17 * t.rate, slew := t.slew - t.rate }
     if t1.slew < 2 ^ 32 then { t1 with trim := 0, slew := 0 } else t1)
  else if t.trim = 2 then
    (let t1 := { t with ft := t.ft + 15 * t.rate, slew := t.slew + t.rate }
     if -(2 ^ 32) < t1.slew then { t1 with trim := 0, slew := 0 } else t1)
  else { t with ft := t.ft + 16 * t.rate }

/-- SCLK runs in every phase that is powered (R615, R617): a mask written before is in force, and the inputs are sampled (R561, R574).
DESIGN CHOICE (log 45): a fatal dump under way ends with the period. -/
def clockTick (s : State) : State :=
  match s.sys.phase with
  | .off => s
  | .held => s
  | .tripped => s
  | _ => forN 6 settleFilter (masksInForce (endDump { s with sclk := s.sclk + 1, time := timeTick s.time }))

end Sys2Proof.Machine
end

