-- ==== Sys2Proof/Machine/FabricTime.lean ====
section
/-! DEFINITION. Fabric time: following the parent, and the envelopes that a forward step releases (R543 to R547). -/
namespace Sys2Proof.Machine

open Sys2Proof

/-- Following rate from the stamps of the last two exchanges: the nominal rate times the parent's ticks over the own nominal ones between them
(R545). DESIGN CHOICE (log 47): the stamps are kept to 1/16 tick, and an arrival falls on an SCLK edge. -/
def followRate (t : FabTime) (own parent : Nat) : Nat :=
  if t.lastParent = 0 ∨ own ≤ t.lastOwn then t.rate else (parent - t.lastParent) * 2 ^ 32 / (own - t.lastOwn)

/-- TIME_LOCKED after an exchange that found an offset in 1/16 ticks (R546). -/
def timeLock (off : Int) (s : State) : State :=
  let good := if off.natAbs ≤ 16 then s.time.good + 1 else 0
  let s1 := { s with time := { s.time with good := min good 3 } }
  if 64 < off.natAbs then updFx 0x04 (fun v => clrBit v 3) s1
  else if 3 ≤ good then updFx 0x04 (fun v => setBit v 3) s1 else s1

/-- Adjust toward the parent: a forward step when far behind, otherwise slewing until the offset is below 1/16 tick (R544). -/
def followParent (off : Int) (own parent : Nat) (s : State) : State :=
  let t := { s.time with rate := followRate s.time own parent, lastOwn := own, lastParent := parent }
  let t1 := if (2 ^ 24 : Int) < off then { t with ft := t.ft + off.toNat * 2 ^ 32, trim := 0, slew := 0 }
    else if 1 ≤ off then { t with trim := 1, slew := off * 2 ^ 32 }
    else if off ≤ -1 then { t with trim := 2, slew := off * 2 ^ 32 }
    else { t with trim := 0, slew := 0 }
  timeLock off { s with time := t1 }

/-- Envelopes held for a DELIVER_AT that the postmark has reached begin (R478, R547). -/
def releaseReached (s : State) : State :=
  if !pmServes s then s
  else
    let es := s.envs.filter (fun e => e.st == .heldTime && timeMet s e)
    if es.isEmpty then s else journal (forL es enterEnv s)

/-- TIME: stamps are kept for the next send; on the TIME_PARENT port a complete exchange adjusts fabric time, and a forward step releases the
envelopes that it reaches (R543 to R547). t4 is the stamp of the frame that brought the letter. -/
def execTime (port : Nat) (l : Letter) (s : State) : Host.Outcome State Fault Refusal :=
  onLetter port l 0x11 s (fun s =>
    let e1 := argField l 0 8
    let e2 := argField l 8 8
    let t3 := argField l 16 8
    let s1 := updPort s port (fun q => { q with echo1 := t3, echo2 := l.stamp })
    match s.book.bind (·.timeParent) with
    | some p =>
      if p = port ∧ e1 ≠ 0 then
        let off := (((e2 : Int) - e1) - ((l.stamp : Int) - t3)) / 2
        let s2 := followParent off (16 * l.atSclk) t3 s1
        if (2 ^ 24 : Int) < off then releaseReached s2 else s2
      else s1
    | none => s1)

end Sys2Proof.Machine
end

