-- ==== Sys2Proof/Machine/Maint.lean ====
section
/-! DEFINITION. Maintenance: MAINT activities, tile substitution, book loads, firmware updates, commits and hand-over, and the postmaster
pair (R440, R441, R522, R646 to R672). -/
namespace Sys2Proof.Machine

open Sys2Proof

/-! ### Tile substitution (R646 to R651) -/

/-- Logical number t moves to position q, and the old position is marked failed, in the soft-fuse table too (steps 3 and 4). -/
def moveTile (t q : Nat) (s : State) : State :=
  let p := physOf s t
  let s1 := updP (clearTile p s) p (fun x => { x with poweredDown := true })
  { s1 with tileMap := tset (tileHome s) s1.tileMap t q, sys := { s1.sys with softTiles := addOnce s1.sys.softTiles p } }

/-- Steps 2 to 5 for a tile that is parked and halted, or that no tenant holds. -/
def substitute (t : Nat) (s : State) : State :=
  let p := physOf s t
  let q := spareOf s (p / 17)
  let mask := tileMask (getP s p)
  match (getP s p).owner with
  | none => endFill q (dropTileReqs t (moveTile t q s))
  | some (n, i) =>
    let a := substArea s (p / 17)
    let s1 := storeCtx none a t p mask (quietChute t s)
    let c := ctxOf p n i s1
    let s2 := endFill q (dropTileReqs t (moveTile t q (dropHeld n i s1)))
    let s3 := updP s2 q (fun x => ({ x with owner := some (n, i) }).setReg 0x008 (mask.setWidth 32))
    let s4 := wakeChute t (restoreCtx none (some a) t q c mask true s3)
    if c.eng.runstate = 1 then updP s4 q (fun x => { x with eng := { x.eng with runstate := 1 } }) else s4

/-- The envelopes of MAINT that asked for the substitution of t end. -/
def answerSubst (t status result : Nat) (s : State) : State :=
  forL (s.sys.activities.filter (fun a => a.no == 5 && a.scope == some t)) (fun a s =>
    match a.place with
    | none => dropActivity 5 (some t) s
    | some p => match s.envs.find? (fun e => e.place == p && e.st == .executing && hOpcode e == 0x4B) with
      | some e => finishEnv e status result s
      | none => endActivity p s) s

/-- An activity 5 of tile t runs; one that falls due by itself is requested here (R646, R663, R668). -/
def substRuns (t : Nat) (s : State) : Bool × State :=
  if s.sys.activities.any (fun a => a.no == 5 && a.scope == some t && a.running) then (true, s)
  else if substitutionDue s t && spareFree s (physOf s t / 17) then
    match askActivity none 5 (some t) s with
    | (.runs, s1) => (true, s1)
    | (_, s1) => (false, s1)
  else (false, s)

/-- TILE_SUBSTITUTION: a substitution that is due takes its next step; without a free spare there is none (R647, R648, R650). -/
def execTileSubstitution (t : Nat) (s : State) : Host.Outcome State Fault Refusal :=
  onTile t s (fun s0 =>
    if !pmManages s0 || inReset s0 t then s0
    else
      let r := substRuns t s0
      let s := r.2
      if !r.1 then s
      else if !spareFree s (physOf s t / 17) then answerSubst t 0x0504 0xFFFF s
      else
        let q := spareOf s (physOf s t / 17)
        if (getTile s t).owner.isNone then journal (answerSubst t 0 (q % 17) (substitute t s))
        else if !(getTile s t).stops.contains 4 then updTile s t (fun tl => { tl with stops := addOnce tl.stops 4 })
        else if !readyToHalt s t then s
        else if tileHalted s t then journal (answerSubst t 0 (q % 17) (substitute t s))
        else updTile s t (fun tl => { tl.updReg 0x200 (fun v => setBit v 1) with switchRan := true }))

/-! ### MAINT (R662) -/

/-- The step of MAINT activity `code` on the envelope of a place. A code that the table does not list fails with S_RANGE. -/
def onMaint (p : Place) (code : Nat) (s : State) (k : Env → State → State) : Host.Outcome State Fault Refusal :=
  onEnv p 0x4B s (fun e s =>
    let c := argB e 0 2
    if c = 0 ∨ 9 < c then finishEnv e 4 0 s else if c = code then k e s else s)

/-- MAINT TS_REPAIR: RESULT is the spare rows left. -/
def execMaintTsRepair (p : Place) (s : State) : Host.Outcome State Fault Refusal :=
  onMaint p 1 s (fun e s =>
    let t := argB e 2 1
    let bank := argB e 3 1
    let row := argB e 4 2
    if nTiles s ≤ t ∨ 16 ≤ bank ∨ 1024 ≤ row then finishEnv e 4 0 s
    else if e.phase = 1 then
      (if bit ((getTile s t).reg 0x0E0) 31 then s else finishEnv e 0 (spareRows (getTile s t) bank) s)
    else inActivity e 3 (some t) s (fun e s =>
      putEnv e { e with phase := 1 } (tileWrite t 0x0E0 (BitVec.ofNat 32 (2 ^ 31 + bank * 2 ^ 27 + row * 2 ^ 17)) s)))

/-- The scrub cursor of a stack lies in a unit (R347, R664). -/
def scrubInUnit (s : State) (k u : Nat) : Bool := fld (hcReg s k 0x00C) 23 0 / 16 == u

/-- MAINT HBM_REPAIR: RESULT is the spare units left. -/
def execMaintHbmRepair (p : Place) (s : State) : Host.Outcome State Fault Refusal :=
  onMaint p 2 s (fun e s =>
    let k := argB e 2 1
    let pc := argB e 3 1
    let u := argB e 4 4
    if 16 ≤ k ∨ 64 ≤ pc ∨ hcUnits s ≤ u then finishEnv e 4 0 s
    else if e.phase = 1 then (if bit (hcReg s k 0x010) 31 then s else finishEnv e 0 (spareUnits s (64 * k + pc)) s)
    else inActivity e 4 (some k) s (fun e s =>
      if scrubInUnit s k u then s
      else putEnv e { e with phase := 1 } (hcWrite k 0x010 (BitVec.ofNat 32 (2 ^ 31 + pc * 2 ^ 25 + u * 2 ^ 5)) s)))

/-- MAINT TILE_SUBSTITUTE: refused without a free spare (R647); RESULT is the new position. -/
def execMaintTileSubstitute (p : Place) (s : State) : Host.Outcome State Fault Refusal :=
  onMaint p 3 s (fun e s =>
    let t := argB e 2 1
    if nTiles s ≤ t then finishEnv e 4 0 s
    else if !spareFree s (physOf s t / 17) then finishEnv e 0x0504 0xFFFF s
    else inActivity e 5 (some t) s (fun _ s => s))

/-- MAINT LANE_RETRAIN: RESULT is LANES. -/
def execMaintLaneRetrain (p : Place) (s : State) : Host.Outcome State Fault Refusal :=
  onMaint p 4 s (fun e s =>
    let q := argB e 2 1
    if 32 ≤ q then finishEnv e 4 0 s
    else if e.phase = 1 then (if bit (getPort s q).ctrl 31 then s else finishEnv e 0 (fld (getPort s q).status 11 8) s)
    else inActivity e 7 (some q) s (fun e s => putEnv e { e with phase := 1 } (portWrite q 0x08 (setBit (getPort s q).ctrl 31) s)))

/-- MAINT TS_SCRUB. -/
def execMaintTsScrub (p : Place) (s : State) : Host.Outcome State Fault Refusal :=
  onMaint p 5 s (fun e s =>
    let t := argB e 2 1
    let v : BitVec 32 := BitVec.ofNat 32 (argB e 3 1 % 2 * 2 ^ 31 + argB e 4 2)
    if (nTiles s ≤ t ∧ t ≠ 0xFF) ∨ 2 ≤ argB e 3 1 ∨ argB e 4 2 = 0 then finishEnv e 4 0 s
    else inActivity e 1 (if t = 0xFF then none else some t) s (fun e s =>
      finishEnv e 0 0 (forL (if t = 0xFF then List.range (nTiles s) else [t]) (fun u s => tileWrite u 0x0E8 v s) s)))

/-- MAINT HBM_SCRUB. -/
def execMaintHbmScrub (p : Place) (s : State) : Host.Outcome State Fault Refusal :=
  onMaint p 6 s (fun e s =>
    let k := argB e 2 1
    let rate := argB e 3 1
    if (16 ≤ k ∧ k ≠ 0xFF) ∨ 17 ≤ rate then finishEnv e 4 0 s
    else inActivity e 2 (if k = 0xFF then none else some k) s (fun e s =>
      finishEnv e 0 0 (forL (if k = 0xFF then List.range 16 else [k]) (fun j s => updHc j 0x008 (fun v => setFld v 28 24 rate) s) s)))

/-- MAINT FABRIC_RECORD: in force from the next cold or warm reset (R518, R633). -/
def execMaintFabricRecord (p : Place) (s : State) : Host.Outcome State Fault Refusal :=
  onMaint p 7 s (fun e s =>
    let v := argB e 2 2
    if v / 2 ^ 14 % 2 = 1 then finishEnv e 4 0 s
    else finishEnv e 0 0 { s with sys := { s.sys with recordNext := if v / 2 ^ 15 = 1 then none else some (BitVec.ofNat 14 v) } })

/-- MAINT DUMP_NOW: a fatal dump and the fence, and no receipt. -/
def execMaintDumpNow (p : Place) (s : State) : Host.Outcome State Fault Refusal := onMaint p 8 s (fun _ s => fatalError 1 0 s)

/-- MAINT DUMP_CLEAR (R677). -/
def execMaintDumpClear (p : Place) (s : State) : Host.Outcome State Fault Refusal :=
  onMaint p 9 s (fun e s => finishEnv e 0 0 (unmarkFlash (unmarkHbm s)))

/-! ### BOOK_LOAD (R522) -/

/-- Words of a buffer that hold n bytes, from the words read of it. -/
def bufImage (ws : List Word) (n : Nat) : List Word := sliceBytes ws 0 n

/-- Path 0 to a device in the book in force. -/
def pathZero (s : State) (dev : Nat) : Option (Nat × BitVec 40) := s.book.bind (fun b => bookPath b dev 0)

/-- BOOK_LOAD: a book for this device is checked and swapped in; one for another is sent to it, and BOOK_ACK or a dead letter ends it. -/
def execBookLoad (p : Place) (s : State) : Host.Outcome State Fault Refusal :=
  onEnv p 0x43 s (fun e s =>
    let h := argB e 0 4
    let len := argB e 4 4
    let st := bufStatus s e h
    if e.phase = 1 then s
    else if st ≠ 0 then failBuf e st s
    else if 2 ^ 20 < len then finishEnv e 0x0410 0 s
    else inActivity e 8 none s (fun e s =>
      readBuf e (bufIndex h) (cdiv len 8) s (fun bs s =>
        let ws := bufImage bs len
        let dev := imageTarget ws
        if dev = (ownId s).toNat ∧ named s then
          let r := takeBook len ws s
          finishEnv e r.1 0 r.2
        else match if named s then pathZero s dev else none with
          | none => finishEnv e 0x010E 1 s
          | some path => putEnv e { e with phase := 1, wait := s.nextXtag.toNat } (sendBook path dev p len ws s))))

/-! ### Firmware (R439 to R441, R641, R669 to R672) -/

/-- The first n bytes of words. -/
def bufBytes (ws : List Word) (n : Nat) : List (BitVec 8) := (List.range n).map (fun k => (wordAt ws (k / 8)).extractLsb' (8 * (k % 8)) 8)

/-- The lowest-numbered root that is not revoked (R439). -/
def lowestRoot (revoked : BitVec 4) : BitVec 2 :=
  if !revoked.getLsbD 0 then 0 else if !revoked.getLsbD 1 then 1 else if !revoked.getLsbD 2 then 2 else 3

/-- Boot ROM of a postmaster accepts an image: signed under the lowest-numbered unrevoked root, its SVN not below the fused one (R439, R440). -/
def verdict (s : State) (pm b : Bool) : Bool :=
  Config.imageVerifies pm (lowestRoot s.fuses.revoked) (imageWords s b) && decide (s.fuses.svn.toNat ≤ (Config.imageSvn (imageWords s b)).toNat) && s.fuses.revoked != 0xF

/-- The verdict of the postmaster that is primary, or of A. -/
def imageOk (s : State) (b : Bool) : Bool := verdict s (s.sys.stateB = 2) b

/-- FW_UPDATE: bytes of the buffer go into the inactive image; a complete one is verified (R441). -/
def execFwUpdate (p : Place) (s : State) : Host.Outcome State Fault Refusal :=
  onEnv p 0x48 s (fun e s =>
    let h := argB e 0 4
    let len := argB e 4 4
    let off := argB e 8 4
    let b := !s.sys.active
    let st := bufStatus s e h
    if st ≠ 0 then failBuf e st s
    else if 2 ^ 20 < len ∨ flashBytes b - (if b then 2 ^ 22 else 0) < off + len then finishEnv e 4 0 s
    else readBuf e (bufIndex h) (cdiv len 8) s (fun bs s =>
      let s1 := putFlash b off (bufBytes bs len) s
      let done := Config.imageComplete (imageWords s1 b)
      let ok := done && imageOk s1 b
      finishEnv e (if done && !ok then 0x0502 else 0) 0 { s1 with sys := { s1.sys with inactiveVerified := ok } }))

/-- FW_COMMIT: the fused SVN is raised to that of the running image by FC_COMMIT (R440, R641). -/
def execFwCommit (p : Place) (s : State) : Host.Outcome State Fault Refusal :=
  onEnv p 0x49 s (fun e s =>
    let v := (Config.imageSvn (imageWords s (runningImage s))).toNat
    if e.phase = 1 then (if bit (fcReg s 0x008) 31 then s else finishEnv e 0 0 s)
    else if v ≤ s.fuses.svn.toNat ∨ 64 < v then finishEnv e 0x0501 0 s
    else if bit (fcReg s 0x008) 31 then s
    else putEnv e { e with phase := 1 } (fuseWrite .pmA 0x008 (BitVec.ofNat 32 (2 ^ 31 + v)) s))

/-! ### Roles of the pair (R653 to R659) -/

def stateOf (s : State) (b : Bool) : BitVec 2 := if b then s.sys.stateB else s.sys.stateA
def setRole (b : Bool) (v : BitVec 2) (s : State) : State :=
  if b then { s with sys := { s.sys with stateB := v } } else { s with sys := { s.sys with stateA := v } }

/-- The primary, when there is one: false A, true B. -/
def primary (s : State) : Option Bool := if s.sys.stateA = 2 then some false else if s.sys.stateB = 2 then some true else none

/-- The engine of a postmaster starts at its reset entry. -/
def startPm (b image : Bool) (s : State) : State := updPm s b (fun p => { p with image := image, eng := { p.eng with runstate := 1 }, heartbeatAt := s.sclk })

/-- The other postmaster takes the primary role; a hand-over under way begins again under it (R656). -/
def takeOver (b : Bool) (s : State) : State :=
  let s1 := setRole b 2 (updFc 0xA00 (fun v => setFld v 23 16 ((fld v 23 16 + 1) % 256)) s)
  { s1 with
    sys := { s1.sys with handover := none },
    envs := s1.envs.map (fun e => if hOpcode e = 0x4A then { e with phase := 0 } else e) }

/-- A postmaster found failed is reset; a standby takes over from a primary and begins its fatal dump again, and without one the fence
engages (R655 to R660, R675). -/
def pmFails (b : Bool) (s : State) : State :=
  let was := stateOf s b
  let s1 := if was = 0 then s else failPm b s
  if (primary s1).isSome then s1
  else if stateOf s1 (!b) = 1 then restartDump b (takeOver (!b) s1)
  else leaveDump s1

/-- PM_FAILURE. A postmaster that is in reset counts as failed while no primary runs. -/
def execPmFailure (pm : Bool) (s : State) : Host.Outcome State Fault Refusal :=
  .next (if s.sys.phase != .ready || s.sys.fenced then s
    else if stateOf s pm = 0 ∧ (primary s).isSome then s else pmFails pm s)

/-- PM_HEARTBEAT: every postmaster that runs sends one (R655). -/
def execPmHeartbeat (s : State) : Host.Outcome State Fault Refusal :=
  .next (
    let one := fun (b : Bool) (s : State) => if stateOf s b = 0 then s else updPm s b (fun p => { p with heartbeatAt := s.sclk })
    if s.sys.phase == .ready then one true (one false s) else s)

/-- The hand-over fails in step 2 or 3: S boots the active image again (R671). -/
def failHandover (sb : Bool) (s : State) : State :=
  let s1 := resetPm sb { s with sys := { s.sys with handover := none } }
  match s1.envs.find? (fun e => e.st == .executing && hOpcode e == 0x4A && e.phase == 1) with
  | some e => finishEnv e 0x0502 0 s1
  | none => s1

/-- Hand-over step 7 ends: P is standby, and the new primary writes the receipt (R669, R670). -/
def endHandover (s : State) : State :=
  let s1 := { s with sys := { s.sys with handover := none } }
  match s1.envs.find? (fun e => e.st == .executing && hOpcode e == 0x4A && e.phase == 1) with
  | some e => finishEnv e 0 0 s1
  | none => s1

/-- POSTMASTER_BOOT_DONE: a postmaster in reset boots, copies the journal and becomes standby (R658); in hand-over step 2 it boots the
inactive image, in step 7 the new one. One that failed twice stays in reset. -/
def execPostmasterBootDone (pm : Bool) (s : State) : Host.Outcome State Fault Refusal :=
  .next (
    if s.sys.phase != .ready || s.sys.fenced || stateOf s pm != 0 || decide (2 ≤ (getPm s pm).failures) || (primary s).isNone then s
    else if s.sys.handover = some 2 then
      (let img := !s.sys.active
       if verdict s pm img && Config.readsJournal (imageWords s img) then
         setRole pm 1 (startPm pm img { s with sys := { s.sys with handover := some 4 } })
       else failHandover pm s)
    else
      let s1 := setRole pm 1 (startPm pm (runningImage s) s)
      if s.sys.handover = some 7 then endHandover s1 else s1)

/-- FW_HANDOVER. Step 1 waits in the conflict matrix and step 2 resets the standby S; when S has booted, steps 4 and 5 give it the primary
role and derive the Alias key of its image, and step 6 rewrites the active mark; step 7 resets P. -/
def execFwHandover (p : Place) (s : State) : Host.Outcome State Fault Refusal :=
  .next (match s.envs.find? (fun e => e.place == p && e.st == .executing && hOpcode e == 0x4A) with
    | none => s
    | some e =>
      if s.sys.phase != .ready || s.sys.fenced then s
      else match primary s with
        | none => s
        | some pb =>
          if e.phase = 0 then
            (if !pmServes s then s
             else if stateOf s (!pb) ≠ 1 ∨ !s.sys.inactiveVerified then journal (finishEnv e 0x0504 0xFFFF s)
             else journal (inActivity e 11 none s (fun e s =>
               putEnv e { e with phase := 1 } (resetPm (!pb) { s with sys := { s.sys with handover := some 2 } }))))
          else if s.sys.handover = some 4 then
            let img := (getPm s (!pb)).image
            journal (setRole pb 1 (setRole (!pb) 2 (writeKey (zeroKey s 1) 1 (aliasKeyOf s img)))
              |> fun s1 => { s1 with sys := { s1.sys with handover := some 6 } })
          else if s.sys.handover = some 6 then
            let img := (getPm s pb).image
            journal (resetPm (!pb) { s with sys := { s.sys with active := img, inactiveVerified := false, handover := some 7 } })
          else s)

end Sys2Proof.Machine
end

