-- ==== Sys2Proof/Machine/Power.lean ====
section
/-! DEFINITION. Sleep and wake, temperatures, the reset and power pins, boot, and the ends of flash operations and fuse commits
(spec 14, 16). -/
namespace Sys2Proof.Machine

open Sys2Proof

/-! ### Wake causes (R621, R625) -/

/-- A chute of the PF with CKIND wake (R555). -/
def pfWakes (s : State) : List Nat :=
  ((List.range 64).map (· + 192)).filter (fun c => let x := getChute s c; fld x.owner 31 30 == 1 && chuteKind x == 5)

/-- The causes whose chutes hold an event: W_PIN, W_FABRIC, W_CHUTE. -/
def chuteWakes (s : State) : BitVec 6 :=
  BitVec.ofNat 6 (b2n (getChute s 163).pending + 2 * b2n (getChute s 162).pending +
    4 * b2n ((pfWakes s).any (fun c => (getChute s c).pending)))

/-- SY_WAKE_EN. -/
def wakeEnabled (s : State) : BitVec 6 := (fcReg s 0x804).setWidth 6

/-- The enabled causes latched since the request latch, or that were latched and unreported before it (R623). -/
def wakesNow (s : State) : BitVec 6 := (s.sys.latched ||| chuteWakes s) &&& wakeEnabled s

def clearPending (c : Nat) (s : State) : State := updChute s c (fun x => { x with pending := false })

/-- A wake is reported: SY_WAKE_CAUSE receives the bits, and the chutes that fed them are cleared (R625). -/
def reportWake (w : BitVec 6) (s : State) : State :=
  let s1 := updFc 0x808 (fun v => v ||| w.setWidth 32) { s with sys := { s.sys with latched := 0 } }
  let s2 := if w.getLsbD 0 then clearPending 163 s1 else s1
  let s3 := if w.getLsbD 1 then clearPending 162 s2 else s2
  if w.getLsbD 2 then forL (pfWakes s3) clearPending s3 else s3

/-! ### DOZE entry and its undoing (R619, R623, R626) -/

/-- DOZE entry is raised on a tile as a deferrable cause (step D1). -/
def dozeTile (t : Nat) (s : State) : State := updTile s t (fun tl => { tl with stops := addOnce tl.stops 3 })

/-- A tile after DOZE or an aborted entry: its parked units restart unless another cause holds them, and its engine goes on if DOZE
entry halted it and nothing else wants it halted (R245, R309). -/
def wakeTile (t : Nat) (s : State) : State :=
  updTile s t (fun tl =>
    let t2 := releaseCause 3 tl
    if !t2.switchRan || t2.stops.contains 0 || t2.stops.contains 4 then t2
    else
      let t3 := { t2.updReg 0x200 (fun v => clrBit v 1) with switchRan := false }
      if t3.stops.contains 1 then t3 else { t3 with eng := { t3.eng with runstate := 1, known := t3.eng.cycles } })

/-- The DEVICE_SLEEP envelope that is served ends with its receipt, and its activity with it (R667). -/
def answerSleep (status : Nat) (result : BitVec 32) (s : State) : State :=
  match s.sys.sleepFor with
  | none => s
  | some p =>
    let s1 := endActivity p { s with sys := { s.sys with sleepFor := none } }
    match s1.envs.find? (fun e => e.place == p && e.st == .executing && hOpcode e == 0x50 && e.phase == 1) with
    | some e => finishEnv e status result.toNat s1
    | none => s1

/-- Entry is aborted: its steps are undone, the device is in RUN, and the receipt names the causes (R623). -/
def abortSleep (s : State) : State :=
  let w := wakesNow s
  let s1 := forL (List.range (nTiles s)) wakeTile { s with sys := { s.sys with doze := .run } }
  answerSleep 0x0503 (w.setWidth 32) (reportWake w s1)

/-- A tenant reset runs (R451). -/
def anyResetting (s : State) : Bool := s.tenants.any (fun kv => kv.2.st == .resetting)

/-- DEVICE_SLEEP: the request is latched once nothing that DOZE waits for runs; a wake already latched aborts it at once
(R619, R623, R451, R667). -/
def execDeviceSleep (p : Place) (s : State) : Host.Outcome State Fault Refusal :=
  onEnv p 0x50 s (fun e s =>
    if e.phase = 1 then s
    else if s.sys.doze != .run then finishEnv e 0x0504 12 s
    else inActivity e 12 none s (fun e s =>
      if anyResetting s then s
      else
        let s1 := putEnv e { e with phase := 1 } { s with
          sys := { s.sys with doze := .entering, latched := 0, sleepFor := some e.place, pastP := false } }
        let s2 := forL (List.range (nTiles s1)) dozeTile s1
        if wakesNow s2 != 0 then abortSleep s2 else s2))

/-- Step D1 on a tile that is parked: HALT_REQ, when its engine runs. -/
def haltForDoze (t : Nat) (s : State) : State :=
  if tileHalted s t then s else updTile s t (fun tl => { tl.updReg 0x200 (fun v => setBit v 1) with switchRan := true })

/-- Steps D2 to D7: granted slots and corrections complete, ports take the DOZE rate, and the device is in DOZE (R619, R620, R632). -/
def enterDoze (s : State) : State :=
  let s1 := forL (s.chans.map (·.1)) endHeld s
  let s2 := forL s1.chans (fun kv s => forL kv.2.writeBacks (writeBackLine kv.1) s) s1
  let s3 := forN 32 (fun p s => if portState s p = 3 ∨ portState s p = 5 then askRate p true s else s) s2
  { s3 with sys := { s3.sys with doze := .dozing, pastP := true, dozeAt := s3.sclk } }

/-- DOZE_ENTRY_COMPLETE: once every tile is parked and halted, and flash writes are complete, entry runs to step D7; a wake latched before
that aborts it (R619, R623, R624, R632). -/
def execDozeEntryComplete (s : State) : Host.Outcome State Fault Refusal :=
  .next (
    if s.sys.doze != .entering then s
    else if wakesNow s != 0 then abortSleep s
    else
      let ts := List.range (nTiles s)
      if !ts.all (tileParked s) then s
      else if !ts.all (tileHalted s) then forL ts haltForDoze s
      else if flashWrites s then s
      else enterDoze s)

/-- A cause is latched: it aborts entry, or begins exit (R623, R624). -/
def latchWake (c : Nat) (s : State) : State :=
  if s.sys.doze == .run || !(wakeEnabled s).getLsbD c then s
  else
    let s1 := { s with sys := { s.sys with latched := s.sys.latched ||| (1#6 <<< c) } }
    match s.sys.doze with
    | .entering => abortSleep s1
    | .dozing => { s1 with sys := { s1.sys with doze := .exiting } }
    | _ => s1

/-- WAKE_CAUSE_LATCH. Codes 6 and 7 are never reported (R621). -/
def execWakeCauseLatch (c : BitVec 3) (s : State) : Host.Outcome State Fault Refusal :=
  .next (if c.toNat < 6 then latchWake c.toNat s else s)

/-- WAKE_TIMER: MS times 100,000 SCLK after the point of no return (R621). -/
def execWakeTimer (s : State) : Host.Outcome State Fault Refusal :=
  .next (
    let ms := (fcReg s 0x80C).toNat
    if s.sys.pastP && ms != 0 && decide (s.sys.dozeAt + ms * 100000 ≤ s.sclk) then latchWake 5 s else s)

/-- WAKE: the letter wakes a device in DOZE through chute 162; otherwise it has no effect (R541). -/
def execWake (port : Nat) (l : Letter) (s : State) : Host.Outcome State Fault Refusal :=
  onLetter port l 0x18 s (fun s => if s.sys.doze == .run then s else latchWake 1 (raiseChute 162 s))

/-- A vector's elapsed times do not count DOZE (R580). -/
def shiftVec (n : Nat) (v : Vec) : Vec := { v with first := v.first + n, reached := v.reached + n, last := v.last.map (· + n) }

/-- DOZE_EXIT: the steps of exit, the events that chutes held for vectors (R580), and the receipt (R625, R626). COST leaves out the time in DOZE. -/
def execDozeExit (s : State) : Host.Outcome State Fault Refusal :=
  .next (
    let w := wakesNow s
    if s.sys.doze != .exiting && !(s.sys.doze == .dozing && w != 0) then s
    else
      let n := s.sclk - s.sys.dozeAt
      let s1 := { s with
        sys := { s.sys with doze := .run, pastP := false }
        vecs := tmap Vec.reset (shiftVec n) s.vecs
        envs := s.envs.map (fun e => { e with startedAt := e.startedAt + n }) }
      let s2 := forN 32 (fun p s => if portState s p = 5 then askRate p false s else s) s1
      let s3 := reportWake w (forL (List.range (nTiles s2)) wakeTile s2)
      answerSleep 0 (fcReg s3 0x808) (deliverAll s3))

/-! ### Temperatures (R695 to R704, R319) -/

/-- The device trips: every die but the always-on domain is in reset, HBM is lost, links are down, READY is low and THERM_ALERT_N is
asserted (R704). Chutes and input filters lie in the always-on domain. -/
def tripDevice (s : State) : State :=
  if s.sys.phase == .off || s.sys.phase == .tripped then s
  else
    let s1 := coldReset s.sys.lastReset.toNat s
    { s1 with
      chutes := s.chutes, chStatus := s.chStatus, filters := s.filters
      sys := { s1.sys with phase := .tripped, thermAlert := true, smbAlert := true } }

/-- THERMAL_TRIP: a comparator trips. -/
def execThermalTrip (s : State) : Host.Outcome State Fault Refusal := .next (tripDevice s)

def dieTemp (s : State) (d : Nat) : Nat := fld (stReg s d 0x004) 7 0
def dieLimit (s : State) (d : Nat) : Nat := fld (stReg s d 0x004) 23 16
def stackTemp (s : State) (k : Nat) : Nat := fld (hcReg s k 0x018) 7 0
def stackLimit (s : State) (k : Nat) : Nat := fld (hcReg s k 0x018) 23 16

/-- Every die and stack lies at least 5 °C below its limit (R700). -/
def allCool (s : State) : Bool :=
  (List.range 8).all (fun d => decide (dieTemp s d + 5 ≤ dieLimit s d)) &&
  (List.range 16).all (fun k => decide (stackTemp s k + 5 ≤ stackLimit s k))

/-- THERM_ALERT_N, and SMB_ALERT_N with it, after a sample that is at its limit or not (R695, R700). -/
def setAlert (hot : Bool) (s : State) : State :=
  let a := hot || (s.sys.thermAlert && !allCool s)
  { s with sys := { s.sys with thermAlert := a, smbAlert := a } }

/-- The throttle of a compute die after a sample (R701). -/
def throttleAfter (d temp : Nat) (l : List Nat) : List Nat :=
  if 110 ≤ temp then addOnce l d else if temp ≤ 105 then dropAll l d else l

/-- THERM_ALARM is set, and raises its chute when it was 0 (R679). -/
def setAlarm (d : Nat) (s : State) : State :=
  let s1 := updSt d 0 (fun v => setBit v 1) s
  if bit (stReg s d 0) 1 then s1 else chuteEvent (153 + d) s1

/-- THERMAL_SAMPLE: the steward of a die reports its hottest reading; a die at 120 °C trips (R698 to R704). -/
def execThermalSample (die : Nat) (temp : BitVec 8) (s : State) : Host.Outcome State Fault Refusal :=
  onUnit (decide (die < 8)) s (fun s =>
    if !powered s then s
    else
      let n := temp.toNat
      let s1 := updSt die 0x004 (fun v => setFld v 7 0 n) s
      let hot := decide (dieLimit s1 die ≤ n)
      let s2 := setAlert hot (if hot then setAlarm die s1 else s1)
      let s3 := { s2 with sys := { s2.sys with throttled := throttleAfter die n s2.sys.throttled } }
      if 120 ≤ n then tripDevice s3 else s3)

/-- STACK_TEMP_READ: the temperature is read, HOT is set at the limit, and a stack at 105 °C trips (R319, R362, R700, R704). -/
def execStackTempRead (stack : Nat) (temp : BitVec 8) (s : State) : Host.Outcome State Fault Refusal :=
  onUnit (decide (stack < 16)) s (fun s =>
    if !postCyclesRun s then s
    else
      let n := temp.toNat
      let s1 := updHc stack 0x018 (fun v => setFld v 7 0 n) s
      let hot := decide (stackLimit s1 stack ≤ n)
      let s2 := setAlert hot (if hot then hcSetStatus stack 6 s1 else s1)
      if 105 ≤ n then tripDevice s2 else s2)

/-! ### Pins (R614, R683, R688, R689) -/

/-- PWR_GOOD rises: a cold reset (R634). -/
def execPwrGoodRise (s : State) : Host.Outcome State Fault Refusal :=
  .next (if s.sys.pwrGood then s else coldReset 0 { s with sys := { s.sys with pwrGood := true } })

/-- PWR_GOOD falls: the device is held in reset, READY is low, FENCED_N and THERM_ALERT_N are released, and contents are lost (R688). -/
def execPwrGoodFall (s : State) : Host.Outcome State Fault Refusal :=
  .next (if s.sys.pwrGood then coldReset s.sys.lastReset.toNat { s with sys := { s.sys with pwrGood := false } } else s)

/-- PERST_N is asserted: held in cold reset. Without power, and after a trip, only PWR_GOOD counts (R688, R689, R704). -/
def execPerstNAssert (s : State) : Host.Outcome State Fault Refusal :=
  .next (
    let s1 := { s with sys := { s.sys with perstN := false } }
    if !s.sys.perstN || s.sys.phase == .off || s.sys.phase == .tripped then s1 else coldReset 2 s1)

/-- PERST_N is deasserted: boot begins (R689). -/
def execPerstNDeassert (s : State) : Host.Outcome State Fault Refusal :=
  .next (
    let y := { s.sys with perstN := true }
    { s with sys := if s.sys.phase == .held then { y with phase := pinPhase y } else y })

/-- The root PLL loses lock: a cold reset (R614). -/
def execPllLossOfLock (s : State) : Host.Outcome State Fault Refusal := .next (requestCold 1 s)

/-- A PCIe hot reset or link-down reset: a cold reset (R631). -/
def execPcieHotReset (s : State) : Host.Outcome State Fault Refusal := .next (requestCold 3 s)

/-! ### Boot (R634 to R638) -/

/-- The image that the boot ROMs start: the active one, or, when both refuse it, the other; none when their verdicts differ (R439, R441,
R635). -/
def bootImage (s : State) : Option Bool :=
  let try_ := fun (b : Bool) (next : Option Bool) =>
    if verdict s false b != verdict s true b then none else if verdict s false b then some b else next
  try_ s.sys.active (try_ (!s.sys.active) none)

/-- A fuse of a tile row, hard or soft, takes a spare of its bank, also where an earlier one of the same row has retired a spare (R67,
R71, R74); without a spare it is not applied and is logged (R68). -/
def applyRow (f : Nat × Nat) (s : State) : State :=
  let t := getP s f.1
  let b := f.2 / 1024
  if spareRows t b = 0 then logEvent 0x0068 f.1 s
  else updP s f.1 (fun t => { t with
    sparesUsed := tset (fun _ => 0) t.sparesUsed b (tget (fun _ => 0) t.sparesUsed b + 1), spared := addOnce t.spared f.2 })

/-- The row map is formed anew: the hard fuse map, then the soft-fuse table (R67). -/
def applyRows (s : State) : State :=
  let s1 := { s with tiles := tmap Tile.reset (fun t => { t with sparesUsed := [], spared := [] }) s.tiles }
  forL s.sys.softRows applyRow (forL s.fuses.hardRows applyRow s1)

/-- A soft fuse of an HBM unit during the training of a cold boot (R355): a hard repair where the stack has a resource for the cells, which
takes the fuse from the table; otherwise a spare unit. -/
def applySoftUnit (f : Nat × Nat) (s : State) : State :=
  if Config.hardRepair f.1 f.2 s.free then
    { s with free := s.free + 1, sys := { s.sys with softUnits := s.sys.softUnits.erase f },
             fuses := { s.fuses with hardUnits := s.fuses.hardUnits ++ [f] } }
  else if spareUnits s f.1 == 0 then tick s
  else updChan (tick s) f.1 (fun c => { c with sparesUsed := c.sparesUsed + 1, spared := addOnce c.spared f.2 })

/-- The reset that boot follows was a cold one: a warm device reset replaces HBM training, and applies no repair there (R636). -/
def coldBoot (s : State) : Bool := decide (s.sys.lastReset.toNat < 6)

/-- A failed tile is left out, and its number moves to the spare of its die (R67, R651). -/
def applySoftTile (p : Nat) (s : State) : State :=
  let s1 := updP s p (fun t => { t with poweredDown := true })
  match (List.range (nTiles s)).find? (fun t => tileHome s t == p) with
  | some t => { s1 with tileMap := tset (tileHome s) s1.tileMap t (spareOf s (p / 17)) }
  | none => s1

/-- Once fuses are loaded, and whether or not an image verifies, the key engine writes the DeviceID key and the storage key and locks the UDS;
the DRBG's health tests have run, and the postmaster's contexts are bound (R414, R424, R427, R634, R644). -/
def bootIdentity (s : State) : State :=
  if bit (ksReg s 0) 0 then s
  else
    let k := fun (i : Nat) (v : Key) (s : State) => writeKey (destroyKey i s) i v
    let s1 := forN 16 (fun i s => setCtx (4096 + i) (.pm i) s) (k 2 .storage (k 0 .deviceId s))
    setKs 0 (setBit (setBit (ksReg s1 0) 0) 2) (updFc 0 (fun v => setBit v 1) s1)

/-- What start-up restores from the journal: the plan, switched in at the first post-cycle boundary, and the book (R636). -/
def restoreJournal (s : State) : State :=
  let s1 := match s.sys.planKept with
    | some pl => { s with nextPlan := some (pl, none), sys := { s.sys with planKept := none } }
    | none => s
  match s1.sys.bookKept with
  | some ws => swapBook ws { s1 with sys := { s1.sys with bookKept := none } }
  | none => s1

/-- Boot has run with an image: spares, the Alias key, both postmasters started, the journal restored, READY. The Alias key is derived before HBM
training makes hard repairs (R634). -/
def bootWith (img : Bool) (s : State) : State :=
  let s0 := applyRows s
  let s1 := forL s.sys.softTiles applySoftTile (if coldBoot s then forL s.sys.softUnits applySoftUnit s0 else s0)
  let s2 := updFl 0 (fun v => setBit (setBit v 1) 2) (writeKey (destroyKey 1 s1) 1 (aliasKeyOf s img))
  let s3 := setRole true 1 (setRole false 2 (startPm true img (startPm false img s2)))
  restoreJournal { s3 with sys := { s3.sys with phase := .ready, ready := true, root := lowestRoot s.fuses.revoked } }

/-- BOOT_READY: boot ends with READY when an image verifies and the fuses loaded; otherwise the device stays not ready
(R441, R634 to R636). -/
def execBootReady (s : State) : Host.Outcome State Fault Refusal :=
  .next (
    if s.sys.phase != .booting || bit (fcReg s 0) 2 then s
    else match bootImage s with
      | some img => bootWith img (bootIdentity s)
      | none => bootIdentity s)

/-! ### Flash and fuses (R641, R642) -/

/-- FLASH_OPERATION_DONE: the operation has taken effect, or failed and set ERROR; GO and BUSY are cleared (R642). -/
def execFlashOperationDone (ok : Bool) (s : State) : Host.Outcome State Fault Refusal :=
  .next (
    if !flashBusy s || !powered s then s
    else
      let s1 := updFl 4 (fun v => clrBit v 31) (updFl 0 (fun v => clrBit v 0) (if ok then performFlash s else tearFlash s))
      if ok then s1 else updFl 0 (fun v => setBit v 3) s1)

/-- FUSE_COMMIT_DONE: the fused SVN is TARGET, and GO and BUSY are cleared (R641). -/
def execFuseCommitDone (s : State) : Host.Outcome State Fault Refusal :=
  .next (
    let v := fcReg s 0x008
    if !bit v 31 || !powered s then s
    else updFc 0 (fun x => clrBit x 0) (setFc 0x008 (clrBit v 31) { s with fuses := { s.fuses with svn := BitVec.ofNat 7 (fld v 6 0) } }))

end Sys2Proof.Machine
end

