-- ==== Sys2Proof/Machine/Short.lean ====
section
/-! DEFINITION. The short operations as words of their own: half A of a pair whose half B is NOP (R101, R113), and the pair
word itself. -/
namespace Sys2Proof.Machine

open Sys2Proof

/-- INSTRUCTION_PAIR: two short operations in one word (R106 to R110). -/
def execInstructionPair (e : EngineId) (a b : ShortOp) (s : State) : Host.Outcome State Fault Refusal := runPair e a b s

/-- NOP: Does nothing for 2 cycles (R113). -/
def execNop (e : EngineId) (s : State) : Host.Outcome State Fault Refusal := runPair e .nop .nop s

/-- DUP: Copies T (R113). -/
def execDup (e : EngineId) (s : State) : Host.Outcome State Fault Refusal := runPair e .dup .nop s

/-- DROP: Discards T (R113). -/
def execDrop (e : EngineId) (s : State) : Host.Outcome State Fault Refusal := runPair e .drop .nop s

/-- SWAP: Exchanges T and S1 (R113). -/
def execSwap (e : EngineId) (s : State) : Host.Outcome State Fault Refusal := runPair e .swap .nop s

/-- OVER: Copies S1 (R113). -/
def execOver (e : EngineId) (s : State) : Host.Outcome State Fault Refusal := runPair e .over .nop s

/-- ROT: Rotates the top three entries (R113). -/
def execRot (e : EngineId) (s : State) : Host.Outcome State Fault Refusal := runPair e .rot .nop s

/-- NIP: Discards S1 (R113). -/
def execNip (e : EngineId) (s : State) : Host.Outcome State Fault Refusal := runPair e .nip .nop s

/-- PICK: Copies the entry n below T (R113). -/
def execPick (e : EngineId) (n : BitVec 4) (s : State) : Host.Outcome State Fault Refusal := runPair e (.pick n) .nop s

/-- SLIT: Pushes IMM as INT (R113). -/
def execSlit (e : EngineId) (imm : BitVec 9) (s : State) : Host.Outcome State Fault Refusal := runPair e (.slit imm) .nop s

/-- SADDI: T + IMM with the add flags (R111, R113). -/
def execSaddi (e : EngineId) (imm : BitVec 9) (s : State) : Host.Outcome State Fault Refusal := runPair e (.saddi imm) .nop s

/-- ADD: S1 + T (R111, R113). -/
def execAdd (e : EngineId) (s : State) : Host.Outcome State Fault Refusal := runPair e .add .nop s

/-- ADC: S1 + T + C (R111, R113). -/
def execAdc (e : EngineId) (s : State) : Host.Outcome State Fault Refusal := runPair e .adc .nop s

/-- SUB: S1 − T (R111, R113). -/
def execSub (e : EngineId) (s : State) : Host.Outcome State Fault Refusal := runPair e .sub .nop s

/-- SBC: S1 + NOT T + C (R111, R113). -/
def execSbc (e : EngineId) (s : State) : Host.Outcome State Fault Refusal := runPair e .sbc .nop s

/-- AND: S1 AND T (R111, R113). -/
def execAnd (e : EngineId) (s : State) : Host.Outcome State Fault Refusal := runPair e .and .nop s

/-- OR: S1 OR T (R111, R113). -/
def execOr (e : EngineId) (s : State) : Host.Outcome State Fault Refusal := runPair e .or .nop s

/-- XOR: S1 XOR T (R111, R113). -/
def execXor (e : EngineId) (s : State) : Host.Outcome State Fault Refusal := runPair e .xor .nop s

/-- NOT: NOT T (R111, R113). -/
def execNot (e : EngineId) (s : State) : Host.Outcome State Fault Refusal := runPair e .not .nop s

/-- NEG: 0 − T (R111, R113). -/
def execNeg (e : EngineId) (s : State) : Host.Outcome State Fault Refusal := runPair e .neg .nop s

/-- CMP: Flags of S1 − T (R111, R113). -/
def execCmp (e : EngineId) (s : State) : Host.Outcome State Fault Refusal := runPair e .cmp .nop s

/-- TST: Flags of T (R111, R113). -/
def execTst (e : EngineId) (s : State) : Host.Outcome State Fault Refusal := runPair e .tst .nop s

/-- CLZ: Leading zero bits of T (R89, R113). -/
def execClz (e : EngineId) (s : State) : Host.Outcome State Fault Refusal := runPair e .clz .nop s

/-- POPC: One bits of T (R89, R113). -/
def execPopc (e : EngineId) (s : State) : Host.Outcome State Fault Refusal := runPair e .popc .nop s

/-- SHL: Shift left (R111, R116). -/
def execShl (e : EngineId) (count : BitVec 6) (s : State) : Host.Outcome State Fault Refusal := runPair e (.shl count) .nop s

/-- SHR: Logical shift right (R116). -/
def execShr (e : EngineId) (count : BitVec 6) (s : State) : Host.Outcome State Fault Refusal := runPair e (.shr count) .nop s

/-- SAR: Arithmetic shift right (R116). -/
def execSar (e : EngineId) (count : BitVec 6) (s : State) : Host.Outcome State Fault Refusal := runPair e (.sar count) .nop s

/-- ROL: Rotate left (R111). -/
def execRol (e : EngineId) (count : BitVec 6) (s : State) : Host.Outcome State Fault Refusal := runPair e (.rol count) .nop s

/-- TOX: X ← T (R89, R113). -/
def execTox (e : EngineId) (s : State) : Host.Outcome State Fault Refusal := runPair e .tox .nop s

/-- TOY: Y ← T (R89, R113). -/
def execToy (e : EngineId) (s : State) : Host.Outcome State Fault Refusal := runPair e .toy .nop s

/-- FROMX: Pushes X as INT (R113). -/
def execFromx (e : EngineId) (s : State) : Host.Outcome State Fault Refusal := runPair e .fromx .nop s

/-- FROMY: Pushes Y as INT (R113). -/
def execFromy (e : EngineId) (s : State) : Host.Outcome State Fault Refusal := runPair e .fromy .nop s

/-- XADD: X + IMM (R113). -/
def execXadd (e : EngineId) (imm : BitVec 9) (s : State) : Host.Outcome State Fault Refusal := runPair e (.xadd imm) .nop s

/-- YADD: Y + IMM (R113). -/
def execYadd (e : EngineId) (imm : BitVec 9) (s : State) : Host.Outcome State Fault Refusal := runPair e (.yadd imm) .nop s

/-- XCMP: Flags of X − IMM (R111). -/
def execXcmp (e : EngineId) (imm : BitVec 9) (s : State) : Host.Outcome State Fault Refusal := runPair e (.xcmp imm) .nop s

/-- YCMP: Flags of Y − IMM (R111). -/
def execYcmp (e : EngineId) (imm : BitVec 9) (s : State) : Host.Outcome State Fault Refusal := runPair e (.ycmp imm) .nop s

/-- AADD: Adds T bytes to an ADDR (R94). -/
def execAadd (e : EngineId) (s : State) : Host.Outcome State Fault Refusal := runPair e .aadd .nop s

/-- AOFF: OFFSET of an ADDR (R113). -/
def execAoff (e : EngineId) (s : State) : Host.Outcome State Fault Refusal := runPair e .aoff .nop s

/-- ASEG: SEG of an ADDR (R113). -/
def execAseg (e : EngineId) (s : State) : Host.Outcome State Fault Refusal := runPair e .aseg .nop s

/-- ADIFF: Difference of two ADDR offsets (R115). -/
def execAdiff (e : EngineId) (s : State) : Host.Outcome State Fault Refusal := runPair e .adiff .nop s

/-- TOINT: Retag as INT (R114). -/
def execToint (e : EngineId) (s : State) : Host.Outcome State Fault Refusal := runPair e .toint .nop s

/-- TORAW: Retag as RAW (R114). -/
def execToraw (e : EngineId) (s : State) : Host.Outcome State Fault Refusal := runPair e .toraw .nop s

/-- TOFLT: Retag as FLT (R114). -/
def execToflt (e : EngineId) (s : State) : Host.Outcome State Fault Refusal := runPair e .toflt .nop s

/-- TAGOF: Pushes the tag of T (R113). -/
def execTagof (e : EngineId) (s : State) : Host.Outcome State Fault Refusal := runPair e .tagof .nop s

/-- DSET: Sets up a division (R121). -/
def execDset (e : EngineId) (s : State) : Host.Outcome State Fault Refusal := runPair e .dset .nop s

/-- DSTEP: One division step (R122). -/
def execDstep (e : EngineId) (s : State) : Host.Outcome State Fault Refusal := runPair e .dstep .nop s

end Sys2Proof.Machine
end

