-- ==== Sys2Proof/Machine/Dispatch.lean ====
section
/-! DEFINITION. The dispatch: one arm per command, each one direct call of the command's meaning. -/
namespace Sys2Proof.Machine

open Sys2Proof

def exec (i : Instr) (s : State) : Host.Outcome State Fault Refusal :=
  match i with
  | .lit e imm => Sys2Proof.Machine.execLit e imm s
  | .litr e imm => Sys2Proof.Machine.execLitr e imm s
  | .lits e imm => Sys2Proof.Machine.execLits e imm s
  | .segref e seg off => Sys2Proof.Machine.execSegref e seg off s
  | .aaddi e imm => Sys2Proof.Machine.execAaddi e imm s
  | .ld e m => Sys2Proof.Machine.execLd e m s
  | .st e m => Sys2Proof.Machine.execSt e m s
  | .ldx e m => Sys2Proof.Machine.execLdx e m s
  | .ldy e m => Sys2Proof.Machine.execLdy e m s
  | .stx e m => Sys2Proof.Machine.execStx e m s
  | .sty e m => Sys2Proof.Machine.execSty e m s
  | .lda e imm => Sys2Proof.Machine.execLda e imm s
  | .sta e imm => Sys2Proof.Machine.execSta e imm s
  | .rdsr e sel => Sys2Proof.Machine.execRdsr e sel s
  | .wrsr e sel => Sys2Proof.Machine.execWrsr e sel s
  | .addi e imm => Sys2Proof.Machine.execAddi e imm s
  | .andi e imm => Sys2Proof.Machine.execAndi e imm s
  | .ori e imm => Sys2Proof.Machine.execOri e imm s
  | .xori e imm => Sys2Proof.Machine.execXori e imm s
  | .cmpi e imm => Sys2Proof.Machine.execCmpi e imm s
  | .mul e => Sys2Proof.Machine.execMul e s
  | .mulhu e => Sys2Proof.Machine.execMulhu e s
  | .mulhs e => Sys2Proof.Machine.execMulhs e s
  | .exti e sx pos wm1 => Sys2Proof.Machine.execExti e sx pos wm1 s
  | .insi e sx pos wm1 => Sys2Proof.Machine.execInsi e sx pos wm1 s
  | .ext e => Sys2Proof.Machine.execExt e s
  | .ins e => Sys2Proof.Machine.execIns e s
  | .bperm e => Sys2Proof.Machine.execBperm e s
  | .movw e dir => Sys2Proof.Machine.execMovw e dir s
  | .fillw e dir => Sys2Proof.Machine.execFillw e dir s
  | .vwait e mask => Sys2Proof.Machine.execVwait e mask s
  | .vfence e => Sys2Proof.Machine.execVfence e s
  | .rload e => Sys2Proof.Machine.execRload e s
  | .rcall e => Sys2Proof.Machine.execRcall e s
  | .rwait e => Sys2Proof.Machine.execRwait e s
  | .vmake e => Sys2Proof.Machine.execVmake e s
  | .vsetl e => Sys2Proof.Machine.execVsetl e s
  | .esend e => Sys2Proof.Machine.execEsend e s
  | .br e f => Sys2Proof.Machine.execBr e f s
  | .bz e f => Sys2Proof.Machine.execBz e f s
  | .bnz e f => Sys2Proof.Machine.execBnz e f s
  | .bn e f => Sys2Proof.Machine.execBn e f s
  | .bnn e f => Sys2Proof.Machine.execBnn e f s
  | .bc e f => Sys2Proof.Machine.execBc e f s
  | .bnc e f => Sys2Proof.Machine.execBnc e f s
  | .bv e f => Sys2Proof.Machine.execBv e f s
  | .bnv e f => Sys2Proof.Machine.execBnv e f s
  | .bgt e f => Sys2Proof.Machine.execBgt e f s
  | .ble e f => Sys2Proof.Machine.execBle e f s
  | .bge e f => Sys2Proof.Machine.execBge e f s
  | .blt e f => Sys2Proof.Machine.execBlt e f s
  | .bhi e f => Sys2Proof.Machine.execBhi e f s
  | .bls e f => Sys2Proof.Machine.execBls e f s
  | .bxnz e f => Sys2Proof.Machine.execBxnz e f s
  | .call e f => Sys2Proof.Machine.execCall e f s
  | .calla e => Sys2Proof.Machine.execCalla e s
  | .ret e => Sys2Proof.Machine.execRet e s
  | .trap e code => Sys2Proof.Machine.execTrap e code s
  | .fret e => Sys2Proof.Machine.execFret e s
  | .seal e => Sys2Proof.Machine.execSeal e s
  | .unseal e => Sys2Proof.Machine.execUnseal e s
  | .halt e => Sys2Proof.Machine.execHalt e s
  | .mxrd e => Sys2Proof.Machine.execMxrd e s
  | .mxwr e => Sys2Proof.Machine.execMxwr e s
  | .mxlock e => Sys2Proof.Machine.execMxlock e s
  | .mxunlk e => Sys2Proof.Machine.execMxunlk e s
  | .kref e slot => Sys2Proof.Machine.execKref e slot s
  | .kzero e => Sys2Proof.Machine.execKzero e s
  | .kbind e => Sys2Proof.Machine.execKbind e s
  | .instructionPair e a b => Sys2Proof.Machine.execInstructionPair e a b s
  | .nop e => Sys2Proof.Machine.execNop e s
  | .dup e => Sys2Proof.Machine.execDup e s
  | .drop e => Sys2Proof.Machine.execDrop e s
  | .swap e => Sys2Proof.Machine.execSwap e s
  | .over e => Sys2Proof.Machine.execOver e s
  | .rot e => Sys2Proof.Machine.execRot e s
  | .nip e => Sys2Proof.Machine.execNip e s
  | .pick e n => Sys2Proof.Machine.execPick e n s
  | .slit e imm => Sys2Proof.Machine.execSlit e imm s
  | .saddi e imm => Sys2Proof.Machine.execSaddi e imm s
  | .add e => Sys2Proof.Machine.execAdd e s
  | .adc e => Sys2Proof.Machine.execAdc e s
  | .sub e => Sys2Proof.Machine.execSub e s
  | .sbc e => Sys2Proof.Machine.execSbc e s
  | .and e => Sys2Proof.Machine.execAnd e s
  | .or e => Sys2Proof.Machine.execOr e s
  | .xor e => Sys2Proof.Machine.execXor e s
  | .not e => Sys2Proof.Machine.execNot e s
  | .neg e => Sys2Proof.Machine.execNeg e s
  | .cmp e => Sys2Proof.Machine.execCmp e s
  | .tst e => Sys2Proof.Machine.execTst e s
  | .clz e => Sys2Proof.Machine.execClz e s
  | .popc e => Sys2Proof.Machine.execPopc e s
  | .shl e count => Sys2Proof.Machine.execShl e count s
  | .shr e count => Sys2Proof.Machine.execShr e count s
  | .sar e count => Sys2Proof.Machine.execSar e count s
  | .rol e count => Sys2Proof.Machine.execRol e count s
  | .tox e => Sys2Proof.Machine.execTox e s
  | .toy e => Sys2Proof.Machine.execToy e s
  | .fromx e => Sys2Proof.Machine.execFromx e s
  | .fromy e => Sys2Proof.Machine.execFromy e s
  | .xadd e imm => Sys2Proof.Machine.execXadd e imm s
  | .yadd e imm => Sys2Proof.Machine.execYadd e imm s
  | .xcmp e imm => Sys2Proof.Machine.execXcmp e imm s
  | .ycmp e imm => Sys2Proof.Machine.execYcmp e imm s
  | .aadd e => Sys2Proof.Machine.execAadd e s
  | .aoff e => Sys2Proof.Machine.execAoff e s
  | .aseg e => Sys2Proof.Machine.execAseg e s
  | .adiff e => Sys2Proof.Machine.execAdiff e s
  | .toint e => Sys2Proof.Machine.execToint e s
  | .toraw e => Sys2Proof.Machine.execToraw e s
  | .toflt e => Sys2Proof.Machine.execToflt e s
  | .tagof e => Sys2Proof.Machine.execTagof e s
  | .dset e => Sys2Proof.Machine.execDset e s
  | .dstep e => Sys2Proof.Machine.execDstep e s
  | .asyncFaultEntry e => Sys2Proof.Machine.execAsyncFaultEntry e s
  | .sealOverrun e => Sys2Proof.Machine.execSealOverrun e s
  | .engineHalt e => Sys2Proof.Machine.execEngineHalt e s
  | .storeBufferDrain e => Sys2Proof.Machine.execStoreBufferDrain e s
  | .descriptorInvalidate t => Sys2Proof.Machine.execDescriptorInvalidate t s
  | .vadd e id md => Sys2Proof.Machine.execVadd e id md s
  | .vsub e id md => Sys2Proof.Machine.execVsub e id md s
  | .vmul e id md => Sys2Proof.Machine.execVmul e id md s
  | .vfma e id md => Sys2Proof.Machine.execVfma e id md s
  | .vfms e id md => Sys2Proof.Machine.execVfms e id md s
  | .vfnma e id md => Sys2Proof.Machine.execVfnma e id md s
  | .vfnms e id md => Sys2Proof.Machine.execVfnms e id md s
  | .vmin e id md => Sys2Proof.Machine.execVmin e id md s
  | .vmax e id md => Sys2Proof.Machine.execVmax e id md s
  | .vabs e id md => Sys2Proof.Machine.execVabs e id md s
  | .vneg e id md => Sys2Proof.Machine.execVneg e id md s
  | .vcmp e id md => Sys2Proof.Machine.execVcmp e id md s
  | .vcvt e id md => Sys2Proof.Machine.execVcvt e id md s
  | .vrcpe e id md => Sys2Proof.Machine.execVrcpe e id md s
  | .vrsqe e id md => Sys2Proof.Machine.execVrsqe e id md s
  | .vrcps e id md => Sys2Proof.Machine.execVrcps e id md s
  | .vrsqs e id md => Sys2Proof.Machine.execVrsqs e id md s
  | .vand e id md => Sys2Proof.Machine.execVand e id md s
  | .vor e id md => Sys2Proof.Machine.execVor e id md s
  | .vxor e id md => Sys2Proof.Machine.execVxor e id md s
  | .vnot e id md => Sys2Proof.Machine.execVnot e id md s
  | .vshl e id md => Sys2Proof.Machine.execVshl e id md s
  | .vshr e id md => Sys2Proof.Machine.execVshr e id md s
  | .vsar e id md => Sys2Proof.Machine.execVsar e id md s
  | .vsel e id md => Sys2Proof.Machine.execVsel e id md s
  | .vcopy e id md => Sys2Proof.Machine.execVcopy e id md s
  | .vgather e id md => Sys2Proof.Machine.execVgather e id md s
  | .vscatter e id md => Sys2Proof.Machine.execVscatter e id md s
  | .vcompress e id md => Sys2Proof.Machine.execVcompress e id md s
  | .vexpand e id md => Sys2Proof.Machine.execVexpand e id md s
  | .vscan e id md => Sys2Proof.Machine.execVscan e id md s
  | .vred e id md => Sys2Proof.Machine.execVred e id md s
  | .vsegred e id md => Sys2Proof.Machine.execVsegred e id md s
  | .vpermb e id md => Sys2Proof.Machine.execVpermb e id md s
  | .vperme e id md => Sys2Proof.Machine.execVperme e id md s
  | .vtrans e id md => Sys2Proof.Machine.execVtrans e id md s
  | .vload e id md => Sys2Proof.Machine.execVload e id md s
  | .vstore e id md => Sys2Proof.Machine.execVstore e id md s
  | .vectorStart t => Sys2Proof.Machine.execVectorStart t s
  | .stripCommit t id u => Sys2Proof.Machine.execStripCommit t id u s
  | .thirdPass t id w => Sys2Proof.Machine.execThirdPass t id w s
  | .chargeWindowClose t pipe => Sys2Proof.Machine.execChargeWindowClose t pipe s
  | .deferredCauseAct t => Sys2Proof.Machine.execDeferredCauseAct t s
  | .pipeWakeDone t pipe => Sys2Proof.Machine.execPipeWakeDone t pipe s
  | .pipeSleep t pipe => Sys2Proof.Machine.execPipeSleep t pipe s
  | .roundWindow0Start t ups => Sys2Proof.Machine.execRoundWindow0Start t ups s
  | .roundWindowStart t ups => Sys2Proof.Machine.execRoundWindowStart t ups s
  | .postboxFetchDone t token => Sys2Proof.Machine.execPostboxFetchDone t token s
  | .roundEnd t => Sys2Proof.Machine.execRoundEnd t s
  | .postCycleBoundary => Sys2Proof.Machine.execPostCycleBoundary s
  | .counterSlot pc pos => Sys2Proof.Machine.execCounterSlot pc pos s
  | .atomicLineWrite pc => Sys2Proof.Machine.execAtomicLineWrite pc s
  | .hbmRefresh pc pos => Sys2Proof.Machine.execHbmRefresh pc pos s
  | .hbmScrubPosition stack pos => Sys2Proof.Machine.execHbmScrubPosition stack pos s
  | .hbmCorrectionWriteback pc => Sys2Proof.Machine.execHbmCorrectionWriteback pc s
  | .hbmPoisonRewrite pc => Sys2Proof.Machine.execHbmPoisonRewrite pc s
  | .hbmRepairDone stack => Sys2Proof.Machine.execHbmRepairDone stack s
  | .stackTempRead stack temp => Sys2Proof.Machine.execStackTempRead stack temp s
  | .tileScrubAttempt t => Sys2Proof.Machine.execTileScrubAttempt t s
  | .tsCorrectionWriteback t bank => Sys2Proof.Machine.execTsCorrectionWriteback t bank s
  | .tileRowRepair t => Sys2Proof.Machine.execTileRowRepair t s
  | .fillDone t => Sys2Proof.Machine.execFillDone t s
  | .tsFillGo m t => Sys2Proof.Machine.execTsFillGo m t s
  | .tsRepairGo m t bank row => Sys2Proof.Machine.execTsRepairGo m t bank row s
  | .tsClogClear m t => Sys2Proof.Machine.execTsClogClear m t s
  | .tsInjectArm m t bank row word => Sys2Proof.Machine.execTsInjectArm m t bank row word s
  | .tsUeSeenClear m t => Sys2Proof.Machine.execTsUeSeenClear m t s
  | .txStart m t haltReq => Sys2Proof.Machine.execTxStart m t haltReq s
  | .txHaltReq m t => Sys2Proof.Machine.execTxHaltReq m t s
  | .txDinvGo m t all seg => Sys2Proof.Machine.execTxDinvGo m t all seg s
  | .tvAbortedClear m t => Sys2Proof.Machine.execTvAbortedClear m t s
  | .trSheetsFree m t free => Sys2Proof.Machine.execTrSheetsFree m t free s
  | .tfCtrlWrite m t data => Sys2Proof.Machine.execTfCtrlWrite m t data s
  | .tfLogClear m t => Sys2Proof.Machine.execTfLogClear m t s
  | .hcRepairGo m stack pc unit => Sys2Proof.Machine.execHcRepairGo m stack pc unit s
  | .hcClogClear m stack => Sys2Proof.Machine.execHcClogClear m stack s
  | .hcInjectArm m stack pc line => Sys2Proof.Machine.execHcInjectArm m stack pc line s
  | .hcUeSeenClear m stack => Sys2Proof.Machine.execHcUeSeenClear m stack s
  | .mbLetterbox f bag data => Sys2Proof.Machine.execMbLetterbox f bag data s
  | .mbCfgWrite f bag data => Sys2Proof.Machine.execMbCfgWrite f bag data s
  | .mbTrayHeadWrite f bag data => Sys2Proof.Machine.execMbTrayHeadWrite f bag data s
  | .pairLoRead m addr => Sys2Proof.Machine.execPairLoRead m addr s
  | .atomicFetchAdd m t data => Sys2Proof.Machine.execAtomicFetchAdd m t data s
  | .atomicCompareSwap m t data => Sys2Proof.Machine.execAtomicCompareSwap m t data s
  | .atomicSwap m t data => Sys2Proof.Machine.execAtomicSwap m t data s
  | .fpRetrain m port => Sys2Proof.Machine.execFpRetrain m port s
  | .fxWakeGo m device => Sys2Proof.Machine.execFxWakeGo m device s
  | .chOwnerWrite m c data => Sys2Proof.Machine.execChOwnerWrite m c data s
  | .chSignal m c => Sys2Proof.Machine.execChSignal m c s
  | .chPendingClear m c => Sys2Proof.Machine.execChPendingClear m c s
  | .chCfgWrite m c data => Sys2Proof.Machine.execChCfgWrite m c data s
  | .icFilterWrite m input data => Sys2Proof.Machine.execIcFilterWrite m input data s
  | .vcCoalWrite f v data => Sys2Proof.Machine.execVcCoalWrite f v data s
  | .msixVectorUnmask f v => Sys2Proof.Machine.execMsixVectorUnmask f v s
  | .fcCommitGo m target => Sys2Proof.Machine.execFcCommitGo m target s
  | .flashRead m dev count => Sys2Proof.Machine.execFlashRead m dev count s
  | .flashProgram m dev count => Sys2Proof.Machine.execFlashProgram m dev count s
  | .flashErase m dev count => Sys2Proof.Machine.execFlashErase m dev count s
  | .pmFenceGo m => Sys2Proof.Machine.execPmFenceGo m s
  | .cmTimeoutClear m => Sys2Proof.Machine.execCmTimeoutClear m s
  | .registerWrite m addr data => Sys2Proof.Machine.execRegisterWrite m addr data s
  | .syResetReqTile m t => Sys2Proof.Machine.execSyResetReqTile m t s
  | .syResetReqPostmaster m pm => Sys2Proof.Machine.execSyResetReqPostmaster m pm s
  | .syResetReqWarm m => Sys2Proof.Machine.execSyResetReqWarm m s
  | .syResetReqCold m => Sys2Proof.Machine.execSyResetReqCold m s
  | .resetCapWarm f => Sys2Proof.Machine.execResetCapWarm f s
  | .resetCapCold f warm => Sys2Proof.Machine.execResetCapCold f warm s
  | .matrixHangTimeout m => Sys2Proof.Machine.execMatrixHangTimeout m s
  | .lockAgeLimit target => Sys2Proof.Machine.execLockAgeLimit target s
  | .envelopeFetch => Sys2Proof.Machine.execEnvelopeFetch s
  | .sequenceWaitMet p => Sys2Proof.Machine.execSequenceWaitMet p s
  | .deliverAtReached p => Sys2Proof.Machine.execDeliverAtReached p s
  | .unsolicitedReceiptFlush f => Sys2Proof.Machine.execUnsolicitedReceiptFlush f s
  | .esendReceiptArrival n idx => Sys2Proof.Machine.execEsendReceiptArrival n idx s
  | .journalCommit => Sys2Proof.Machine.execJournalCommit s
  | .envelopeNop p => Sys2Proof.Machine.execEnvelopeNop p s
  | .fpflagsRead p => Sys2Proof.Machine.execFpflagsRead p s
  | .mbCancel p => Sys2Proof.Machine.execMbCancel p s
  | .bufAlloc p => Sys2Proof.Machine.execBufAlloc p s
  | .bufReturn p => Sys2Proof.Machine.execBufReturn p s
  | .bufWrite p => Sys2Proof.Machine.execBufWrite p s
  | .dmaIn p => Sys2Proof.Machine.execDmaIn p s
  | .dmaOut p => Sys2Proof.Machine.execDmaOut p s
  | .segAlloc p => Sys2Proof.Machine.execSegAlloc p s
  | .segFree p => Sys2Proof.Machine.execSegFree p s
  | .tileWrite p => Sys2Proof.Machine.execTileWrite p s
  | .tileRead p => Sys2Proof.Machine.execTileRead p s
  | .roundLoad p => Sys2Proof.Machine.execRoundLoad p s
  | .roundLaunch p => Sys2Proof.Machine.execRoundLaunch p s
  | .tileVector p => Sys2Proof.Machine.execTileVector p s
  | .tileStart p => Sys2Proof.Machine.execTileStart p s
  | .tileStop p => Sys2Proof.Machine.execTileStop p s
  | .remoteSend p => Sys2Proof.Machine.execRemoteSend p s
  | .tenantContract p => Sys2Proof.Machine.execTenantContract p s
  | .tenantReset p => Sys2Proof.Machine.execTenantReset p s
  | .planLoad p => Sys2Proof.Machine.execPlanLoad p s
  | .bookLoad p => Sys2Proof.Machine.execBookLoad p s
  | .keyRotate p => Sys2Proof.Machine.execKeyRotate p s
  | .keyRotationDone => Sys2Proof.Machine.execKeyRotationDone s
  | .fwUpdate p => Sys2Proof.Machine.execFwUpdate p s
  | .fwCommit p => Sys2Proof.Machine.execFwCommit p s
  | .fwHandover p => Sys2Proof.Machine.execFwHandover p s
  | .maintTsRepair p => Sys2Proof.Machine.execMaintTsRepair p s
  | .maintHbmRepair p => Sys2Proof.Machine.execMaintHbmRepair p s
  | .maintTileSubstitute p => Sys2Proof.Machine.execMaintTileSubstitute p s
  | .maintLaneRetrain p => Sys2Proof.Machine.execMaintLaneRetrain p s
  | .maintTsScrub p => Sys2Proof.Machine.execMaintTsScrub p s
  | .maintHbmScrub p => Sys2Proof.Machine.execMaintHbmScrub p s
  | .maintFabricRecord p => Sys2Proof.Machine.execMaintFabricRecord p s
  | .maintDumpNow p => Sys2Proof.Machine.execMaintDumpNow p s
  | .maintDumpClear p => Sys2Proof.Machine.execMaintDumpClear p s
  | .dumpRead p => Sys2Proof.Machine.execDumpRead p s
  | .deviceSleep p => Sys2Proof.Machine.execDeviceSleep p s
  | .dozeEntryComplete => Sys2Proof.Machine.execDozeEntryComplete s
  | .wakeCauseLatch c => Sys2Proof.Machine.execWakeCauseLatch c s
  | .dozeExit => Sys2Proof.Machine.execDozeExit s
  | .wakeTimer => Sys2Proof.Machine.execWakeTimer s
  | .sliceBoundary => Sys2Proof.Machine.execSliceBoundary s
  | .tileSwitch t => Sys2Proof.Machine.execTileSwitch t s
  | .tileAssign t => Sys2Proof.Machine.execTileAssign t s
  | .tileSubstitution t => Sys2Proof.Machine.execTileSubstitution t s
  | .vfEnable n => Sys2Proof.Machine.execVfEnable n s
  | .vfDisable n => Sys2Proof.Machine.execVfDisable n s
  | .vfFlr n => Sys2Proof.Machine.execVfFlr n s
  | .tenantKeyErase n => Sys2Proof.Machine.execTenantKeyErase n s
  | .poolRewriteDone => Sys2Proof.Machine.execPoolRewriteDone s
  | .pfFlr => Sys2Proof.Machine.execPfFlr s
  | .deviceRingWindow f off wr => Sys2Proof.Machine.execDeviceRingWindow f off wr s
  | .tdiNonTeeRequest n off wr => Sys2Proof.Machine.execTdiNonTeeRequest n off wr s
  | .getVersion f => Sys2Proof.Machine.execGetVersion f s
  | .getCapabilities f => Sys2Proof.Machine.execGetCapabilities f s
  | .negotiateAlgorithms f offer => Sys2Proof.Machine.execNegotiateAlgorithms f offer s
  | .getDigests f => Sys2Proof.Machine.execGetDigests f s
  | .getCertificate f slot off len => Sys2Proof.Machine.execGetCertificate f slot off len s
  | .challenge f slot => Sys2Proof.Machine.execChallenge f slot s
  | .getMeasurements f idx => Sys2Proof.Machine.execGetMeasurements f idx s
  | .keyExchange f key secret => Sys2Proof.Machine.execKeyExchange f key secret s
  | .finish f ok => Sys2Proof.Machine.execFinish f ok s
  | .heartbeat f => Sys2Proof.Machine.execHeartbeat f s
  | .keyUpdate f => Sys2Proof.Machine.execKeyUpdate f s
  | .endSession f => Sys2Proof.Machine.execEndSession f s
  | .chunkSend f last words => Sys2Proof.Machine.execChunkSend f last words s
  | .chunkGet f seq => Sys2Proof.Machine.execChunkGet f seq s
  | .spdmUnsupportedRequest f code => Sys2Proof.Machine.execSpdmUnsupportedRequest f code s
  | .spdmHeartbeatTimeout f => Sys2Proof.Machine.execSpdmHeartbeatTimeout f s
  | .getTdispVersion n => Sys2Proof.Machine.execGetTdispVersion n s
  | .getTdispCapabilities n => Sys2Proof.Machine.execGetTdispCapabilities n s
  | .lockInterfaceRequest n stream => Sys2Proof.Machine.execLockInterfaceRequest n stream s
  | .getDeviceInterfaceReport n => Sys2Proof.Machine.execGetDeviceInterfaceReport n s
  | .getDeviceInterfaceState n => Sys2Proof.Machine.execGetDeviceInterfaceState n s
  | .startInterfaceRequest n => Sys2Proof.Machine.execStartInterfaceRequest n s
  | .stopInterfaceRequest n => Sys2Proof.Machine.execStopInterfaceRequest n s
  | .query stream => Sys2Proof.Machine.execQuery stream s
  | .keyProg stream sub kset key => Sys2Proof.Machine.execKeyProg stream sub kset key s
  | .kSetGo stream sub kset => Sys2Proof.Machine.execKSetGo stream sub kset s
  | .kSetStop stream sub kset => Sys2Proof.Machine.execKSetStop stream sub kset s
  | .frameReceive port fr => Sys2Proof.Machine.execFrameReceive port fr s
  | .fseqRetryLimit port => Sys2Proof.Machine.execFseqRetryLimit port s
  | .laneDrop port lane => Sys2Proof.Machine.execLaneDrop port lane s
  | .laneRetrainDone port => Sys2Proof.Machine.execLaneRetrainDone port s
  | .rekeyStart port => Sys2Proof.Machine.execRekeyStart port s
  | .linkTrained port lanes => Sys2Proof.Machine.execLinkTrained port lanes s
  | .trainingRetry port => Sys2Proof.Machine.execTrainingRetry port s
  | .transitLetter port l => Sys2Proof.Machine.execTransitLetter port l s
  | .read port l => Sys2Proof.Machine.execRead port l s
  | .readReply port l => Sys2Proof.Machine.execReadReply port l s
  | .write port l => Sys2Proof.Machine.execWrite port l s
  | .writeAck port l => Sys2Proof.Machine.execWriteAck port l s
  | .atomic port l => Sys2Proof.Machine.execAtomic port l s
  | .atomicReply port l => Sys2Proof.Machine.execAtomicReply port l s
  | .envelope port l => Sys2Proof.Machine.execEnvelope port l s
  | .envelopeAck port l => Sys2Proof.Machine.execEnvelopeAck port l s
  | .hello port l => Sys2Proof.Machine.execHello port l s
  | .keyshare port l => Sys2Proof.Machine.execKeyshare port l s
  | .cert port l => Sys2Proof.Machine.execCert port l s
  | .sign port l => Sys2Proof.Machine.execSign port l s
  | .rate port l => Sys2Proof.Machine.execRate port l s
  | .time port l => Sys2Proof.Machine.execTime port l s
  | .timeSend => Sys2Proof.Machine.execTimeSend s
  | .book port l => Sys2Proof.Machine.execBook port l s
  | .bookAck port l => Sys2Proof.Machine.execBookAck port l s
  | .wake port l => Sys2Proof.Machine.execWake port l s
  | .requestTimeout xtag => Sys2Proof.Machine.execRequestTimeout xtag s
  | .chuteEvent c => Sys2Proof.Machine.execChuteEvent c s
  | .interruptGrant e phase => Sys2Proof.Machine.execInterruptGrant e phase s
  | .poolPresentationTimeout c => Sys2Proof.Machine.execPoolPresentationTimeout c s
  | .msixMessage f v => Sys2Proof.Machine.execMsixMessage f v s
  | .inputFilterChange input level => Sys2Proof.Machine.execInputFilterChange input level s
  | .pmHeartbeat => Sys2Proof.Machine.execPmHeartbeat s
  | .pmFailure pm => Sys2Proof.Machine.execPmFailure pm s
  | .fatalError code detail => Sys2Proof.Machine.execFatalError code detail s
  | .thermalSample die temp => Sys2Proof.Machine.execThermalSample die temp s
  | .thermalTrip => Sys2Proof.Machine.execThermalTrip s
  | .pwrGoodRise => Sys2Proof.Machine.execPwrGoodRise s
  | .pwrGoodFall => Sys2Proof.Machine.execPwrGoodFall s
  | .perstNAssert => Sys2Proof.Machine.execPerstNAssert s
  | .perstNDeassert => Sys2Proof.Machine.execPerstNDeassert s
  | .pllLossOfLock => Sys2Proof.Machine.execPllLossOfLock s
  | .pcieHotReset => Sys2Proof.Machine.execPcieHotReset s
  | .bootReady => Sys2Proof.Machine.execBootReady s
  | .reservedOpcodeWord e w => Sys2Proof.Machine.execReservedOpcodeWord e w s
  | .blockLockLoss port => Sys2Proof.Machine.execBlockLockLoss port s
  | .trainingAttemptFailed port => Sys2Proof.Machine.execTrainingAttemptFailed port s
  | .batchCountLimit port => Sys2Proof.Machine.execBatchCountLimit port s
  | .ideIntegrityFailure n => Sys2Proof.Machine.execIdeIntegrityFailure n s
  | .flashOperationDone ok => Sys2Proof.Machine.execFlashOperationDone ok s
  | .fuseCommitDone => Sys2Proof.Machine.execFuseCommitDone s
  | .postmasterBootDone pm => Sys2Proof.Machine.execPostmasterBootDone pm s
  | .hostReadCompletion p d => Sys2Proof.Machine.execHostReadCompletion p d s

end Sys2Proof.Machine
end

