-- ==== Sys2Proof/Laws/State.lean ====
section
/-! SUPPORT. What each setter of the state leaves alone, one lemma per field, and what it writes. Later proofs cite these and unfold no
record update. -/
namespace Sys2Proof.Machine

open Sys2Proof

variable (s : State)

/-! ### setP -/

@[simp] theorem setP_pending (p : Nat) (x : Tile) : (setP s p x).pending = s.pending := rfl
@[simp] theorem setP_fuses (p : Nat) (x : Tile) : (setP s p x).fuses = s.fuses := rfl
@[simp] theorem setP_sclk (p : Nat) (x : Tile) : (setP s p x).sclk = s.sclk := rfl
@[simp] theorem setP_free (p : Nat) (x : Tile) : (setP s p x).free = s.free := rfl
@[simp] theorem setP_time (p : Nat) (x : Tile) : (setP s p x).time = s.time := rfl
@[simp] theorem setP_tileMap (p : Nat) (x : Tile) : (setP s p x).tileMap = s.tileMap := rfl
@[simp] theorem setP_pmA (p : Nat) (x : Tile) : (setP s p x).pmA = s.pmA := rfl
@[simp] theorem setP_pmB (p : Nat) (x : Tile) : (setP s p x).pmB = s.pmB := rfl
@[simp] theorem setP_hbm (p : Nat) (x : Tile) : (setP s p x).hbm = s.hbm := rfl
@[simp] theorem setP_hcStacks (p : Nat) (x : Tile) : (setP s p x).hcStacks = s.hcStacks := rfl
@[simp] theorem setP_chans (p : Nat) (x : Tile) : (setP s p x).chans = s.chans := rfl
@[simp] theorem setP_jobs (p : Nat) (x : Tile) : (setP s p x).jobs = s.jobs := rfl
@[simp] theorem setP_nextJob (p : Nat) (x : Tile) : (setP s p x).nextJob = s.nextJob := rfl
@[simp] theorem setP_postCycle (p : Nat) (x : Tile) : (setP s p x).postCycle = s.postCycle := rfl
@[simp] theorem setP_moved (p : Nat) (x : Tile) : (setP s p x).moved = s.moved := rfl
@[simp] theorem setP_plan (p : Nat) (x : Tile) : (setP s p x).plan = s.plan := rfl
@[simp] theorem setP_nextPlan (p : Nat) (x : Tile) : (setP s p x).nextPlan = s.nextPlan := rfl
@[simp] theorem setP_tenants (p : Nat) (x : Tile) : (setP s p x).tenants = s.tenants := rfl
@[simp] theorem setP_numVfs (p : Nat) (x : Tile) : (setP s p x).numVfs = s.numVfs := rfl
@[simp] theorem setP_vfEnable (p : Nat) (x : Tile) : (setP s p x).vfEnable = s.vfEnable := rfl
@[simp] theorem setP_pfSpdm (p : Nat) (x : Tile) : (setP s p x).pfSpdm = s.pfSpdm := rfl
@[simp] theorem setP_pfUnsol (p : Nat) (x : Tile) : (setP s p x).pfUnsol = s.pfUnsol := rfl
@[simp] theorem setP_pfLost (p : Nat) (x : Tile) : (setP s p x).pfLost = s.pfLost := rfl
@[simp] theorem setP_pfFaults (p : Nat) (x : Tile) : (setP s p x).pfFaults = s.pfFaults := rfl
@[simp] theorem setP_pfPtr (p : Nat) (x : Tile) : (setP s p x).pfPtr = s.pfPtr := rfl
@[simp] theorem setP_tPtr (p : Nat) (x : Tile) : (setP s p x).tPtr = s.tPtr := rfl
@[simp] theorem setP_bags (p : Nat) (x : Tile) : (setP s p x).bags = s.bags := rfl
@[simp] theorem setP_envs (p : Nat) (x : Tile) : (setP s p x).envs = s.envs := rfl
@[simp] theorem setP_esendReceipts (p : Nat) (x : Tile) : (setP s p x).esendReceipts = s.esendReceipts := rfl
@[simp] theorem setP_buffers (p : Nat) (x : Tile) : (setP s p x).buffers = s.buffers := rfl
@[simp] theorem setP_keys (p : Nat) (x : Tile) : (setP s p x).keys = s.keys := rfl
@[simp] theorem setP_ctxs (p : Nat) (x : Tile) : (setP s p x).ctxs = s.ctxs := rfl
@[simp] theorem setP_rotation (p : Nat) (x : Tile) : (setP s p x).rotation = s.rotation := rfl
@[simp] theorem setP_ideActive (p : Nat) (x : Tile) : (setP s p x).ideActive = s.ideActive := rfl
@[simp] theorem setP_ports (p : Nat) (x : Tile) : (setP s p x).ports = s.ports := rfl
@[simp] theorem setP_fx (p : Nat) (x : Tile) : (setP s p x).fx = s.fx := rfl
@[simp] theorem setP_book (p : Nat) (x : Tile) : (setP s p x).book = s.book := rfl
@[simp] theorem setP_bookRx (p : Nat) (x : Tile) : (setP s p x).bookRx = s.bookRx := rfl
@[simp] theorem setP_reqs (p : Nat) (x : Tile) : (setP s p x).reqs = s.reqs := rfl
@[simp] theorem setP_served (p : Nat) (x : Tile) : (setP s p x).served = s.served := rfl
@[simp] theorem setP_nextXtag (p : Nat) (x : Tile) : (setP s p x).nextXtag = s.nextXtag := rfl
@[simp] theorem setP_nextServed (p : Nat) (x : Tile) : (setP s p x).nextServed = s.nextServed := rfl
@[simp] theorem setP_pmMsgCtr (p : Nat) (x : Tile) : (setP s p x).pmMsgCtr = s.pmMsgCtr := rfl
@[simp] theorem setP_wokeAt (p : Nat) (x : Tile) : (setP s p x).wokeAt = s.wokeAt := rfl
@[simp] theorem setP_nextEnv (p : Nat) (x : Tile) : (setP s p x).nextEnv = s.nextEnv := rfl
@[simp] theorem setP_cfgRegs (p : Nat) (x : Tile) : (setP s p x).cfgRegs = s.cfgRegs := rfl
@[simp] theorem setP_chutes (p : Nat) (x : Tile) : (setP s p x).chutes = s.chutes := rfl
@[simp] theorem setP_chStatus (p : Nat) (x : Tile) : (setP s p x).chStatus = s.chStatus := rfl
@[simp] theorem setP_ic0 (p : Nat) (x : Tile) : (setP s p x).ic0 = s.ic0 := rfl
@[simp] theorem setP_ic1 (p : Nat) (x : Tile) : (setP s p x).ic1 = s.ic1 := rfl
@[simp] theorem setP_filters (p : Nat) (x : Tile) : (setP s p x).filters = s.filters := rfl
@[simp] theorem setP_vecs (p : Nat) (x : Tile) : (setP s p x).vecs = s.vecs := rfl
@[simp] theorem setP_fmask (p : Nat) (x : Tile) : (setP s p x).fmask = s.fmask := rfl
@[simp] theorem setP_cm (p : Nat) (x : Tile) : (setP s p x).cm = s.cm := rfl
@[simp] theorem setP_sys (p : Nat) (x : Tile) : (setP s p x).sys = s.sys := rfl
@[simp] theorem setP_stewards (p : Nat) (x : Tile) : (setP s p x).stewards = s.stewards := rfl
@[simp] theorem setP_flashA (p : Nat) (x : Tile) : (setP s p x).flashA = s.flashA := rfl
@[simp] theorem setP_flashB (p : Nat) (x : Tile) : (setP s p x).flashB = s.flashB := rfl
@[simp] theorem setP_out (p : Nat) (x : Tile) : (setP s p x).out = s.out := rfl

/-! ### setPm -/

@[simp] theorem setPm_pending (b : Bool) (x : Postmaster) : (setPm s b x).pending = s.pending := by cases b <;> rfl
@[simp] theorem setPm_fuses (b : Bool) (x : Postmaster) : (setPm s b x).fuses = s.fuses := by cases b <;> rfl
@[simp] theorem setPm_sclk (b : Bool) (x : Postmaster) : (setPm s b x).sclk = s.sclk := by cases b <;> rfl
@[simp] theorem setPm_free (b : Bool) (x : Postmaster) : (setPm s b x).free = s.free := by cases b <;> rfl
@[simp] theorem setPm_time (b : Bool) (x : Postmaster) : (setPm s b x).time = s.time := by cases b <;> rfl
@[simp] theorem setPm_tiles (b : Bool) (x : Postmaster) : (setPm s b x).tiles = s.tiles := by cases b <;> rfl
@[simp] theorem setPm_tileMap (b : Bool) (x : Postmaster) : (setPm s b x).tileMap = s.tileMap := by cases b <;> rfl
@[simp] theorem setPm_hbm (b : Bool) (x : Postmaster) : (setPm s b x).hbm = s.hbm := by cases b <;> rfl
@[simp] theorem setPm_hcStacks (b : Bool) (x : Postmaster) : (setPm s b x).hcStacks = s.hcStacks := by cases b <;> rfl
@[simp] theorem setPm_chans (b : Bool) (x : Postmaster) : (setPm s b x).chans = s.chans := by cases b <;> rfl
@[simp] theorem setPm_jobs (b : Bool) (x : Postmaster) : (setPm s b x).jobs = s.jobs := by cases b <;> rfl
@[simp] theorem setPm_nextJob (b : Bool) (x : Postmaster) : (setPm s b x).nextJob = s.nextJob := by cases b <;> rfl
@[simp] theorem setPm_postCycle (b : Bool) (x : Postmaster) : (setPm s b x).postCycle = s.postCycle := by cases b <;> rfl
@[simp] theorem setPm_moved (b : Bool) (x : Postmaster) : (setPm s b x).moved = s.moved := by cases b <;> rfl
@[simp] theorem setPm_plan (b : Bool) (x : Postmaster) : (setPm s b x).plan = s.plan := by cases b <;> rfl
@[simp] theorem setPm_nextPlan (b : Bool) (x : Postmaster) : (setPm s b x).nextPlan = s.nextPlan := by cases b <;> rfl
@[simp] theorem setPm_tenants (b : Bool) (x : Postmaster) : (setPm s b x).tenants = s.tenants := by cases b <;> rfl
@[simp] theorem setPm_numVfs (b : Bool) (x : Postmaster) : (setPm s b x).numVfs = s.numVfs := by cases b <;> rfl
@[simp] theorem setPm_vfEnable (b : Bool) (x : Postmaster) : (setPm s b x).vfEnable = s.vfEnable := by cases b <;> rfl
@[simp] theorem setPm_pfSpdm (b : Bool) (x : Postmaster) : (setPm s b x).pfSpdm = s.pfSpdm := by cases b <;> rfl
@[simp] theorem setPm_pfUnsol (b : Bool) (x : Postmaster) : (setPm s b x).pfUnsol = s.pfUnsol := by cases b <;> rfl
@[simp] theorem setPm_pfLost (b : Bool) (x : Postmaster) : (setPm s b x).pfLost = s.pfLost := by cases b <;> rfl
@[simp] theorem setPm_pfFaults (b : Bool) (x : Postmaster) : (setPm s b x).pfFaults = s.pfFaults := by cases b <;> rfl
@[simp] theorem setPm_pfPtr (b : Bool) (x : Postmaster) : (setPm s b x).pfPtr = s.pfPtr := by cases b <;> rfl
@[simp] theorem setPm_tPtr (b : Bool) (x : Postmaster) : (setPm s b x).tPtr = s.tPtr := by cases b <;> rfl
@[simp] theorem setPm_bags (b : Bool) (x : Postmaster) : (setPm s b x).bags = s.bags := by cases b <;> rfl
@[simp] theorem setPm_envs (b : Bool) (x : Postmaster) : (setPm s b x).envs = s.envs := by cases b <;> rfl
@[simp] theorem setPm_esendReceipts (b : Bool) (x : Postmaster) : (setPm s b x).esendReceipts = s.esendReceipts := by cases b <;> rfl
@[simp] theorem setPm_buffers (b : Bool) (x : Postmaster) : (setPm s b x).buffers = s.buffers := by cases b <;> rfl
@[simp] theorem setPm_keys (b : Bool) (x : Postmaster) : (setPm s b x).keys = s.keys := by cases b <;> rfl
@[simp] theorem setPm_ctxs (b : Bool) (x : Postmaster) : (setPm s b x).ctxs = s.ctxs := by cases b <;> rfl
@[simp] theorem setPm_rotation (b : Bool) (x : Postmaster) : (setPm s b x).rotation = s.rotation := by cases b <;> rfl
@[simp] theorem setPm_ideActive (b : Bool) (x : Postmaster) : (setPm s b x).ideActive = s.ideActive := by cases b <;> rfl
@[simp] theorem setPm_ports (b : Bool) (x : Postmaster) : (setPm s b x).ports = s.ports := by cases b <;> rfl
@[simp] theorem setPm_fx (b : Bool) (x : Postmaster) : (setPm s b x).fx = s.fx := by cases b <;> rfl
@[simp] theorem setPm_book (b : Bool) (x : Postmaster) : (setPm s b x).book = s.book := by cases b <;> rfl
@[simp] theorem setPm_bookRx (b : Bool) (x : Postmaster) : (setPm s b x).bookRx = s.bookRx := by cases b <;> rfl
@[simp] theorem setPm_reqs (b : Bool) (x : Postmaster) : (setPm s b x).reqs = s.reqs := by cases b <;> rfl
@[simp] theorem setPm_served (b : Bool) (x : Postmaster) : (setPm s b x).served = s.served := by cases b <;> rfl
@[simp] theorem setPm_nextXtag (b : Bool) (x : Postmaster) : (setPm s b x).nextXtag = s.nextXtag := by cases b <;> rfl
@[simp] theorem setPm_nextServed (b : Bool) (x : Postmaster) : (setPm s b x).nextServed = s.nextServed := by cases b <;> rfl
@[simp] theorem setPm_pmMsgCtr (b : Bool) (x : Postmaster) : (setPm s b x).pmMsgCtr = s.pmMsgCtr := by cases b <;> rfl
@[simp] theorem setPm_wokeAt (b : Bool) (x : Postmaster) : (setPm s b x).wokeAt = s.wokeAt := by cases b <;> rfl
@[simp] theorem setPm_nextEnv (b : Bool) (x : Postmaster) : (setPm s b x).nextEnv = s.nextEnv := by cases b <;> rfl
@[simp] theorem setPm_cfgRegs (b : Bool) (x : Postmaster) : (setPm s b x).cfgRegs = s.cfgRegs := by cases b <;> rfl
@[simp] theorem setPm_chutes (b : Bool) (x : Postmaster) : (setPm s b x).chutes = s.chutes := by cases b <;> rfl
@[simp] theorem setPm_chStatus (b : Bool) (x : Postmaster) : (setPm s b x).chStatus = s.chStatus := by cases b <;> rfl
@[simp] theorem setPm_ic0 (b : Bool) (x : Postmaster) : (setPm s b x).ic0 = s.ic0 := by cases b <;> rfl
@[simp] theorem setPm_ic1 (b : Bool) (x : Postmaster) : (setPm s b x).ic1 = s.ic1 := by cases b <;> rfl
@[simp] theorem setPm_filters (b : Bool) (x : Postmaster) : (setPm s b x).filters = s.filters := by cases b <;> rfl
@[simp] theorem setPm_vecs (b : Bool) (x : Postmaster) : (setPm s b x).vecs = s.vecs := by cases b <;> rfl
@[simp] theorem setPm_fmask (b : Bool) (x : Postmaster) : (setPm s b x).fmask = s.fmask := by cases b <;> rfl
@[simp] theorem setPm_cm (b : Bool) (x : Postmaster) : (setPm s b x).cm = s.cm := by cases b <;> rfl
@[simp] theorem setPm_sys (b : Bool) (x : Postmaster) : (setPm s b x).sys = s.sys := by cases b <;> rfl
@[simp] theorem setPm_stewards (b : Bool) (x : Postmaster) : (setPm s b x).stewards = s.stewards := by cases b <;> rfl
@[simp] theorem setPm_flashA (b : Bool) (x : Postmaster) : (setPm s b x).flashA = s.flashA := by cases b <;> rfl
@[simp] theorem setPm_flashB (b : Bool) (x : Postmaster) : (setPm s b x).flashB = s.flashB := by cases b <;> rfl
@[simp] theorem setPm_out (b : Bool) (x : Postmaster) : (setPm s b x).out = s.out := by cases b <;> rfl

/-! ### setChute -/

@[simp] theorem setChute_pending (c : Nat) (x : Chute) : (setChute s c x).pending = s.pending := rfl
@[simp] theorem setChute_fuses (c : Nat) (x : Chute) : (setChute s c x).fuses = s.fuses := rfl
@[simp] theorem setChute_sclk (c : Nat) (x : Chute) : (setChute s c x).sclk = s.sclk := rfl
@[simp] theorem setChute_free (c : Nat) (x : Chute) : (setChute s c x).free = s.free := rfl
@[simp] theorem setChute_time (c : Nat) (x : Chute) : (setChute s c x).time = s.time := rfl
@[simp] theorem setChute_tiles (c : Nat) (x : Chute) : (setChute s c x).tiles = s.tiles := rfl
@[simp] theorem setChute_tileMap (c : Nat) (x : Chute) : (setChute s c x).tileMap = s.tileMap := rfl
@[simp] theorem setChute_pmA (c : Nat) (x : Chute) : (setChute s c x).pmA = s.pmA := rfl
@[simp] theorem setChute_pmB (c : Nat) (x : Chute) : (setChute s c x).pmB = s.pmB := rfl
@[simp] theorem setChute_hbm (c : Nat) (x : Chute) : (setChute s c x).hbm = s.hbm := rfl
@[simp] theorem setChute_hcStacks (c : Nat) (x : Chute) : (setChute s c x).hcStacks = s.hcStacks := rfl
@[simp] theorem setChute_chans (c : Nat) (x : Chute) : (setChute s c x).chans = s.chans := rfl
@[simp] theorem setChute_jobs (c : Nat) (x : Chute) : (setChute s c x).jobs = s.jobs := rfl
@[simp] theorem setChute_nextJob (c : Nat) (x : Chute) : (setChute s c x).nextJob = s.nextJob := rfl
@[simp] theorem setChute_postCycle (c : Nat) (x : Chute) : (setChute s c x).postCycle = s.postCycle := rfl
@[simp] theorem setChute_moved (c : Nat) (x : Chute) : (setChute s c x).moved = s.moved := rfl
@[simp] theorem setChute_plan (c : Nat) (x : Chute) : (setChute s c x).plan = s.plan := rfl
@[simp] theorem setChute_nextPlan (c : Nat) (x : Chute) : (setChute s c x).nextPlan = s.nextPlan := rfl
@[simp] theorem setChute_tenants (c : Nat) (x : Chute) : (setChute s c x).tenants = s.tenants := rfl
@[simp] theorem setChute_numVfs (c : Nat) (x : Chute) : (setChute s c x).numVfs = s.numVfs := rfl
@[simp] theorem setChute_vfEnable (c : Nat) (x : Chute) : (setChute s c x).vfEnable = s.vfEnable := rfl
@[simp] theorem setChute_pfSpdm (c : Nat) (x : Chute) : (setChute s c x).pfSpdm = s.pfSpdm := rfl
@[simp] theorem setChute_pfUnsol (c : Nat) (x : Chute) : (setChute s c x).pfUnsol = s.pfUnsol := rfl
@[simp] theorem setChute_pfLost (c : Nat) (x : Chute) : (setChute s c x).pfLost = s.pfLost := rfl
@[simp] theorem setChute_pfFaults (c : Nat) (x : Chute) : (setChute s c x).pfFaults = s.pfFaults := rfl
@[simp] theorem setChute_pfPtr (c : Nat) (x : Chute) : (setChute s c x).pfPtr = s.pfPtr := rfl
@[simp] theorem setChute_tPtr (c : Nat) (x : Chute) : (setChute s c x).tPtr = s.tPtr := rfl
@[simp] theorem setChute_bags (c : Nat) (x : Chute) : (setChute s c x).bags = s.bags := rfl
@[simp] theorem setChute_envs (c : Nat) (x : Chute) : (setChute s c x).envs = s.envs := rfl
@[simp] theorem setChute_esendReceipts (c : Nat) (x : Chute) : (setChute s c x).esendReceipts = s.esendReceipts := rfl
@[simp] theorem setChute_buffers (c : Nat) (x : Chute) : (setChute s c x).buffers = s.buffers := rfl
@[simp] theorem setChute_keys (c : Nat) (x : Chute) : (setChute s c x).keys = s.keys := rfl
@[simp] theorem setChute_ctxs (c : Nat) (x : Chute) : (setChute s c x).ctxs = s.ctxs := rfl
@[simp] theorem setChute_rotation (c : Nat) (x : Chute) : (setChute s c x).rotation = s.rotation := rfl
@[simp] theorem setChute_ideActive (c : Nat) (x : Chute) : (setChute s c x).ideActive = s.ideActive := rfl
@[simp] theorem setChute_ports (c : Nat) (x : Chute) : (setChute s c x).ports = s.ports := rfl
@[simp] theorem setChute_fx (c : Nat) (x : Chute) : (setChute s c x).fx = s.fx := rfl
@[simp] theorem setChute_book (c : Nat) (x : Chute) : (setChute s c x).book = s.book := rfl
@[simp] theorem setChute_bookRx (c : Nat) (x : Chute) : (setChute s c x).bookRx = s.bookRx := rfl
@[simp] theorem setChute_reqs (c : Nat) (x : Chute) : (setChute s c x).reqs = s.reqs := rfl
@[simp] theorem setChute_served (c : Nat) (x : Chute) : (setChute s c x).served = s.served := rfl
@[simp] theorem setChute_nextXtag (c : Nat) (x : Chute) : (setChute s c x).nextXtag = s.nextXtag := rfl
@[simp] theorem setChute_nextServed (c : Nat) (x : Chute) : (setChute s c x).nextServed = s.nextServed := rfl
@[simp] theorem setChute_pmMsgCtr (c : Nat) (x : Chute) : (setChute s c x).pmMsgCtr = s.pmMsgCtr := rfl
@[simp] theorem setChute_wokeAt (c : Nat) (x : Chute) : (setChute s c x).wokeAt = s.wokeAt := rfl
@[simp] theorem setChute_nextEnv (c : Nat) (x : Chute) : (setChute s c x).nextEnv = s.nextEnv := rfl
@[simp] theorem setChute_cfgRegs (c : Nat) (x : Chute) : (setChute s c x).cfgRegs = s.cfgRegs := rfl
@[simp] theorem setChute_chStatus (c : Nat) (x : Chute) : (setChute s c x).chStatus = s.chStatus := rfl
@[simp] theorem setChute_ic0 (c : Nat) (x : Chute) : (setChute s c x).ic0 = s.ic0 := rfl
@[simp] theorem setChute_ic1 (c : Nat) (x : Chute) : (setChute s c x).ic1 = s.ic1 := rfl
@[simp] theorem setChute_filters (c : Nat) (x : Chute) : (setChute s c x).filters = s.filters := rfl
@[simp] theorem setChute_vecs (c : Nat) (x : Chute) : (setChute s c x).vecs = s.vecs := rfl
@[simp] theorem setChute_fmask (c : Nat) (x : Chute) : (setChute s c x).fmask = s.fmask := rfl
@[simp] theorem setChute_cm (c : Nat) (x : Chute) : (setChute s c x).cm = s.cm := rfl
@[simp] theorem setChute_sys (c : Nat) (x : Chute) : (setChute s c x).sys = s.sys := rfl
@[simp] theorem setChute_stewards (c : Nat) (x : Chute) : (setChute s c x).stewards = s.stewards := rfl
@[simp] theorem setChute_flashA (c : Nat) (x : Chute) : (setChute s c x).flashA = s.flashA := rfl
@[simp] theorem setChute_flashB (c : Nat) (x : Chute) : (setChute s c x).flashB = s.flashB := rfl
@[simp] theorem setChute_out (c : Nat) (x : Chute) : (setChute s c x).out = s.out := rfl

/-! ### setHc -/

@[simp] theorem setHc_pending (k off : Nat) (v : BitVec 32) : (setHc k off v s).pending = s.pending := rfl
@[simp] theorem setHc_fuses (k off : Nat) (v : BitVec 32) : (setHc k off v s).fuses = s.fuses := rfl
@[simp] theorem setHc_sclk (k off : Nat) (v : BitVec 32) : (setHc k off v s).sclk = s.sclk := rfl
@[simp] theorem setHc_free (k off : Nat) (v : BitVec 32) : (setHc k off v s).free = s.free := rfl
@[simp] theorem setHc_time (k off : Nat) (v : BitVec 32) : (setHc k off v s).time = s.time := rfl
@[simp] theorem setHc_tiles (k off : Nat) (v : BitVec 32) : (setHc k off v s).tiles = s.tiles := rfl
@[simp] theorem setHc_tileMap (k off : Nat) (v : BitVec 32) : (setHc k off v s).tileMap = s.tileMap := rfl
@[simp] theorem setHc_pmA (k off : Nat) (v : BitVec 32) : (setHc k off v s).pmA = s.pmA := rfl
@[simp] theorem setHc_pmB (k off : Nat) (v : BitVec 32) : (setHc k off v s).pmB = s.pmB := rfl
@[simp] theorem setHc_hbm (k off : Nat) (v : BitVec 32) : (setHc k off v s).hbm = s.hbm := rfl
@[simp] theorem setHc_chans (k off : Nat) (v : BitVec 32) : (setHc k off v s).chans = s.chans := rfl
@[simp] theorem setHc_jobs (k off : Nat) (v : BitVec 32) : (setHc k off v s).jobs = s.jobs := rfl
@[simp] theorem setHc_nextJob (k off : Nat) (v : BitVec 32) : (setHc k off v s).nextJob = s.nextJob := rfl
@[simp] theorem setHc_postCycle (k off : Nat) (v : BitVec 32) : (setHc k off v s).postCycle = s.postCycle := rfl
@[simp] theorem setHc_moved (k off : Nat) (v : BitVec 32) : (setHc k off v s).moved = s.moved := rfl
@[simp] theorem setHc_plan (k off : Nat) (v : BitVec 32) : (setHc k off v s).plan = s.plan := rfl
@[simp] theorem setHc_nextPlan (k off : Nat) (v : BitVec 32) : (setHc k off v s).nextPlan = s.nextPlan := rfl
@[simp] theorem setHc_tenants (k off : Nat) (v : BitVec 32) : (setHc k off v s).tenants = s.tenants := rfl
@[simp] theorem setHc_numVfs (k off : Nat) (v : BitVec 32) : (setHc k off v s).numVfs = s.numVfs := rfl
@[simp] theorem setHc_vfEnable (k off : Nat) (v : BitVec 32) : (setHc k off v s).vfEnable = s.vfEnable := rfl
@[simp] theorem setHc_pfSpdm (k off : Nat) (v : BitVec 32) : (setHc k off v s).pfSpdm = s.pfSpdm := rfl
@[simp] theorem setHc_pfUnsol (k off : Nat) (v : BitVec 32) : (setHc k off v s).pfUnsol = s.pfUnsol := rfl
@[simp] theorem setHc_pfLost (k off : Nat) (v : BitVec 32) : (setHc k off v s).pfLost = s.pfLost := rfl
@[simp] theorem setHc_pfFaults (k off : Nat) (v : BitVec 32) : (setHc k off v s).pfFaults = s.pfFaults := rfl
@[simp] theorem setHc_pfPtr (k off : Nat) (v : BitVec 32) : (setHc k off v s).pfPtr = s.pfPtr := rfl
@[simp] theorem setHc_tPtr (k off : Nat) (v : BitVec 32) : (setHc k off v s).tPtr = s.tPtr := rfl
@[simp] theorem setHc_bags (k off : Nat) (v : BitVec 32) : (setHc k off v s).bags = s.bags := rfl
@[simp] theorem setHc_envs (k off : Nat) (v : BitVec 32) : (setHc k off v s).envs = s.envs := rfl
@[simp] theorem setHc_esendReceipts (k off : Nat) (v : BitVec 32) : (setHc k off v s).esendReceipts = s.esendReceipts := rfl
@[simp] theorem setHc_buffers (k off : Nat) (v : BitVec 32) : (setHc k off v s).buffers = s.buffers := rfl
@[simp] theorem setHc_keys (k off : Nat) (v : BitVec 32) : (setHc k off v s).keys = s.keys := rfl
@[simp] theorem setHc_ctxs (k off : Nat) (v : BitVec 32) : (setHc k off v s).ctxs = s.ctxs := rfl
@[simp] theorem setHc_rotation (k off : Nat) (v : BitVec 32) : (setHc k off v s).rotation = s.rotation := rfl
@[simp] theorem setHc_ideActive (k off : Nat) (v : BitVec 32) : (setHc k off v s).ideActive = s.ideActive := rfl
@[simp] theorem setHc_ports (k off : Nat) (v : BitVec 32) : (setHc k off v s).ports = s.ports := rfl
@[simp] theorem setHc_fx (k off : Nat) (v : BitVec 32) : (setHc k off v s).fx = s.fx := rfl
@[simp] theorem setHc_book (k off : Nat) (v : BitVec 32) : (setHc k off v s).book = s.book := rfl
@[simp] theorem setHc_bookRx (k off : Nat) (v : BitVec 32) : (setHc k off v s).bookRx = s.bookRx := rfl
@[simp] theorem setHc_reqs (k off : Nat) (v : BitVec 32) : (setHc k off v s).reqs = s.reqs := rfl
@[simp] theorem setHc_served (k off : Nat) (v : BitVec 32) : (setHc k off v s).served = s.served := rfl
@[simp] theorem setHc_nextXtag (k off : Nat) (v : BitVec 32) : (setHc k off v s).nextXtag = s.nextXtag := rfl
@[simp] theorem setHc_nextServed (k off : Nat) (v : BitVec 32) : (setHc k off v s).nextServed = s.nextServed := rfl
@[simp] theorem setHc_pmMsgCtr (k off : Nat) (v : BitVec 32) : (setHc k off v s).pmMsgCtr = s.pmMsgCtr := rfl
@[simp] theorem setHc_wokeAt (k off : Nat) (v : BitVec 32) : (setHc k off v s).wokeAt = s.wokeAt := rfl
@[simp] theorem setHc_nextEnv (k off : Nat) (v : BitVec 32) : (setHc k off v s).nextEnv = s.nextEnv := rfl
@[simp] theorem setHc_cfgRegs (k off : Nat) (v : BitVec 32) : (setHc k off v s).cfgRegs = s.cfgRegs := rfl
@[simp] theorem setHc_chutes (k off : Nat) (v : BitVec 32) : (setHc k off v s).chutes = s.chutes := rfl
@[simp] theorem setHc_chStatus (k off : Nat) (v : BitVec 32) : (setHc k off v s).chStatus = s.chStatus := rfl
@[simp] theorem setHc_ic0 (k off : Nat) (v : BitVec 32) : (setHc k off v s).ic0 = s.ic0 := rfl
@[simp] theorem setHc_ic1 (k off : Nat) (v : BitVec 32) : (setHc k off v s).ic1 = s.ic1 := rfl
@[simp] theorem setHc_filters (k off : Nat) (v : BitVec 32) : (setHc k off v s).filters = s.filters := rfl
@[simp] theorem setHc_vecs (k off : Nat) (v : BitVec 32) : (setHc k off v s).vecs = s.vecs := rfl
@[simp] theorem setHc_fmask (k off : Nat) (v : BitVec 32) : (setHc k off v s).fmask = s.fmask := rfl
@[simp] theorem setHc_cm (k off : Nat) (v : BitVec 32) : (setHc k off v s).cm = s.cm := rfl
@[simp] theorem setHc_sys (k off : Nat) (v : BitVec 32) : (setHc k off v s).sys = s.sys := rfl
@[simp] theorem setHc_stewards (k off : Nat) (v : BitVec 32) : (setHc k off v s).stewards = s.stewards := rfl
@[simp] theorem setHc_flashA (k off : Nat) (v : BitVec 32) : (setHc k off v s).flashA = s.flashA := rfl
@[simp] theorem setHc_flashB (k off : Nat) (v : BitVec 32) : (setHc k off v s).flashB = s.flashB := rfl
@[simp] theorem setHc_out (k off : Nat) (v : BitVec 32) : (setHc k off v s).out = s.out := rfl

/-! ### setChan -/

@[simp] theorem setChan_pending (pc : Nat) (x : PChan) : (setChan s pc x).pending = s.pending := rfl
@[simp] theorem setChan_fuses (pc : Nat) (x : PChan) : (setChan s pc x).fuses = s.fuses := rfl
@[simp] theorem setChan_sclk (pc : Nat) (x : PChan) : (setChan s pc x).sclk = s.sclk := rfl
@[simp] theorem setChan_free (pc : Nat) (x : PChan) : (setChan s pc x).free = s.free := rfl
@[simp] theorem setChan_time (pc : Nat) (x : PChan) : (setChan s pc x).time = s.time := rfl
@[simp] theorem setChan_tiles (pc : Nat) (x : PChan) : (setChan s pc x).tiles = s.tiles := rfl
@[simp] theorem setChan_tileMap (pc : Nat) (x : PChan) : (setChan s pc x).tileMap = s.tileMap := rfl
@[simp] theorem setChan_pmA (pc : Nat) (x : PChan) : (setChan s pc x).pmA = s.pmA := rfl
@[simp] theorem setChan_pmB (pc : Nat) (x : PChan) : (setChan s pc x).pmB = s.pmB := rfl
@[simp] theorem setChan_hbm (pc : Nat) (x : PChan) : (setChan s pc x).hbm = s.hbm := rfl
@[simp] theorem setChan_hcStacks (pc : Nat) (x : PChan) : (setChan s pc x).hcStacks = s.hcStacks := rfl
@[simp] theorem setChan_jobs (pc : Nat) (x : PChan) : (setChan s pc x).jobs = s.jobs := rfl
@[simp] theorem setChan_nextJob (pc : Nat) (x : PChan) : (setChan s pc x).nextJob = s.nextJob := rfl
@[simp] theorem setChan_postCycle (pc : Nat) (x : PChan) : (setChan s pc x).postCycle = s.postCycle := rfl
@[simp] theorem setChan_moved (pc : Nat) (x : PChan) : (setChan s pc x).moved = s.moved := rfl
@[simp] theorem setChan_plan (pc : Nat) (x : PChan) : (setChan s pc x).plan = s.plan := rfl
@[simp] theorem setChan_nextPlan (pc : Nat) (x : PChan) : (setChan s pc x).nextPlan = s.nextPlan := rfl
@[simp] theorem setChan_tenants (pc : Nat) (x : PChan) : (setChan s pc x).tenants = s.tenants := rfl
@[simp] theorem setChan_numVfs (pc : Nat) (x : PChan) : (setChan s pc x).numVfs = s.numVfs := rfl
@[simp] theorem setChan_vfEnable (pc : Nat) (x : PChan) : (setChan s pc x).vfEnable = s.vfEnable := rfl
@[simp] theorem setChan_pfSpdm (pc : Nat) (x : PChan) : (setChan s pc x).pfSpdm = s.pfSpdm := rfl
@[simp] theorem setChan_pfUnsol (pc : Nat) (x : PChan) : (setChan s pc x).pfUnsol = s.pfUnsol := rfl
@[simp] theorem setChan_pfLost (pc : Nat) (x : PChan) : (setChan s pc x).pfLost = s.pfLost := rfl
@[simp] theorem setChan_pfFaults (pc : Nat) (x : PChan) : (setChan s pc x).pfFaults = s.pfFaults := rfl
@[simp] theorem setChan_pfPtr (pc : Nat) (x : PChan) : (setChan s pc x).pfPtr = s.pfPtr := rfl
@[simp] theorem setChan_tPtr (pc : Nat) (x : PChan) : (setChan s pc x).tPtr = s.tPtr := rfl
@[simp] theorem setChan_bags (pc : Nat) (x : PChan) : (setChan s pc x).bags = s.bags := rfl
@[simp] theorem setChan_envs (pc : Nat) (x : PChan) : (setChan s pc x).envs = s.envs := rfl
@[simp] theorem setChan_esendReceipts (pc : Nat) (x : PChan) : (setChan s pc x).esendReceipts = s.esendReceipts := rfl
@[simp] theorem setChan_buffers (pc : Nat) (x : PChan) : (setChan s pc x).buffers = s.buffers := rfl
@[simp] theorem setChan_keys (pc : Nat) (x : PChan) : (setChan s pc x).keys = s.keys := rfl
@[simp] theorem setChan_ctxs (pc : Nat) (x : PChan) : (setChan s pc x).ctxs = s.ctxs := rfl
@[simp] theorem setChan_rotation (pc : Nat) (x : PChan) : (setChan s pc x).rotation = s.rotation := rfl
@[simp] theorem setChan_ideActive (pc : Nat) (x : PChan) : (setChan s pc x).ideActive = s.ideActive := rfl
@[simp] theorem setChan_ports (pc : Nat) (x : PChan) : (setChan s pc x).ports = s.ports := rfl
@[simp] theorem setChan_fx (pc : Nat) (x : PChan) : (setChan s pc x).fx = s.fx := rfl
@[simp] theorem setChan_book (pc : Nat) (x : PChan) : (setChan s pc x).book = s.book := rfl
@[simp] theorem setChan_bookRx (pc : Nat) (x : PChan) : (setChan s pc x).bookRx = s.bookRx := rfl
@[simp] theorem setChan_reqs (pc : Nat) (x : PChan) : (setChan s pc x).reqs = s.reqs := rfl
@[simp] theorem setChan_served (pc : Nat) (x : PChan) : (setChan s pc x).served = s.served := rfl
@[simp] theorem setChan_nextXtag (pc : Nat) (x : PChan) : (setChan s pc x).nextXtag = s.nextXtag := rfl
@[simp] theorem setChan_nextServed (pc : Nat) (x : PChan) : (setChan s pc x).nextServed = s.nextServed := rfl
@[simp] theorem setChan_pmMsgCtr (pc : Nat) (x : PChan) : (setChan s pc x).pmMsgCtr = s.pmMsgCtr := rfl
@[simp] theorem setChan_wokeAt (pc : Nat) (x : PChan) : (setChan s pc x).wokeAt = s.wokeAt := rfl
@[simp] theorem setChan_nextEnv (pc : Nat) (x : PChan) : (setChan s pc x).nextEnv = s.nextEnv := rfl
@[simp] theorem setChan_cfgRegs (pc : Nat) (x : PChan) : (setChan s pc x).cfgRegs = s.cfgRegs := rfl
@[simp] theorem setChan_chutes (pc : Nat) (x : PChan) : (setChan s pc x).chutes = s.chutes := rfl
@[simp] theorem setChan_chStatus (pc : Nat) (x : PChan) : (setChan s pc x).chStatus = s.chStatus := rfl
@[simp] theorem setChan_ic0 (pc : Nat) (x : PChan) : (setChan s pc x).ic0 = s.ic0 := rfl
@[simp] theorem setChan_ic1 (pc : Nat) (x : PChan) : (setChan s pc x).ic1 = s.ic1 := rfl
@[simp] theorem setChan_filters (pc : Nat) (x : PChan) : (setChan s pc x).filters = s.filters := rfl
@[simp] theorem setChan_vecs (pc : Nat) (x : PChan) : (setChan s pc x).vecs = s.vecs := rfl
@[simp] theorem setChan_fmask (pc : Nat) (x : PChan) : (setChan s pc x).fmask = s.fmask := rfl
@[simp] theorem setChan_cm (pc : Nat) (x : PChan) : (setChan s pc x).cm = s.cm := rfl
@[simp] theorem setChan_sys (pc : Nat) (x : PChan) : (setChan s pc x).sys = s.sys := rfl
@[simp] theorem setChan_stewards (pc : Nat) (x : PChan) : (setChan s pc x).stewards = s.stewards := rfl
@[simp] theorem setChan_flashA (pc : Nat) (x : PChan) : (setChan s pc x).flashA = s.flashA := rfl
@[simp] theorem setChan_flashB (pc : Nat) (x : PChan) : (setChan s pc x).flashB = s.flashB := rfl
@[simp] theorem setChan_out (pc : Nat) (x : PChan) : (setChan s pc x).out = s.out := rfl

/-! ### setTen -/

@[simp] theorem setTen_pending (n : Nat) (x : Tenant) : (setTen s n x).pending = s.pending := rfl
@[simp] theorem setTen_fuses (n : Nat) (x : Tenant) : (setTen s n x).fuses = s.fuses := rfl
@[simp] theorem setTen_sclk (n : Nat) (x : Tenant) : (setTen s n x).sclk = s.sclk := rfl
@[simp] theorem setTen_free (n : Nat) (x : Tenant) : (setTen s n x).free = s.free := rfl
@[simp] theorem setTen_time (n : Nat) (x : Tenant) : (setTen s n x).time = s.time := rfl
@[simp] theorem setTen_tiles (n : Nat) (x : Tenant) : (setTen s n x).tiles = s.tiles := rfl
@[simp] theorem setTen_tileMap (n : Nat) (x : Tenant) : (setTen s n x).tileMap = s.tileMap := rfl
@[simp] theorem setTen_pmA (n : Nat) (x : Tenant) : (setTen s n x).pmA = s.pmA := rfl
@[simp] theorem setTen_pmB (n : Nat) (x : Tenant) : (setTen s n x).pmB = s.pmB := rfl
@[simp] theorem setTen_hbm (n : Nat) (x : Tenant) : (setTen s n x).hbm = s.hbm := rfl
@[simp] theorem setTen_hcStacks (n : Nat) (x : Tenant) : (setTen s n x).hcStacks = s.hcStacks := rfl
@[simp] theorem setTen_chans (n : Nat) (x : Tenant) : (setTen s n x).chans = s.chans := rfl
@[simp] theorem setTen_jobs (n : Nat) (x : Tenant) : (setTen s n x).jobs = s.jobs := rfl
@[simp] theorem setTen_nextJob (n : Nat) (x : Tenant) : (setTen s n x).nextJob = s.nextJob := rfl
@[simp] theorem setTen_postCycle (n : Nat) (x : Tenant) : (setTen s n x).postCycle = s.postCycle := rfl
@[simp] theorem setTen_moved (n : Nat) (x : Tenant) : (setTen s n x).moved = s.moved := rfl
@[simp] theorem setTen_plan (n : Nat) (x : Tenant) : (setTen s n x).plan = s.plan := rfl
@[simp] theorem setTen_nextPlan (n : Nat) (x : Tenant) : (setTen s n x).nextPlan = s.nextPlan := rfl
@[simp] theorem setTen_numVfs (n : Nat) (x : Tenant) : (setTen s n x).numVfs = s.numVfs := rfl
@[simp] theorem setTen_vfEnable (n : Nat) (x : Tenant) : (setTen s n x).vfEnable = s.vfEnable := rfl
@[simp] theorem setTen_pfSpdm (n : Nat) (x : Tenant) : (setTen s n x).pfSpdm = s.pfSpdm := rfl
@[simp] theorem setTen_pfUnsol (n : Nat) (x : Tenant) : (setTen s n x).pfUnsol = s.pfUnsol := rfl
@[simp] theorem setTen_pfLost (n : Nat) (x : Tenant) : (setTen s n x).pfLost = s.pfLost := rfl
@[simp] theorem setTen_pfFaults (n : Nat) (x : Tenant) : (setTen s n x).pfFaults = s.pfFaults := rfl
@[simp] theorem setTen_pfPtr (n : Nat) (x : Tenant) : (setTen s n x).pfPtr = s.pfPtr := rfl
@[simp] theorem setTen_tPtr (n : Nat) (x : Tenant) : (setTen s n x).tPtr = s.tPtr := rfl
@[simp] theorem setTen_bags (n : Nat) (x : Tenant) : (setTen s n x).bags = s.bags := rfl
@[simp] theorem setTen_envs (n : Nat) (x : Tenant) : (setTen s n x).envs = s.envs := rfl
@[simp] theorem setTen_esendReceipts (n : Nat) (x : Tenant) : (setTen s n x).esendReceipts = s.esendReceipts := rfl
@[simp] theorem setTen_buffers (n : Nat) (x : Tenant) : (setTen s n x).buffers = s.buffers := rfl
@[simp] theorem setTen_keys (n : Nat) (x : Tenant) : (setTen s n x).keys = s.keys := rfl
@[simp] theorem setTen_ctxs (n : Nat) (x : Tenant) : (setTen s n x).ctxs = s.ctxs := rfl
@[simp] theorem setTen_rotation (n : Nat) (x : Tenant) : (setTen s n x).rotation = s.rotation := rfl
@[simp] theorem setTen_ideActive (n : Nat) (x : Tenant) : (setTen s n x).ideActive = s.ideActive := rfl
@[simp] theorem setTen_ports (n : Nat) (x : Tenant) : (setTen s n x).ports = s.ports := rfl
@[simp] theorem setTen_fx (n : Nat) (x : Tenant) : (setTen s n x).fx = s.fx := rfl
@[simp] theorem setTen_book (n : Nat) (x : Tenant) : (setTen s n x).book = s.book := rfl
@[simp] theorem setTen_bookRx (n : Nat) (x : Tenant) : (setTen s n x).bookRx = s.bookRx := rfl
@[simp] theorem setTen_reqs (n : Nat) (x : Tenant) : (setTen s n x).reqs = s.reqs := rfl
@[simp] theorem setTen_served (n : Nat) (x : Tenant) : (setTen s n x).served = s.served := rfl
@[simp] theorem setTen_nextXtag (n : Nat) (x : Tenant) : (setTen s n x).nextXtag = s.nextXtag := rfl
@[simp] theorem setTen_nextServed (n : Nat) (x : Tenant) : (setTen s n x).nextServed = s.nextServed := rfl
@[simp] theorem setTen_pmMsgCtr (n : Nat) (x : Tenant) : (setTen s n x).pmMsgCtr = s.pmMsgCtr := rfl
@[simp] theorem setTen_wokeAt (n : Nat) (x : Tenant) : (setTen s n x).wokeAt = s.wokeAt := rfl
@[simp] theorem setTen_nextEnv (n : Nat) (x : Tenant) : (setTen s n x).nextEnv = s.nextEnv := rfl
@[simp] theorem setTen_cfgRegs (n : Nat) (x : Tenant) : (setTen s n x).cfgRegs = s.cfgRegs := rfl
@[simp] theorem setTen_chutes (n : Nat) (x : Tenant) : (setTen s n x).chutes = s.chutes := rfl
@[simp] theorem setTen_chStatus (n : Nat) (x : Tenant) : (setTen s n x).chStatus = s.chStatus := rfl
@[simp] theorem setTen_ic0 (n : Nat) (x : Tenant) : (setTen s n x).ic0 = s.ic0 := rfl
@[simp] theorem setTen_ic1 (n : Nat) (x : Tenant) : (setTen s n x).ic1 = s.ic1 := rfl
@[simp] theorem setTen_filters (n : Nat) (x : Tenant) : (setTen s n x).filters = s.filters := rfl
@[simp] theorem setTen_vecs (n : Nat) (x : Tenant) : (setTen s n x).vecs = s.vecs := rfl
@[simp] theorem setTen_fmask (n : Nat) (x : Tenant) : (setTen s n x).fmask = s.fmask := rfl
@[simp] theorem setTen_cm (n : Nat) (x : Tenant) : (setTen s n x).cm = s.cm := rfl
@[simp] theorem setTen_sys (n : Nat) (x : Tenant) : (setTen s n x).sys = s.sys := rfl
@[simp] theorem setTen_stewards (n : Nat) (x : Tenant) : (setTen s n x).stewards = s.stewards := rfl
@[simp] theorem setTen_flashA (n : Nat) (x : Tenant) : (setTen s n x).flashA = s.flashA := rfl
@[simp] theorem setTen_flashB (n : Nat) (x : Tenant) : (setTen s n x).flashB = s.flashB := rfl
@[simp] theorem setTen_out (n : Nat) (x : Tenant) : (setTen s n x).out = s.out := rfl

/-! ### setBag -/

@[simp] theorem setBag_pending (f : Fn) (m : Nat) (x : Mailbag) : (setBag s f m x).pending = s.pending := rfl
@[simp] theorem setBag_fuses (f : Fn) (m : Nat) (x : Mailbag) : (setBag s f m x).fuses = s.fuses := rfl
@[simp] theorem setBag_sclk (f : Fn) (m : Nat) (x : Mailbag) : (setBag s f m x).sclk = s.sclk := rfl
@[simp] theorem setBag_free (f : Fn) (m : Nat) (x : Mailbag) : (setBag s f m x).free = s.free := rfl
@[simp] theorem setBag_time (f : Fn) (m : Nat) (x : Mailbag) : (setBag s f m x).time = s.time := rfl
@[simp] theorem setBag_tiles (f : Fn) (m : Nat) (x : Mailbag) : (setBag s f m x).tiles = s.tiles := rfl
@[simp] theorem setBag_tileMap (f : Fn) (m : Nat) (x : Mailbag) : (setBag s f m x).tileMap = s.tileMap := rfl
@[simp] theorem setBag_pmA (f : Fn) (m : Nat) (x : Mailbag) : (setBag s f m x).pmA = s.pmA := rfl
@[simp] theorem setBag_pmB (f : Fn) (m : Nat) (x : Mailbag) : (setBag s f m x).pmB = s.pmB := rfl
@[simp] theorem setBag_hbm (f : Fn) (m : Nat) (x : Mailbag) : (setBag s f m x).hbm = s.hbm := rfl
@[simp] theorem setBag_hcStacks (f : Fn) (m : Nat) (x : Mailbag) : (setBag s f m x).hcStacks = s.hcStacks := rfl
@[simp] theorem setBag_chans (f : Fn) (m : Nat) (x : Mailbag) : (setBag s f m x).chans = s.chans := rfl
@[simp] theorem setBag_jobs (f : Fn) (m : Nat) (x : Mailbag) : (setBag s f m x).jobs = s.jobs := rfl
@[simp] theorem setBag_nextJob (f : Fn) (m : Nat) (x : Mailbag) : (setBag s f m x).nextJob = s.nextJob := rfl
@[simp] theorem setBag_postCycle (f : Fn) (m : Nat) (x : Mailbag) : (setBag s f m x).postCycle = s.postCycle := rfl
@[simp] theorem setBag_moved (f : Fn) (m : Nat) (x : Mailbag) : (setBag s f m x).moved = s.moved := rfl
@[simp] theorem setBag_plan (f : Fn) (m : Nat) (x : Mailbag) : (setBag s f m x).plan = s.plan := rfl
@[simp] theorem setBag_nextPlan (f : Fn) (m : Nat) (x : Mailbag) : (setBag s f m x).nextPlan = s.nextPlan := rfl
@[simp] theorem setBag_tenants (f : Fn) (m : Nat) (x : Mailbag) : (setBag s f m x).tenants = s.tenants := rfl
@[simp] theorem setBag_numVfs (f : Fn) (m : Nat) (x : Mailbag) : (setBag s f m x).numVfs = s.numVfs := rfl
@[simp] theorem setBag_vfEnable (f : Fn) (m : Nat) (x : Mailbag) : (setBag s f m x).vfEnable = s.vfEnable := rfl
@[simp] theorem setBag_pfSpdm (f : Fn) (m : Nat) (x : Mailbag) : (setBag s f m x).pfSpdm = s.pfSpdm := rfl
@[simp] theorem setBag_pfUnsol (f : Fn) (m : Nat) (x : Mailbag) : (setBag s f m x).pfUnsol = s.pfUnsol := rfl
@[simp] theorem setBag_pfLost (f : Fn) (m : Nat) (x : Mailbag) : (setBag s f m x).pfLost = s.pfLost := rfl
@[simp] theorem setBag_pfFaults (f : Fn) (m : Nat) (x : Mailbag) : (setBag s f m x).pfFaults = s.pfFaults := rfl
@[simp] theorem setBag_pfPtr (f : Fn) (m : Nat) (x : Mailbag) : (setBag s f m x).pfPtr = s.pfPtr := rfl
@[simp] theorem setBag_tPtr (f : Fn) (m : Nat) (x : Mailbag) : (setBag s f m x).tPtr = s.tPtr := rfl
@[simp] theorem setBag_envs (f : Fn) (m : Nat) (x : Mailbag) : (setBag s f m x).envs = s.envs := rfl
@[simp] theorem setBag_esendReceipts (f : Fn) (m : Nat) (x : Mailbag) : (setBag s f m x).esendReceipts = s.esendReceipts := rfl
@[simp] theorem setBag_buffers (f : Fn) (m : Nat) (x : Mailbag) : (setBag s f m x).buffers = s.buffers := rfl
@[simp] theorem setBag_keys (f : Fn) (m : Nat) (x : Mailbag) : (setBag s f m x).keys = s.keys := rfl
@[simp] theorem setBag_ctxs (f : Fn) (m : Nat) (x : Mailbag) : (setBag s f m x).ctxs = s.ctxs := rfl
@[simp] theorem setBag_rotation (f : Fn) (m : Nat) (x : Mailbag) : (setBag s f m x).rotation = s.rotation := rfl
@[simp] theorem setBag_ideActive (f : Fn) (m : Nat) (x : Mailbag) : (setBag s f m x).ideActive = s.ideActive := rfl
@[simp] theorem setBag_ports (f : Fn) (m : Nat) (x : Mailbag) : (setBag s f m x).ports = s.ports := rfl
@[simp] theorem setBag_fx (f : Fn) (m : Nat) (x : Mailbag) : (setBag s f m x).fx = s.fx := rfl
@[simp] theorem setBag_book (f : Fn) (m : Nat) (x : Mailbag) : (setBag s f m x).book = s.book := rfl
@[simp] theorem setBag_bookRx (f : Fn) (m : Nat) (x : Mailbag) : (setBag s f m x).bookRx = s.bookRx := rfl
@[simp] theorem setBag_reqs (f : Fn) (m : Nat) (x : Mailbag) : (setBag s f m x).reqs = s.reqs := rfl
@[simp] theorem setBag_served (f : Fn) (m : Nat) (x : Mailbag) : (setBag s f m x).served = s.served := rfl
@[simp] theorem setBag_nextXtag (f : Fn) (m : Nat) (x : Mailbag) : (setBag s f m x).nextXtag = s.nextXtag := rfl
@[simp] theorem setBag_nextServed (f : Fn) (m : Nat) (x : Mailbag) : (setBag s f m x).nextServed = s.nextServed := rfl
@[simp] theorem setBag_pmMsgCtr (f : Fn) (m : Nat) (x : Mailbag) : (setBag s f m x).pmMsgCtr = s.pmMsgCtr := rfl
@[simp] theorem setBag_wokeAt (f : Fn) (m : Nat) (x : Mailbag) : (setBag s f m x).wokeAt = s.wokeAt := rfl
@[simp] theorem setBag_nextEnv (f : Fn) (m : Nat) (x : Mailbag) : (setBag s f m x).nextEnv = s.nextEnv := rfl
@[simp] theorem setBag_cfgRegs (f : Fn) (m : Nat) (x : Mailbag) : (setBag s f m x).cfgRegs = s.cfgRegs := rfl
@[simp] theorem setBag_chutes (f : Fn) (m : Nat) (x : Mailbag) : (setBag s f m x).chutes = s.chutes := rfl
@[simp] theorem setBag_chStatus (f : Fn) (m : Nat) (x : Mailbag) : (setBag s f m x).chStatus = s.chStatus := rfl
@[simp] theorem setBag_ic0 (f : Fn) (m : Nat) (x : Mailbag) : (setBag s f m x).ic0 = s.ic0 := rfl
@[simp] theorem setBag_ic1 (f : Fn) (m : Nat) (x : Mailbag) : (setBag s f m x).ic1 = s.ic1 := rfl
@[simp] theorem setBag_filters (f : Fn) (m : Nat) (x : Mailbag) : (setBag s f m x).filters = s.filters := rfl
@[simp] theorem setBag_vecs (f : Fn) (m : Nat) (x : Mailbag) : (setBag s f m x).vecs = s.vecs := rfl
@[simp] theorem setBag_fmask (f : Fn) (m : Nat) (x : Mailbag) : (setBag s f m x).fmask = s.fmask := rfl
@[simp] theorem setBag_cm (f : Fn) (m : Nat) (x : Mailbag) : (setBag s f m x).cm = s.cm := rfl
@[simp] theorem setBag_sys (f : Fn) (m : Nat) (x : Mailbag) : (setBag s f m x).sys = s.sys := rfl
@[simp] theorem setBag_stewards (f : Fn) (m : Nat) (x : Mailbag) : (setBag s f m x).stewards = s.stewards := rfl
@[simp] theorem setBag_flashA (f : Fn) (m : Nat) (x : Mailbag) : (setBag s f m x).flashA = s.flashA := rfl
@[simp] theorem setBag_flashB (f : Fn) (m : Nat) (x : Mailbag) : (setBag s f m x).flashB = s.flashB := rfl
@[simp] theorem setBag_out (f : Fn) (m : Nat) (x : Mailbag) : (setBag s f m x).out = s.out := rfl

/-! ### setKey -/

@[simp] theorem setKey_pending (k : Nat) (x : KeySlot) : (setKey s k x).pending = s.pending := rfl
@[simp] theorem setKey_fuses (k : Nat) (x : KeySlot) : (setKey s k x).fuses = s.fuses := rfl
@[simp] theorem setKey_sclk (k : Nat) (x : KeySlot) : (setKey s k x).sclk = s.sclk := rfl
@[simp] theorem setKey_free (k : Nat) (x : KeySlot) : (setKey s k x).free = s.free := rfl
@[simp] theorem setKey_time (k : Nat) (x : KeySlot) : (setKey s k x).time = s.time := rfl
@[simp] theorem setKey_tiles (k : Nat) (x : KeySlot) : (setKey s k x).tiles = s.tiles := rfl
@[simp] theorem setKey_tileMap (k : Nat) (x : KeySlot) : (setKey s k x).tileMap = s.tileMap := rfl
@[simp] theorem setKey_pmA (k : Nat) (x : KeySlot) : (setKey s k x).pmA = s.pmA := rfl
@[simp] theorem setKey_pmB (k : Nat) (x : KeySlot) : (setKey s k x).pmB = s.pmB := rfl
@[simp] theorem setKey_hbm (k : Nat) (x : KeySlot) : (setKey s k x).hbm = s.hbm := rfl
@[simp] theorem setKey_hcStacks (k : Nat) (x : KeySlot) : (setKey s k x).hcStacks = s.hcStacks := rfl
@[simp] theorem setKey_chans (k : Nat) (x : KeySlot) : (setKey s k x).chans = s.chans := rfl
@[simp] theorem setKey_jobs (k : Nat) (x : KeySlot) : (setKey s k x).jobs = s.jobs := rfl
@[simp] theorem setKey_nextJob (k : Nat) (x : KeySlot) : (setKey s k x).nextJob = s.nextJob := rfl
@[simp] theorem setKey_postCycle (k : Nat) (x : KeySlot) : (setKey s k x).postCycle = s.postCycle := rfl
@[simp] theorem setKey_moved (k : Nat) (x : KeySlot) : (setKey s k x).moved = s.moved := rfl
@[simp] theorem setKey_plan (k : Nat) (x : KeySlot) : (setKey s k x).plan = s.plan := rfl
@[simp] theorem setKey_nextPlan (k : Nat) (x : KeySlot) : (setKey s k x).nextPlan = s.nextPlan := rfl
@[simp] theorem setKey_tenants (k : Nat) (x : KeySlot) : (setKey s k x).tenants = s.tenants := rfl
@[simp] theorem setKey_numVfs (k : Nat) (x : KeySlot) : (setKey s k x).numVfs = s.numVfs := rfl
@[simp] theorem setKey_vfEnable (k : Nat) (x : KeySlot) : (setKey s k x).vfEnable = s.vfEnable := rfl
@[simp] theorem setKey_pfSpdm (k : Nat) (x : KeySlot) : (setKey s k x).pfSpdm = s.pfSpdm := rfl
@[simp] theorem setKey_pfUnsol (k : Nat) (x : KeySlot) : (setKey s k x).pfUnsol = s.pfUnsol := rfl
@[simp] theorem setKey_pfLost (k : Nat) (x : KeySlot) : (setKey s k x).pfLost = s.pfLost := rfl
@[simp] theorem setKey_pfFaults (k : Nat) (x : KeySlot) : (setKey s k x).pfFaults = s.pfFaults := rfl
@[simp] theorem setKey_pfPtr (k : Nat) (x : KeySlot) : (setKey s k x).pfPtr = s.pfPtr := rfl
@[simp] theorem setKey_tPtr (k : Nat) (x : KeySlot) : (setKey s k x).tPtr = s.tPtr := rfl
@[simp] theorem setKey_bags (k : Nat) (x : KeySlot) : (setKey s k x).bags = s.bags := rfl
@[simp] theorem setKey_envs (k : Nat) (x : KeySlot) : (setKey s k x).envs = s.envs := rfl
@[simp] theorem setKey_esendReceipts (k : Nat) (x : KeySlot) : (setKey s k x).esendReceipts = s.esendReceipts := rfl
@[simp] theorem setKey_buffers (k : Nat) (x : KeySlot) : (setKey s k x).buffers = s.buffers := rfl
@[simp] theorem setKey_ctxs (k : Nat) (x : KeySlot) : (setKey s k x).ctxs = s.ctxs := rfl
@[simp] theorem setKey_rotation (k : Nat) (x : KeySlot) : (setKey s k x).rotation = s.rotation := rfl
@[simp] theorem setKey_ideActive (k : Nat) (x : KeySlot) : (setKey s k x).ideActive = s.ideActive := rfl
@[simp] theorem setKey_ports (k : Nat) (x : KeySlot) : (setKey s k x).ports = s.ports := rfl
@[simp] theorem setKey_fx (k : Nat) (x : KeySlot) : (setKey s k x).fx = s.fx := rfl
@[simp] theorem setKey_book (k : Nat) (x : KeySlot) : (setKey s k x).book = s.book := rfl
@[simp] theorem setKey_bookRx (k : Nat) (x : KeySlot) : (setKey s k x).bookRx = s.bookRx := rfl
@[simp] theorem setKey_reqs (k : Nat) (x : KeySlot) : (setKey s k x).reqs = s.reqs := rfl
@[simp] theorem setKey_served (k : Nat) (x : KeySlot) : (setKey s k x).served = s.served := rfl
@[simp] theorem setKey_nextXtag (k : Nat) (x : KeySlot) : (setKey s k x).nextXtag = s.nextXtag := rfl
@[simp] theorem setKey_nextServed (k : Nat) (x : KeySlot) : (setKey s k x).nextServed = s.nextServed := rfl
@[simp] theorem setKey_pmMsgCtr (k : Nat) (x : KeySlot) : (setKey s k x).pmMsgCtr = s.pmMsgCtr := rfl
@[simp] theorem setKey_wokeAt (k : Nat) (x : KeySlot) : (setKey s k x).wokeAt = s.wokeAt := rfl
@[simp] theorem setKey_nextEnv (k : Nat) (x : KeySlot) : (setKey s k x).nextEnv = s.nextEnv := rfl
@[simp] theorem setKey_cfgRegs (k : Nat) (x : KeySlot) : (setKey s k x).cfgRegs = s.cfgRegs := rfl
@[simp] theorem setKey_chutes (k : Nat) (x : KeySlot) : (setKey s k x).chutes = s.chutes := rfl
@[simp] theorem setKey_chStatus (k : Nat) (x : KeySlot) : (setKey s k x).chStatus = s.chStatus := rfl
@[simp] theorem setKey_ic0 (k : Nat) (x : KeySlot) : (setKey s k x).ic0 = s.ic0 := rfl
@[simp] theorem setKey_ic1 (k : Nat) (x : KeySlot) : (setKey s k x).ic1 = s.ic1 := rfl
@[simp] theorem setKey_filters (k : Nat) (x : KeySlot) : (setKey s k x).filters = s.filters := rfl
@[simp] theorem setKey_vecs (k : Nat) (x : KeySlot) : (setKey s k x).vecs = s.vecs := rfl
@[simp] theorem setKey_fmask (k : Nat) (x : KeySlot) : (setKey s k x).fmask = s.fmask := rfl
@[simp] theorem setKey_cm (k : Nat) (x : KeySlot) : (setKey s k x).cm = s.cm := rfl
@[simp] theorem setKey_sys (k : Nat) (x : KeySlot) : (setKey s k x).sys = s.sys := rfl
@[simp] theorem setKey_stewards (k : Nat) (x : KeySlot) : (setKey s k x).stewards = s.stewards := rfl
@[simp] theorem setKey_flashA (k : Nat) (x : KeySlot) : (setKey s k x).flashA = s.flashA := rfl
@[simp] theorem setKey_flashB (k : Nat) (x : KeySlot) : (setKey s k x).flashB = s.flashB := rfl
@[simp] theorem setKey_out (k : Nat) (x : KeySlot) : (setKey s k x).out = s.out := rfl

/-! ### setPort -/

@[simp] theorem setPort_pending (p : Nat) (x : Port) : (setPort s p x).pending = s.pending := rfl
@[simp] theorem setPort_fuses (p : Nat) (x : Port) : (setPort s p x).fuses = s.fuses := rfl
@[simp] theorem setPort_sclk (p : Nat) (x : Port) : (setPort s p x).sclk = s.sclk := rfl
@[simp] theorem setPort_free (p : Nat) (x : Port) : (setPort s p x).free = s.free := rfl
@[simp] theorem setPort_time (p : Nat) (x : Port) : (setPort s p x).time = s.time := rfl
@[simp] theorem setPort_tiles (p : Nat) (x : Port) : (setPort s p x).tiles = s.tiles := rfl
@[simp] theorem setPort_tileMap (p : Nat) (x : Port) : (setPort s p x).tileMap = s.tileMap := rfl
@[simp] theorem setPort_pmA (p : Nat) (x : Port) : (setPort s p x).pmA = s.pmA := rfl
@[simp] theorem setPort_pmB (p : Nat) (x : Port) : (setPort s p x).pmB = s.pmB := rfl
@[simp] theorem setPort_hbm (p : Nat) (x : Port) : (setPort s p x).hbm = s.hbm := rfl
@[simp] theorem setPort_hcStacks (p : Nat) (x : Port) : (setPort s p x).hcStacks = s.hcStacks := rfl
@[simp] theorem setPort_chans (p : Nat) (x : Port) : (setPort s p x).chans = s.chans := rfl
@[simp] theorem setPort_jobs (p : Nat) (x : Port) : (setPort s p x).jobs = s.jobs := rfl
@[simp] theorem setPort_nextJob (p : Nat) (x : Port) : (setPort s p x).nextJob = s.nextJob := rfl
@[simp] theorem setPort_postCycle (p : Nat) (x : Port) : (setPort s p x).postCycle = s.postCycle := rfl
@[simp] theorem setPort_moved (p : Nat) (x : Port) : (setPort s p x).moved = s.moved := rfl
@[simp] theorem setPort_plan (p : Nat) (x : Port) : (setPort s p x).plan = s.plan := rfl
@[simp] theorem setPort_nextPlan (p : Nat) (x : Port) : (setPort s p x).nextPlan = s.nextPlan := rfl
@[simp] theorem setPort_tenants (p : Nat) (x : Port) : (setPort s p x).tenants = s.tenants := rfl
@[simp] theorem setPort_numVfs (p : Nat) (x : Port) : (setPort s p x).numVfs = s.numVfs := rfl
@[simp] theorem setPort_vfEnable (p : Nat) (x : Port) : (setPort s p x).vfEnable = s.vfEnable := rfl
@[simp] theorem setPort_pfSpdm (p : Nat) (x : Port) : (setPort s p x).pfSpdm = s.pfSpdm := rfl
@[simp] theorem setPort_pfUnsol (p : Nat) (x : Port) : (setPort s p x).pfUnsol = s.pfUnsol := rfl
@[simp] theorem setPort_pfLost (p : Nat) (x : Port) : (setPort s p x).pfLost = s.pfLost := rfl
@[simp] theorem setPort_pfFaults (p : Nat) (x : Port) : (setPort s p x).pfFaults = s.pfFaults := rfl
@[simp] theorem setPort_pfPtr (p : Nat) (x : Port) : (setPort s p x).pfPtr = s.pfPtr := rfl
@[simp] theorem setPort_tPtr (p : Nat) (x : Port) : (setPort s p x).tPtr = s.tPtr := rfl
@[simp] theorem setPort_bags (p : Nat) (x : Port) : (setPort s p x).bags = s.bags := rfl
@[simp] theorem setPort_envs (p : Nat) (x : Port) : (setPort s p x).envs = s.envs := rfl
@[simp] theorem setPort_esendReceipts (p : Nat) (x : Port) : (setPort s p x).esendReceipts = s.esendReceipts := rfl
@[simp] theorem setPort_buffers (p : Nat) (x : Port) : (setPort s p x).buffers = s.buffers := rfl
@[simp] theorem setPort_keys (p : Nat) (x : Port) : (setPort s p x).keys = s.keys := rfl
@[simp] theorem setPort_ctxs (p : Nat) (x : Port) : (setPort s p x).ctxs = s.ctxs := rfl
@[simp] theorem setPort_rotation (p : Nat) (x : Port) : (setPort s p x).rotation = s.rotation := rfl
@[simp] theorem setPort_ideActive (p : Nat) (x : Port) : (setPort s p x).ideActive = s.ideActive := rfl
@[simp] theorem setPort_fx (p : Nat) (x : Port) : (setPort s p x).fx = s.fx := rfl
@[simp] theorem setPort_book (p : Nat) (x : Port) : (setPort s p x).book = s.book := rfl
@[simp] theorem setPort_bookRx (p : Nat) (x : Port) : (setPort s p x).bookRx = s.bookRx := rfl
@[simp] theorem setPort_reqs (p : Nat) (x : Port) : (setPort s p x).reqs = s.reqs := rfl
@[simp] theorem setPort_served (p : Nat) (x : Port) : (setPort s p x).served = s.served := rfl
@[simp] theorem setPort_nextXtag (p : Nat) (x : Port) : (setPort s p x).nextXtag = s.nextXtag := rfl
@[simp] theorem setPort_nextServed (p : Nat) (x : Port) : (setPort s p x).nextServed = s.nextServed := rfl
@[simp] theorem setPort_pmMsgCtr (p : Nat) (x : Port) : (setPort s p x).pmMsgCtr = s.pmMsgCtr := rfl
@[simp] theorem setPort_wokeAt (p : Nat) (x : Port) : (setPort s p x).wokeAt = s.wokeAt := rfl
@[simp] theorem setPort_nextEnv (p : Nat) (x : Port) : (setPort s p x).nextEnv = s.nextEnv := rfl
@[simp] theorem setPort_cfgRegs (p : Nat) (x : Port) : (setPort s p x).cfgRegs = s.cfgRegs := rfl
@[simp] theorem setPort_chutes (p : Nat) (x : Port) : (setPort s p x).chutes = s.chutes := rfl
@[simp] theorem setPort_chStatus (p : Nat) (x : Port) : (setPort s p x).chStatus = s.chStatus := rfl
@[simp] theorem setPort_ic0 (p : Nat) (x : Port) : (setPort s p x).ic0 = s.ic0 := rfl
@[simp] theorem setPort_ic1 (p : Nat) (x : Port) : (setPort s p x).ic1 = s.ic1 := rfl
@[simp] theorem setPort_filters (p : Nat) (x : Port) : (setPort s p x).filters = s.filters := rfl
@[simp] theorem setPort_vecs (p : Nat) (x : Port) : (setPort s p x).vecs = s.vecs := rfl
@[simp] theorem setPort_fmask (p : Nat) (x : Port) : (setPort s p x).fmask = s.fmask := rfl
@[simp] theorem setPort_cm (p : Nat) (x : Port) : (setPort s p x).cm = s.cm := rfl
@[simp] theorem setPort_sys (p : Nat) (x : Port) : (setPort s p x).sys = s.sys := rfl
@[simp] theorem setPort_stewards (p : Nat) (x : Port) : (setPort s p x).stewards = s.stewards := rfl
@[simp] theorem setPort_flashA (p : Nat) (x : Port) : (setPort s p x).flashA = s.flashA := rfl
@[simp] theorem setPort_flashB (p : Nat) (x : Port) : (setPort s p x).flashB = s.flashB := rfl
@[simp] theorem setPort_out (p : Nat) (x : Port) : (setPort s p x).out = s.out := rfl

/-! ### setVec -/

@[simp] theorem setVec_pending (f : Fn) (v : Nat) (x : Vec) : (setVec s f v x).pending = s.pending := rfl
@[simp] theorem setVec_fuses (f : Fn) (v : Nat) (x : Vec) : (setVec s f v x).fuses = s.fuses := rfl
@[simp] theorem setVec_sclk (f : Fn) (v : Nat) (x : Vec) : (setVec s f v x).sclk = s.sclk := rfl
@[simp] theorem setVec_free (f : Fn) (v : Nat) (x : Vec) : (setVec s f v x).free = s.free := rfl
@[simp] theorem setVec_time (f : Fn) (v : Nat) (x : Vec) : (setVec s f v x).time = s.time := rfl
@[simp] theorem setVec_tiles (f : Fn) (v : Nat) (x : Vec) : (setVec s f v x).tiles = s.tiles := rfl
@[simp] theorem setVec_tileMap (f : Fn) (v : Nat) (x : Vec) : (setVec s f v x).tileMap = s.tileMap := rfl
@[simp] theorem setVec_pmA (f : Fn) (v : Nat) (x : Vec) : (setVec s f v x).pmA = s.pmA := rfl
@[simp] theorem setVec_pmB (f : Fn) (v : Nat) (x : Vec) : (setVec s f v x).pmB = s.pmB := rfl
@[simp] theorem setVec_hbm (f : Fn) (v : Nat) (x : Vec) : (setVec s f v x).hbm = s.hbm := rfl
@[simp] theorem setVec_hcStacks (f : Fn) (v : Nat) (x : Vec) : (setVec s f v x).hcStacks = s.hcStacks := rfl
@[simp] theorem setVec_chans (f : Fn) (v : Nat) (x : Vec) : (setVec s f v x).chans = s.chans := rfl
@[simp] theorem setVec_jobs (f : Fn) (v : Nat) (x : Vec) : (setVec s f v x).jobs = s.jobs := rfl
@[simp] theorem setVec_nextJob (f : Fn) (v : Nat) (x : Vec) : (setVec s f v x).nextJob = s.nextJob := rfl
@[simp] theorem setVec_postCycle (f : Fn) (v : Nat) (x : Vec) : (setVec s f v x).postCycle = s.postCycle := rfl
@[simp] theorem setVec_moved (f : Fn) (v : Nat) (x : Vec) : (setVec s f v x).moved = s.moved := rfl
@[simp] theorem setVec_plan (f : Fn) (v : Nat) (x : Vec) : (setVec s f v x).plan = s.plan := rfl
@[simp] theorem setVec_nextPlan (f : Fn) (v : Nat) (x : Vec) : (setVec s f v x).nextPlan = s.nextPlan := rfl
@[simp] theorem setVec_tenants (f : Fn) (v : Nat) (x : Vec) : (setVec s f v x).tenants = s.tenants := rfl
@[simp] theorem setVec_numVfs (f : Fn) (v : Nat) (x : Vec) : (setVec s f v x).numVfs = s.numVfs := rfl
@[simp] theorem setVec_vfEnable (f : Fn) (v : Nat) (x : Vec) : (setVec s f v x).vfEnable = s.vfEnable := rfl
@[simp] theorem setVec_pfSpdm (f : Fn) (v : Nat) (x : Vec) : (setVec s f v x).pfSpdm = s.pfSpdm := rfl
@[simp] theorem setVec_pfUnsol (f : Fn) (v : Nat) (x : Vec) : (setVec s f v x).pfUnsol = s.pfUnsol := rfl
@[simp] theorem setVec_pfLost (f : Fn) (v : Nat) (x : Vec) : (setVec s f v x).pfLost = s.pfLost := rfl
@[simp] theorem setVec_pfFaults (f : Fn) (v : Nat) (x : Vec) : (setVec s f v x).pfFaults = s.pfFaults := rfl
@[simp] theorem setVec_pfPtr (f : Fn) (v : Nat) (x : Vec) : (setVec s f v x).pfPtr = s.pfPtr := rfl
@[simp] theorem setVec_tPtr (f : Fn) (v : Nat) (x : Vec) : (setVec s f v x).tPtr = s.tPtr := rfl
@[simp] theorem setVec_bags (f : Fn) (v : Nat) (x : Vec) : (setVec s f v x).bags = s.bags := rfl
@[simp] theorem setVec_envs (f : Fn) (v : Nat) (x : Vec) : (setVec s f v x).envs = s.envs := rfl
@[simp] theorem setVec_esendReceipts (f : Fn) (v : Nat) (x : Vec) : (setVec s f v x).esendReceipts = s.esendReceipts := rfl
@[simp] theorem setVec_buffers (f : Fn) (v : Nat) (x : Vec) : (setVec s f v x).buffers = s.buffers := rfl
@[simp] theorem setVec_keys (f : Fn) (v : Nat) (x : Vec) : (setVec s f v x).keys = s.keys := rfl
@[simp] theorem setVec_ctxs (f : Fn) (v : Nat) (x : Vec) : (setVec s f v x).ctxs = s.ctxs := rfl
@[simp] theorem setVec_rotation (f : Fn) (v : Nat) (x : Vec) : (setVec s f v x).rotation = s.rotation := rfl
@[simp] theorem setVec_ideActive (f : Fn) (v : Nat) (x : Vec) : (setVec s f v x).ideActive = s.ideActive := rfl
@[simp] theorem setVec_ports (f : Fn) (v : Nat) (x : Vec) : (setVec s f v x).ports = s.ports := rfl
@[simp] theorem setVec_fx (f : Fn) (v : Nat) (x : Vec) : (setVec s f v x).fx = s.fx := rfl
@[simp] theorem setVec_book (f : Fn) (v : Nat) (x : Vec) : (setVec s f v x).book = s.book := rfl
@[simp] theorem setVec_bookRx (f : Fn) (v : Nat) (x : Vec) : (setVec s f v x).bookRx = s.bookRx := rfl
@[simp] theorem setVec_reqs (f : Fn) (v : Nat) (x : Vec) : (setVec s f v x).reqs = s.reqs := rfl
@[simp] theorem setVec_served (f : Fn) (v : Nat) (x : Vec) : (setVec s f v x).served = s.served := rfl
@[simp] theorem setVec_nextXtag (f : Fn) (v : Nat) (x : Vec) : (setVec s f v x).nextXtag = s.nextXtag := rfl
@[simp] theorem setVec_nextServed (f : Fn) (v : Nat) (x : Vec) : (setVec s f v x).nextServed = s.nextServed := rfl
@[simp] theorem setVec_pmMsgCtr (f : Fn) (v : Nat) (x : Vec) : (setVec s f v x).pmMsgCtr = s.pmMsgCtr := rfl
@[simp] theorem setVec_wokeAt (f : Fn) (v : Nat) (x : Vec) : (setVec s f v x).wokeAt = s.wokeAt := rfl
@[simp] theorem setVec_nextEnv (f : Fn) (v : Nat) (x : Vec) : (setVec s f v x).nextEnv = s.nextEnv := rfl
@[simp] theorem setVec_cfgRegs (f : Fn) (v : Nat) (x : Vec) : (setVec s f v x).cfgRegs = s.cfgRegs := rfl
@[simp] theorem setVec_chutes (f : Fn) (v : Nat) (x : Vec) : (setVec s f v x).chutes = s.chutes := rfl
@[simp] theorem setVec_chStatus (f : Fn) (v : Nat) (x : Vec) : (setVec s f v x).chStatus = s.chStatus := rfl
@[simp] theorem setVec_ic0 (f : Fn) (v : Nat) (x : Vec) : (setVec s f v x).ic0 = s.ic0 := rfl
@[simp] theorem setVec_ic1 (f : Fn) (v : Nat) (x : Vec) : (setVec s f v x).ic1 = s.ic1 := rfl
@[simp] theorem setVec_filters (f : Fn) (v : Nat) (x : Vec) : (setVec s f v x).filters = s.filters := rfl
@[simp] theorem setVec_fmask (f : Fn) (v : Nat) (x : Vec) : (setVec s f v x).fmask = s.fmask := rfl
@[simp] theorem setVec_cm (f : Fn) (v : Nat) (x : Vec) : (setVec s f v x).cm = s.cm := rfl
@[simp] theorem setVec_sys (f : Fn) (v : Nat) (x : Vec) : (setVec s f v x).sys = s.sys := rfl
@[simp] theorem setVec_stewards (f : Fn) (v : Nat) (x : Vec) : (setVec s f v x).stewards = s.stewards := rfl
@[simp] theorem setVec_flashA (f : Fn) (v : Nat) (x : Vec) : (setVec s f v x).flashA = s.flashA := rfl
@[simp] theorem setVec_flashB (f : Fn) (v : Nat) (x : Vec) : (setVec s f v x).flashB = s.flashB := rfl
@[simp] theorem setVec_out (f : Fn) (v : Nat) (x : Vec) : (setVec s f v x).out = s.out := rfl

/-! ### setBuf -/

@[simp] theorem setBuf_pending (b : Nat) (x : Buffer) : (setBuf s b x).pending = s.pending := rfl
@[simp] theorem setBuf_fuses (b : Nat) (x : Buffer) : (setBuf s b x).fuses = s.fuses := rfl
@[simp] theorem setBuf_sclk (b : Nat) (x : Buffer) : (setBuf s b x).sclk = s.sclk := rfl
@[simp] theorem setBuf_free (b : Nat) (x : Buffer) : (setBuf s b x).free = s.free := rfl
@[simp] theorem setBuf_time (b : Nat) (x : Buffer) : (setBuf s b x).time = s.time := rfl
@[simp] theorem setBuf_tiles (b : Nat) (x : Buffer) : (setBuf s b x).tiles = s.tiles := rfl
@[simp] theorem setBuf_tileMap (b : Nat) (x : Buffer) : (setBuf s b x).tileMap = s.tileMap := rfl
@[simp] theorem setBuf_pmA (b : Nat) (x : Buffer) : (setBuf s b x).pmA = s.pmA := rfl
@[simp] theorem setBuf_pmB (b : Nat) (x : Buffer) : (setBuf s b x).pmB = s.pmB := rfl
@[simp] theorem setBuf_hbm (b : Nat) (x : Buffer) : (setBuf s b x).hbm = s.hbm := rfl
@[simp] theorem setBuf_hcStacks (b : Nat) (x : Buffer) : (setBuf s b x).hcStacks = s.hcStacks := rfl
@[simp] theorem setBuf_chans (b : Nat) (x : Buffer) : (setBuf s b x).chans = s.chans := rfl
@[simp] theorem setBuf_jobs (b : Nat) (x : Buffer) : (setBuf s b x).jobs = s.jobs := rfl
@[simp] theorem setBuf_nextJob (b : Nat) (x : Buffer) : (setBuf s b x).nextJob = s.nextJob := rfl
@[simp] theorem setBuf_postCycle (b : Nat) (x : Buffer) : (setBuf s b x).postCycle = s.postCycle := rfl
@[simp] theorem setBuf_moved (b : Nat) (x : Buffer) : (setBuf s b x).moved = s.moved := rfl
@[simp] theorem setBuf_plan (b : Nat) (x : Buffer) : (setBuf s b x).plan = s.plan := rfl
@[simp] theorem setBuf_nextPlan (b : Nat) (x : Buffer) : (setBuf s b x).nextPlan = s.nextPlan := rfl
@[simp] theorem setBuf_tenants (b : Nat) (x : Buffer) : (setBuf s b x).tenants = s.tenants := rfl
@[simp] theorem setBuf_numVfs (b : Nat) (x : Buffer) : (setBuf s b x).numVfs = s.numVfs := rfl
@[simp] theorem setBuf_vfEnable (b : Nat) (x : Buffer) : (setBuf s b x).vfEnable = s.vfEnable := rfl
@[simp] theorem setBuf_pfSpdm (b : Nat) (x : Buffer) : (setBuf s b x).pfSpdm = s.pfSpdm := rfl
@[simp] theorem setBuf_pfUnsol (b : Nat) (x : Buffer) : (setBuf s b x).pfUnsol = s.pfUnsol := rfl
@[simp] theorem setBuf_pfLost (b : Nat) (x : Buffer) : (setBuf s b x).pfLost = s.pfLost := rfl
@[simp] theorem setBuf_pfFaults (b : Nat) (x : Buffer) : (setBuf s b x).pfFaults = s.pfFaults := rfl
@[simp] theorem setBuf_pfPtr (b : Nat) (x : Buffer) : (setBuf s b x).pfPtr = s.pfPtr := rfl
@[simp] theorem setBuf_tPtr (b : Nat) (x : Buffer) : (setBuf s b x).tPtr = s.tPtr := rfl
@[simp] theorem setBuf_bags (b : Nat) (x : Buffer) : (setBuf s b x).bags = s.bags := rfl
@[simp] theorem setBuf_envs (b : Nat) (x : Buffer) : (setBuf s b x).envs = s.envs := rfl
@[simp] theorem setBuf_esendReceipts (b : Nat) (x : Buffer) : (setBuf s b x).esendReceipts = s.esendReceipts := rfl
@[simp] theorem setBuf_keys (b : Nat) (x : Buffer) : (setBuf s b x).keys = s.keys := rfl
@[simp] theorem setBuf_ctxs (b : Nat) (x : Buffer) : (setBuf s b x).ctxs = s.ctxs := rfl
@[simp] theorem setBuf_rotation (b : Nat) (x : Buffer) : (setBuf s b x).rotation = s.rotation := rfl
@[simp] theorem setBuf_ideActive (b : Nat) (x : Buffer) : (setBuf s b x).ideActive = s.ideActive := rfl
@[simp] theorem setBuf_ports (b : Nat) (x : Buffer) : (setBuf s b x).ports = s.ports := rfl
@[simp] theorem setBuf_fx (b : Nat) (x : Buffer) : (setBuf s b x).fx = s.fx := rfl
@[simp] theorem setBuf_book (b : Nat) (x : Buffer) : (setBuf s b x).book = s.book := rfl
@[simp] theorem setBuf_bookRx (b : Nat) (x : Buffer) : (setBuf s b x).bookRx = s.bookRx := rfl
@[simp] theorem setBuf_reqs (b : Nat) (x : Buffer) : (setBuf s b x).reqs = s.reqs := rfl
@[simp] theorem setBuf_served (b : Nat) (x : Buffer) : (setBuf s b x).served = s.served := rfl
@[simp] theorem setBuf_nextXtag (b : Nat) (x : Buffer) : (setBuf s b x).nextXtag = s.nextXtag := rfl
@[simp] theorem setBuf_nextServed (b : Nat) (x : Buffer) : (setBuf s b x).nextServed = s.nextServed := rfl
@[simp] theorem setBuf_pmMsgCtr (b : Nat) (x : Buffer) : (setBuf s b x).pmMsgCtr = s.pmMsgCtr := rfl
@[simp] theorem setBuf_wokeAt (b : Nat) (x : Buffer) : (setBuf s b x).wokeAt = s.wokeAt := rfl
@[simp] theorem setBuf_nextEnv (b : Nat) (x : Buffer) : (setBuf s b x).nextEnv = s.nextEnv := rfl
@[simp] theorem setBuf_cfgRegs (b : Nat) (x : Buffer) : (setBuf s b x).cfgRegs = s.cfgRegs := rfl
@[simp] theorem setBuf_chutes (b : Nat) (x : Buffer) : (setBuf s b x).chutes = s.chutes := rfl
@[simp] theorem setBuf_chStatus (b : Nat) (x : Buffer) : (setBuf s b x).chStatus = s.chStatus := rfl
@[simp] theorem setBuf_ic0 (b : Nat) (x : Buffer) : (setBuf s b x).ic0 = s.ic0 := rfl
@[simp] theorem setBuf_ic1 (b : Nat) (x : Buffer) : (setBuf s b x).ic1 = s.ic1 := rfl
@[simp] theorem setBuf_filters (b : Nat) (x : Buffer) : (setBuf s b x).filters = s.filters := rfl
@[simp] theorem setBuf_vecs (b : Nat) (x : Buffer) : (setBuf s b x).vecs = s.vecs := rfl
@[simp] theorem setBuf_fmask (b : Nat) (x : Buffer) : (setBuf s b x).fmask = s.fmask := rfl
@[simp] theorem setBuf_cm (b : Nat) (x : Buffer) : (setBuf s b x).cm = s.cm := rfl
@[simp] theorem setBuf_sys (b : Nat) (x : Buffer) : (setBuf s b x).sys = s.sys := rfl
@[simp] theorem setBuf_stewards (b : Nat) (x : Buffer) : (setBuf s b x).stewards = s.stewards := rfl
@[simp] theorem setBuf_flashA (b : Nat) (x : Buffer) : (setBuf s b x).flashA = s.flashA := rfl
@[simp] theorem setBuf_flashB (b : Nat) (x : Buffer) : (setBuf s b x).flashB = s.flashB := rfl
@[simp] theorem setBuf_out (b : Nat) (x : Buffer) : (setBuf s b x).out = s.out := rfl

/-! ### setFx -/

@[simp] theorem setFx_pending (off : Nat) (v : BitVec 32) : (setFx off v s).pending = s.pending := rfl
@[simp] theorem setFx_fuses (off : Nat) (v : BitVec 32) : (setFx off v s).fuses = s.fuses := rfl
@[simp] theorem setFx_sclk (off : Nat) (v : BitVec 32) : (setFx off v s).sclk = s.sclk := rfl
@[simp] theorem setFx_free (off : Nat) (v : BitVec 32) : (setFx off v s).free = s.free := rfl
@[simp] theorem setFx_time (off : Nat) (v : BitVec 32) : (setFx off v s).time = s.time := rfl
@[simp] theorem setFx_tiles (off : Nat) (v : BitVec 32) : (setFx off v s).tiles = s.tiles := rfl
@[simp] theorem setFx_tileMap (off : Nat) (v : BitVec 32) : (setFx off v s).tileMap = s.tileMap := rfl
@[simp] theorem setFx_pmA (off : Nat) (v : BitVec 32) : (setFx off v s).pmA = s.pmA := rfl
@[simp] theorem setFx_pmB (off : Nat) (v : BitVec 32) : (setFx off v s).pmB = s.pmB := rfl
@[simp] theorem setFx_hbm (off : Nat) (v : BitVec 32) : (setFx off v s).hbm = s.hbm := rfl
@[simp] theorem setFx_hcStacks (off : Nat) (v : BitVec 32) : (setFx off v s).hcStacks = s.hcStacks := rfl
@[simp] theorem setFx_chans (off : Nat) (v : BitVec 32) : (setFx off v s).chans = s.chans := rfl
@[simp] theorem setFx_jobs (off : Nat) (v : BitVec 32) : (setFx off v s).jobs = s.jobs := rfl
@[simp] theorem setFx_nextJob (off : Nat) (v : BitVec 32) : (setFx off v s).nextJob = s.nextJob := rfl
@[simp] theorem setFx_postCycle (off : Nat) (v : BitVec 32) : (setFx off v s).postCycle = s.postCycle := rfl
@[simp] theorem setFx_moved (off : Nat) (v : BitVec 32) : (setFx off v s).moved = s.moved := rfl
@[simp] theorem setFx_plan (off : Nat) (v : BitVec 32) : (setFx off v s).plan = s.plan := rfl
@[simp] theorem setFx_nextPlan (off : Nat) (v : BitVec 32) : (setFx off v s).nextPlan = s.nextPlan := rfl
@[simp] theorem setFx_tenants (off : Nat) (v : BitVec 32) : (setFx off v s).tenants = s.tenants := rfl
@[simp] theorem setFx_numVfs (off : Nat) (v : BitVec 32) : (setFx off v s).numVfs = s.numVfs := rfl
@[simp] theorem setFx_vfEnable (off : Nat) (v : BitVec 32) : (setFx off v s).vfEnable = s.vfEnable := rfl
@[simp] theorem setFx_pfSpdm (off : Nat) (v : BitVec 32) : (setFx off v s).pfSpdm = s.pfSpdm := rfl
@[simp] theorem setFx_pfUnsol (off : Nat) (v : BitVec 32) : (setFx off v s).pfUnsol = s.pfUnsol := rfl
@[simp] theorem setFx_pfLost (off : Nat) (v : BitVec 32) : (setFx off v s).pfLost = s.pfLost := rfl
@[simp] theorem setFx_pfFaults (off : Nat) (v : BitVec 32) : (setFx off v s).pfFaults = s.pfFaults := rfl
@[simp] theorem setFx_pfPtr (off : Nat) (v : BitVec 32) : (setFx off v s).pfPtr = s.pfPtr := rfl
@[simp] theorem setFx_tPtr (off : Nat) (v : BitVec 32) : (setFx off v s).tPtr = s.tPtr := rfl
@[simp] theorem setFx_bags (off : Nat) (v : BitVec 32) : (setFx off v s).bags = s.bags := rfl
@[simp] theorem setFx_envs (off : Nat) (v : BitVec 32) : (setFx off v s).envs = s.envs := rfl
@[simp] theorem setFx_esendReceipts (off : Nat) (v : BitVec 32) : (setFx off v s).esendReceipts = s.esendReceipts := rfl
@[simp] theorem setFx_buffers (off : Nat) (v : BitVec 32) : (setFx off v s).buffers = s.buffers := rfl
@[simp] theorem setFx_keys (off : Nat) (v : BitVec 32) : (setFx off v s).keys = s.keys := rfl
@[simp] theorem setFx_ctxs (off : Nat) (v : BitVec 32) : (setFx off v s).ctxs = s.ctxs := rfl
@[simp] theorem setFx_rotation (off : Nat) (v : BitVec 32) : (setFx off v s).rotation = s.rotation := rfl
@[simp] theorem setFx_ideActive (off : Nat) (v : BitVec 32) : (setFx off v s).ideActive = s.ideActive := rfl
@[simp] theorem setFx_ports (off : Nat) (v : BitVec 32) : (setFx off v s).ports = s.ports := rfl
@[simp] theorem setFx_book (off : Nat) (v : BitVec 32) : (setFx off v s).book = s.book := rfl
@[simp] theorem setFx_bookRx (off : Nat) (v : BitVec 32) : (setFx off v s).bookRx = s.bookRx := rfl
@[simp] theorem setFx_reqs (off : Nat) (v : BitVec 32) : (setFx off v s).reqs = s.reqs := rfl
@[simp] theorem setFx_served (off : Nat) (v : BitVec 32) : (setFx off v s).served = s.served := rfl
@[simp] theorem setFx_nextXtag (off : Nat) (v : BitVec 32) : (setFx off v s).nextXtag = s.nextXtag := rfl
@[simp] theorem setFx_nextServed (off : Nat) (v : BitVec 32) : (setFx off v s).nextServed = s.nextServed := rfl
@[simp] theorem setFx_pmMsgCtr (off : Nat) (v : BitVec 32) : (setFx off v s).pmMsgCtr = s.pmMsgCtr := rfl
@[simp] theorem setFx_wokeAt (off : Nat) (v : BitVec 32) : (setFx off v s).wokeAt = s.wokeAt := rfl
@[simp] theorem setFx_nextEnv (off : Nat) (v : BitVec 32) : (setFx off v s).nextEnv = s.nextEnv := rfl
@[simp] theorem setFx_cfgRegs (off : Nat) (v : BitVec 32) : (setFx off v s).cfgRegs = s.cfgRegs := rfl
@[simp] theorem setFx_chutes (off : Nat) (v : BitVec 32) : (setFx off v s).chutes = s.chutes := rfl
@[simp] theorem setFx_chStatus (off : Nat) (v : BitVec 32) : (setFx off v s).chStatus = s.chStatus := rfl
@[simp] theorem setFx_ic0 (off : Nat) (v : BitVec 32) : (setFx off v s).ic0 = s.ic0 := rfl
@[simp] theorem setFx_ic1 (off : Nat) (v : BitVec 32) : (setFx off v s).ic1 = s.ic1 := rfl
@[simp] theorem setFx_filters (off : Nat) (v : BitVec 32) : (setFx off v s).filters = s.filters := rfl
@[simp] theorem setFx_vecs (off : Nat) (v : BitVec 32) : (setFx off v s).vecs = s.vecs := rfl
@[simp] theorem setFx_fmask (off : Nat) (v : BitVec 32) : (setFx off v s).fmask = s.fmask := rfl
@[simp] theorem setFx_cm (off : Nat) (v : BitVec 32) : (setFx off v s).cm = s.cm := rfl
@[simp] theorem setFx_sys (off : Nat) (v : BitVec 32) : (setFx off v s).sys = s.sys := rfl
@[simp] theorem setFx_stewards (off : Nat) (v : BitVec 32) : (setFx off v s).stewards = s.stewards := rfl
@[simp] theorem setFx_flashA (off : Nat) (v : BitVec 32) : (setFx off v s).flashA = s.flashA := rfl
@[simp] theorem setFx_flashB (off : Nat) (v : BitVec 32) : (setFx off v s).flashB = s.flashB := rfl
@[simp] theorem setFx_out (off : Nat) (v : BitVec 32) : (setFx off v s).out = s.out := rfl

/-! ### setCm -/

@[simp] theorem setCm_pending (off : Nat) (v : BitVec 32) : (setCm off v s).pending = s.pending := rfl
@[simp] theorem setCm_fuses (off : Nat) (v : BitVec 32) : (setCm off v s).fuses = s.fuses := rfl
@[simp] theorem setCm_sclk (off : Nat) (v : BitVec 32) : (setCm off v s).sclk = s.sclk := rfl
@[simp] theorem setCm_free (off : Nat) (v : BitVec 32) : (setCm off v s).free = s.free := rfl
@[simp] theorem setCm_time (off : Nat) (v : BitVec 32) : (setCm off v s).time = s.time := rfl
@[simp] theorem setCm_tiles (off : Nat) (v : BitVec 32) : (setCm off v s).tiles = s.tiles := rfl
@[simp] theorem setCm_tileMap (off : Nat) (v : BitVec 32) : (setCm off v s).tileMap = s.tileMap := rfl
@[simp] theorem setCm_pmA (off : Nat) (v : BitVec 32) : (setCm off v s).pmA = s.pmA := rfl
@[simp] theorem setCm_pmB (off : Nat) (v : BitVec 32) : (setCm off v s).pmB = s.pmB := rfl
@[simp] theorem setCm_hbm (off : Nat) (v : BitVec 32) : (setCm off v s).hbm = s.hbm := rfl
@[simp] theorem setCm_hcStacks (off : Nat) (v : BitVec 32) : (setCm off v s).hcStacks = s.hcStacks := rfl
@[simp] theorem setCm_chans (off : Nat) (v : BitVec 32) : (setCm off v s).chans = s.chans := rfl
@[simp] theorem setCm_jobs (off : Nat) (v : BitVec 32) : (setCm off v s).jobs = s.jobs := rfl
@[simp] theorem setCm_nextJob (off : Nat) (v : BitVec 32) : (setCm off v s).nextJob = s.nextJob := rfl
@[simp] theorem setCm_postCycle (off : Nat) (v : BitVec 32) : (setCm off v s).postCycle = s.postCycle := rfl
@[simp] theorem setCm_moved (off : Nat) (v : BitVec 32) : (setCm off v s).moved = s.moved := rfl
@[simp] theorem setCm_plan (off : Nat) (v : BitVec 32) : (setCm off v s).plan = s.plan := rfl
@[simp] theorem setCm_nextPlan (off : Nat) (v : BitVec 32) : (setCm off v s).nextPlan = s.nextPlan := rfl
@[simp] theorem setCm_tenants (off : Nat) (v : BitVec 32) : (setCm off v s).tenants = s.tenants := rfl
@[simp] theorem setCm_numVfs (off : Nat) (v : BitVec 32) : (setCm off v s).numVfs = s.numVfs := rfl
@[simp] theorem setCm_vfEnable (off : Nat) (v : BitVec 32) : (setCm off v s).vfEnable = s.vfEnable := rfl
@[simp] theorem setCm_pfSpdm (off : Nat) (v : BitVec 32) : (setCm off v s).pfSpdm = s.pfSpdm := rfl
@[simp] theorem setCm_pfUnsol (off : Nat) (v : BitVec 32) : (setCm off v s).pfUnsol = s.pfUnsol := rfl
@[simp] theorem setCm_pfLost (off : Nat) (v : BitVec 32) : (setCm off v s).pfLost = s.pfLost := rfl
@[simp] theorem setCm_pfFaults (off : Nat) (v : BitVec 32) : (setCm off v s).pfFaults = s.pfFaults := rfl
@[simp] theorem setCm_pfPtr (off : Nat) (v : BitVec 32) : (setCm off v s).pfPtr = s.pfPtr := rfl
@[simp] theorem setCm_tPtr (off : Nat) (v : BitVec 32) : (setCm off v s).tPtr = s.tPtr := rfl
@[simp] theorem setCm_bags (off : Nat) (v : BitVec 32) : (setCm off v s).bags = s.bags := rfl
@[simp] theorem setCm_envs (off : Nat) (v : BitVec 32) : (setCm off v s).envs = s.envs := rfl
@[simp] theorem setCm_esendReceipts (off : Nat) (v : BitVec 32) : (setCm off v s).esendReceipts = s.esendReceipts := rfl
@[simp] theorem setCm_buffers (off : Nat) (v : BitVec 32) : (setCm off v s).buffers = s.buffers := rfl
@[simp] theorem setCm_keys (off : Nat) (v : BitVec 32) : (setCm off v s).keys = s.keys := rfl
@[simp] theorem setCm_ctxs (off : Nat) (v : BitVec 32) : (setCm off v s).ctxs = s.ctxs := rfl
@[simp] theorem setCm_rotation (off : Nat) (v : BitVec 32) : (setCm off v s).rotation = s.rotation := rfl
@[simp] theorem setCm_ideActive (off : Nat) (v : BitVec 32) : (setCm off v s).ideActive = s.ideActive := rfl
@[simp] theorem setCm_ports (off : Nat) (v : BitVec 32) : (setCm off v s).ports = s.ports := rfl
@[simp] theorem setCm_fx (off : Nat) (v : BitVec 32) : (setCm off v s).fx = s.fx := rfl
@[simp] theorem setCm_book (off : Nat) (v : BitVec 32) : (setCm off v s).book = s.book := rfl
@[simp] theorem setCm_bookRx (off : Nat) (v : BitVec 32) : (setCm off v s).bookRx = s.bookRx := rfl
@[simp] theorem setCm_reqs (off : Nat) (v : BitVec 32) : (setCm off v s).reqs = s.reqs := rfl
@[simp] theorem setCm_served (off : Nat) (v : BitVec 32) : (setCm off v s).served = s.served := rfl
@[simp] theorem setCm_nextXtag (off : Nat) (v : BitVec 32) : (setCm off v s).nextXtag = s.nextXtag := rfl
@[simp] theorem setCm_nextServed (off : Nat) (v : BitVec 32) : (setCm off v s).nextServed = s.nextServed := rfl
@[simp] theorem setCm_pmMsgCtr (off : Nat) (v : BitVec 32) : (setCm off v s).pmMsgCtr = s.pmMsgCtr := rfl
@[simp] theorem setCm_wokeAt (off : Nat) (v : BitVec 32) : (setCm off v s).wokeAt = s.wokeAt := rfl
@[simp] theorem setCm_nextEnv (off : Nat) (v : BitVec 32) : (setCm off v s).nextEnv = s.nextEnv := rfl
@[simp] theorem setCm_cfgRegs (off : Nat) (v : BitVec 32) : (setCm off v s).cfgRegs = s.cfgRegs := rfl
@[simp] theorem setCm_chutes (off : Nat) (v : BitVec 32) : (setCm off v s).chutes = s.chutes := rfl
@[simp] theorem setCm_chStatus (off : Nat) (v : BitVec 32) : (setCm off v s).chStatus = s.chStatus := rfl
@[simp] theorem setCm_ic0 (off : Nat) (v : BitVec 32) : (setCm off v s).ic0 = s.ic0 := rfl
@[simp] theorem setCm_ic1 (off : Nat) (v : BitVec 32) : (setCm off v s).ic1 = s.ic1 := rfl
@[simp] theorem setCm_filters (off : Nat) (v : BitVec 32) : (setCm off v s).filters = s.filters := rfl
@[simp] theorem setCm_vecs (off : Nat) (v : BitVec 32) : (setCm off v s).vecs = s.vecs := rfl
@[simp] theorem setCm_fmask (off : Nat) (v : BitVec 32) : (setCm off v s).fmask = s.fmask := rfl
@[simp] theorem setCm_sys (off : Nat) (v : BitVec 32) : (setCm off v s).sys = s.sys := rfl
@[simp] theorem setCm_stewards (off : Nat) (v : BitVec 32) : (setCm off v s).stewards = s.stewards := rfl
@[simp] theorem setCm_flashA (off : Nat) (v : BitVec 32) : (setCm off v s).flashA = s.flashA := rfl
@[simp] theorem setCm_flashB (off : Nat) (v : BitVec 32) : (setCm off v s).flashB = s.flashB := rfl
@[simp] theorem setCm_out (off : Nat) (v : BitVec 32) : (setCm off v s).out = s.out := rfl

/-! ### setLock -/

@[simp] theorem setLock_pending (x : Nat) (l : Lock) : (setLock x l s).pending = s.pending := rfl
@[simp] theorem setLock_fuses (x : Nat) (l : Lock) : (setLock x l s).fuses = s.fuses := rfl
@[simp] theorem setLock_sclk (x : Nat) (l : Lock) : (setLock x l s).sclk = s.sclk := rfl
@[simp] theorem setLock_free (x : Nat) (l : Lock) : (setLock x l s).free = s.free := rfl
@[simp] theorem setLock_time (x : Nat) (l : Lock) : (setLock x l s).time = s.time := rfl
@[simp] theorem setLock_tiles (x : Nat) (l : Lock) : (setLock x l s).tiles = s.tiles := rfl
@[simp] theorem setLock_tileMap (x : Nat) (l : Lock) : (setLock x l s).tileMap = s.tileMap := rfl
@[simp] theorem setLock_pmA (x : Nat) (l : Lock) : (setLock x l s).pmA = s.pmA := rfl
@[simp] theorem setLock_pmB (x : Nat) (l : Lock) : (setLock x l s).pmB = s.pmB := rfl
@[simp] theorem setLock_hbm (x : Nat) (l : Lock) : (setLock x l s).hbm = s.hbm := rfl
@[simp] theorem setLock_hcStacks (x : Nat) (l : Lock) : (setLock x l s).hcStacks = s.hcStacks := rfl
@[simp] theorem setLock_chans (x : Nat) (l : Lock) : (setLock x l s).chans = s.chans := rfl
@[simp] theorem setLock_jobs (x : Nat) (l : Lock) : (setLock x l s).jobs = s.jobs := rfl
@[simp] theorem setLock_nextJob (x : Nat) (l : Lock) : (setLock x l s).nextJob = s.nextJob := rfl
@[simp] theorem setLock_postCycle (x : Nat) (l : Lock) : (setLock x l s).postCycle = s.postCycle := rfl
@[simp] theorem setLock_moved (x : Nat) (l : Lock) : (setLock x l s).moved = s.moved := rfl
@[simp] theorem setLock_plan (x : Nat) (l : Lock) : (setLock x l s).plan = s.plan := rfl
@[simp] theorem setLock_nextPlan (x : Nat) (l : Lock) : (setLock x l s).nextPlan = s.nextPlan := rfl
@[simp] theorem setLock_tenants (x : Nat) (l : Lock) : (setLock x l s).tenants = s.tenants := rfl
@[simp] theorem setLock_numVfs (x : Nat) (l : Lock) : (setLock x l s).numVfs = s.numVfs := rfl
@[simp] theorem setLock_vfEnable (x : Nat) (l : Lock) : (setLock x l s).vfEnable = s.vfEnable := rfl
@[simp] theorem setLock_pfSpdm (x : Nat) (l : Lock) : (setLock x l s).pfSpdm = s.pfSpdm := rfl
@[simp] theorem setLock_pfUnsol (x : Nat) (l : Lock) : (setLock x l s).pfUnsol = s.pfUnsol := rfl
@[simp] theorem setLock_pfLost (x : Nat) (l : Lock) : (setLock x l s).pfLost = s.pfLost := rfl
@[simp] theorem setLock_pfFaults (x : Nat) (l : Lock) : (setLock x l s).pfFaults = s.pfFaults := rfl
@[simp] theorem setLock_pfPtr (x : Nat) (l : Lock) : (setLock x l s).pfPtr = s.pfPtr := rfl
@[simp] theorem setLock_tPtr (x : Nat) (l : Lock) : (setLock x l s).tPtr = s.tPtr := rfl
@[simp] theorem setLock_bags (x : Nat) (l : Lock) : (setLock x l s).bags = s.bags := rfl
@[simp] theorem setLock_envs (x : Nat) (l : Lock) : (setLock x l s).envs = s.envs := rfl
@[simp] theorem setLock_esendReceipts (x : Nat) (l : Lock) : (setLock x l s).esendReceipts = s.esendReceipts := rfl
@[simp] theorem setLock_buffers (x : Nat) (l : Lock) : (setLock x l s).buffers = s.buffers := rfl
@[simp] theorem setLock_keys (x : Nat) (l : Lock) : (setLock x l s).keys = s.keys := rfl
@[simp] theorem setLock_ctxs (x : Nat) (l : Lock) : (setLock x l s).ctxs = s.ctxs := rfl
@[simp] theorem setLock_rotation (x : Nat) (l : Lock) : (setLock x l s).rotation = s.rotation := rfl
@[simp] theorem setLock_ideActive (x : Nat) (l : Lock) : (setLock x l s).ideActive = s.ideActive := rfl
@[simp] theorem setLock_ports (x : Nat) (l : Lock) : (setLock x l s).ports = s.ports := rfl
@[simp] theorem setLock_fx (x : Nat) (l : Lock) : (setLock x l s).fx = s.fx := rfl
@[simp] theorem setLock_book (x : Nat) (l : Lock) : (setLock x l s).book = s.book := rfl
@[simp] theorem setLock_bookRx (x : Nat) (l : Lock) : (setLock x l s).bookRx = s.bookRx := rfl
@[simp] theorem setLock_reqs (x : Nat) (l : Lock) : (setLock x l s).reqs = s.reqs := rfl
@[simp] theorem setLock_served (x : Nat) (l : Lock) : (setLock x l s).served = s.served := rfl
@[simp] theorem setLock_nextXtag (x : Nat) (l : Lock) : (setLock x l s).nextXtag = s.nextXtag := rfl
@[simp] theorem setLock_nextServed (x : Nat) (l : Lock) : (setLock x l s).nextServed = s.nextServed := rfl
@[simp] theorem setLock_pmMsgCtr (x : Nat) (l : Lock) : (setLock x l s).pmMsgCtr = s.pmMsgCtr := rfl
@[simp] theorem setLock_wokeAt (x : Nat) (l : Lock) : (setLock x l s).wokeAt = s.wokeAt := rfl
@[simp] theorem setLock_nextEnv (x : Nat) (l : Lock) : (setLock x l s).nextEnv = s.nextEnv := rfl
@[simp] theorem setLock_cfgRegs (x : Nat) (l : Lock) : (setLock x l s).cfgRegs = s.cfgRegs := rfl
@[simp] theorem setLock_chutes (x : Nat) (l : Lock) : (setLock x l s).chutes = s.chutes := rfl
@[simp] theorem setLock_chStatus (x : Nat) (l : Lock) : (setLock x l s).chStatus = s.chStatus := rfl
@[simp] theorem setLock_ic0 (x : Nat) (l : Lock) : (setLock x l s).ic0 = s.ic0 := rfl
@[simp] theorem setLock_ic1 (x : Nat) (l : Lock) : (setLock x l s).ic1 = s.ic1 := rfl
@[simp] theorem setLock_filters (x : Nat) (l : Lock) : (setLock x l s).filters = s.filters := rfl
@[simp] theorem setLock_vecs (x : Nat) (l : Lock) : (setLock x l s).vecs = s.vecs := rfl
@[simp] theorem setLock_fmask (x : Nat) (l : Lock) : (setLock x l s).fmask = s.fmask := rfl
@[simp] theorem setLock_sys (x : Nat) (l : Lock) : (setLock x l s).sys = s.sys := rfl
@[simp] theorem setLock_stewards (x : Nat) (l : Lock) : (setLock x l s).stewards = s.stewards := rfl
@[simp] theorem setLock_flashA (x : Nat) (l : Lock) : (setLock x l s).flashA = s.flashA := rfl
@[simp] theorem setLock_flashB (x : Nat) (l : Lock) : (setLock x l s).flashB = s.flashB := rfl
@[simp] theorem setLock_out (x : Nat) (l : Lock) : (setLock x l s).out = s.out := rfl

/-! ### setFc -/

@[simp] theorem setFc_pending (off : Nat) (v : BitVec 32) : (setFc off v s).pending = s.pending := rfl
@[simp] theorem setFc_fuses (off : Nat) (v : BitVec 32) : (setFc off v s).fuses = s.fuses := rfl
@[simp] theorem setFc_sclk (off : Nat) (v : BitVec 32) : (setFc off v s).sclk = s.sclk := rfl
@[simp] theorem setFc_free (off : Nat) (v : BitVec 32) : (setFc off v s).free = s.free := rfl
@[simp] theorem setFc_time (off : Nat) (v : BitVec 32) : (setFc off v s).time = s.time := rfl
@[simp] theorem setFc_tiles (off : Nat) (v : BitVec 32) : (setFc off v s).tiles = s.tiles := rfl
@[simp] theorem setFc_tileMap (off : Nat) (v : BitVec 32) : (setFc off v s).tileMap = s.tileMap := rfl
@[simp] theorem setFc_pmA (off : Nat) (v : BitVec 32) : (setFc off v s).pmA = s.pmA := rfl
@[simp] theorem setFc_pmB (off : Nat) (v : BitVec 32) : (setFc off v s).pmB = s.pmB := rfl
@[simp] theorem setFc_hbm (off : Nat) (v : BitVec 32) : (setFc off v s).hbm = s.hbm := rfl
@[simp] theorem setFc_hcStacks (off : Nat) (v : BitVec 32) : (setFc off v s).hcStacks = s.hcStacks := rfl
@[simp] theorem setFc_chans (off : Nat) (v : BitVec 32) : (setFc off v s).chans = s.chans := rfl
@[simp] theorem setFc_jobs (off : Nat) (v : BitVec 32) : (setFc off v s).jobs = s.jobs := rfl
@[simp] theorem setFc_nextJob (off : Nat) (v : BitVec 32) : (setFc off v s).nextJob = s.nextJob := rfl
@[simp] theorem setFc_postCycle (off : Nat) (v : BitVec 32) : (setFc off v s).postCycle = s.postCycle := rfl
@[simp] theorem setFc_moved (off : Nat) (v : BitVec 32) : (setFc off v s).moved = s.moved := rfl
@[simp] theorem setFc_plan (off : Nat) (v : BitVec 32) : (setFc off v s).plan = s.plan := rfl
@[simp] theorem setFc_nextPlan (off : Nat) (v : BitVec 32) : (setFc off v s).nextPlan = s.nextPlan := rfl
@[simp] theorem setFc_tenants (off : Nat) (v : BitVec 32) : (setFc off v s).tenants = s.tenants := rfl
@[simp] theorem setFc_numVfs (off : Nat) (v : BitVec 32) : (setFc off v s).numVfs = s.numVfs := rfl
@[simp] theorem setFc_vfEnable (off : Nat) (v : BitVec 32) : (setFc off v s).vfEnable = s.vfEnable := rfl
@[simp] theorem setFc_pfSpdm (off : Nat) (v : BitVec 32) : (setFc off v s).pfSpdm = s.pfSpdm := rfl
@[simp] theorem setFc_pfUnsol (off : Nat) (v : BitVec 32) : (setFc off v s).pfUnsol = s.pfUnsol := rfl
@[simp] theorem setFc_pfLost (off : Nat) (v : BitVec 32) : (setFc off v s).pfLost = s.pfLost := rfl
@[simp] theorem setFc_pfFaults (off : Nat) (v : BitVec 32) : (setFc off v s).pfFaults = s.pfFaults := rfl
@[simp] theorem setFc_pfPtr (off : Nat) (v : BitVec 32) : (setFc off v s).pfPtr = s.pfPtr := rfl
@[simp] theorem setFc_tPtr (off : Nat) (v : BitVec 32) : (setFc off v s).tPtr = s.tPtr := rfl
@[simp] theorem setFc_bags (off : Nat) (v : BitVec 32) : (setFc off v s).bags = s.bags := rfl
@[simp] theorem setFc_envs (off : Nat) (v : BitVec 32) : (setFc off v s).envs = s.envs := rfl
@[simp] theorem setFc_esendReceipts (off : Nat) (v : BitVec 32) : (setFc off v s).esendReceipts = s.esendReceipts := rfl
@[simp] theorem setFc_buffers (off : Nat) (v : BitVec 32) : (setFc off v s).buffers = s.buffers := rfl
@[simp] theorem setFc_keys (off : Nat) (v : BitVec 32) : (setFc off v s).keys = s.keys := rfl
@[simp] theorem setFc_ctxs (off : Nat) (v : BitVec 32) : (setFc off v s).ctxs = s.ctxs := rfl
@[simp] theorem setFc_rotation (off : Nat) (v : BitVec 32) : (setFc off v s).rotation = s.rotation := rfl
@[simp] theorem setFc_ideActive (off : Nat) (v : BitVec 32) : (setFc off v s).ideActive = s.ideActive := rfl
@[simp] theorem setFc_ports (off : Nat) (v : BitVec 32) : (setFc off v s).ports = s.ports := rfl
@[simp] theorem setFc_fx (off : Nat) (v : BitVec 32) : (setFc off v s).fx = s.fx := rfl
@[simp] theorem setFc_book (off : Nat) (v : BitVec 32) : (setFc off v s).book = s.book := rfl
@[simp] theorem setFc_bookRx (off : Nat) (v : BitVec 32) : (setFc off v s).bookRx = s.bookRx := rfl
@[simp] theorem setFc_reqs (off : Nat) (v : BitVec 32) : (setFc off v s).reqs = s.reqs := rfl
@[simp] theorem setFc_served (off : Nat) (v : BitVec 32) : (setFc off v s).served = s.served := rfl
@[simp] theorem setFc_nextXtag (off : Nat) (v : BitVec 32) : (setFc off v s).nextXtag = s.nextXtag := rfl
@[simp] theorem setFc_nextServed (off : Nat) (v : BitVec 32) : (setFc off v s).nextServed = s.nextServed := rfl
@[simp] theorem setFc_pmMsgCtr (off : Nat) (v : BitVec 32) : (setFc off v s).pmMsgCtr = s.pmMsgCtr := rfl
@[simp] theorem setFc_wokeAt (off : Nat) (v : BitVec 32) : (setFc off v s).wokeAt = s.wokeAt := rfl
@[simp] theorem setFc_nextEnv (off : Nat) (v : BitVec 32) : (setFc off v s).nextEnv = s.nextEnv := rfl
@[simp] theorem setFc_cfgRegs (off : Nat) (v : BitVec 32) : (setFc off v s).cfgRegs = s.cfgRegs := rfl
@[simp] theorem setFc_chutes (off : Nat) (v : BitVec 32) : (setFc off v s).chutes = s.chutes := rfl
@[simp] theorem setFc_chStatus (off : Nat) (v : BitVec 32) : (setFc off v s).chStatus = s.chStatus := rfl
@[simp] theorem setFc_ic0 (off : Nat) (v : BitVec 32) : (setFc off v s).ic0 = s.ic0 := rfl
@[simp] theorem setFc_ic1 (off : Nat) (v : BitVec 32) : (setFc off v s).ic1 = s.ic1 := rfl
@[simp] theorem setFc_filters (off : Nat) (v : BitVec 32) : (setFc off v s).filters = s.filters := rfl
@[simp] theorem setFc_vecs (off : Nat) (v : BitVec 32) : (setFc off v s).vecs = s.vecs := rfl
@[simp] theorem setFc_fmask (off : Nat) (v : BitVec 32) : (setFc off v s).fmask = s.fmask := rfl
@[simp] theorem setFc_cm (off : Nat) (v : BitVec 32) : (setFc off v s).cm = s.cm := rfl
@[simp] theorem setFc_stewards (off : Nat) (v : BitVec 32) : (setFc off v s).stewards = s.stewards := rfl
@[simp] theorem setFc_flashA (off : Nat) (v : BitVec 32) : (setFc off v s).flashA = s.flashA := rfl
@[simp] theorem setFc_flashB (off : Nat) (v : BitVec 32) : (setFc off v s).flashB = s.flashB := rfl
@[simp] theorem setFc_out (off : Nat) (v : BitVec 32) : (setFc off v s).out = s.out := rfl

/-! ### setFl -/

@[simp] theorem setFl_pending (off : Nat) (v : BitVec 32) : (setFl off v s).pending = s.pending := rfl
@[simp] theorem setFl_fuses (off : Nat) (v : BitVec 32) : (setFl off v s).fuses = s.fuses := rfl
@[simp] theorem setFl_sclk (off : Nat) (v : BitVec 32) : (setFl off v s).sclk = s.sclk := rfl
@[simp] theorem setFl_free (off : Nat) (v : BitVec 32) : (setFl off v s).free = s.free := rfl
@[simp] theorem setFl_time (off : Nat) (v : BitVec 32) : (setFl off v s).time = s.time := rfl
@[simp] theorem setFl_tiles (off : Nat) (v : BitVec 32) : (setFl off v s).tiles = s.tiles := rfl
@[simp] theorem setFl_tileMap (off : Nat) (v : BitVec 32) : (setFl off v s).tileMap = s.tileMap := rfl
@[simp] theorem setFl_pmA (off : Nat) (v : BitVec 32) : (setFl off v s).pmA = s.pmA := rfl
@[simp] theorem setFl_pmB (off : Nat) (v : BitVec 32) : (setFl off v s).pmB = s.pmB := rfl
@[simp] theorem setFl_hbm (off : Nat) (v : BitVec 32) : (setFl off v s).hbm = s.hbm := rfl
@[simp] theorem setFl_hcStacks (off : Nat) (v : BitVec 32) : (setFl off v s).hcStacks = s.hcStacks := rfl
@[simp] theorem setFl_chans (off : Nat) (v : BitVec 32) : (setFl off v s).chans = s.chans := rfl
@[simp] theorem setFl_jobs (off : Nat) (v : BitVec 32) : (setFl off v s).jobs = s.jobs := rfl
@[simp] theorem setFl_nextJob (off : Nat) (v : BitVec 32) : (setFl off v s).nextJob = s.nextJob := rfl
@[simp] theorem setFl_postCycle (off : Nat) (v : BitVec 32) : (setFl off v s).postCycle = s.postCycle := rfl
@[simp] theorem setFl_moved (off : Nat) (v : BitVec 32) : (setFl off v s).moved = s.moved := rfl
@[simp] theorem setFl_plan (off : Nat) (v : BitVec 32) : (setFl off v s).plan = s.plan := rfl
@[simp] theorem setFl_nextPlan (off : Nat) (v : BitVec 32) : (setFl off v s).nextPlan = s.nextPlan := rfl
@[simp] theorem setFl_tenants (off : Nat) (v : BitVec 32) : (setFl off v s).tenants = s.tenants := rfl
@[simp] theorem setFl_numVfs (off : Nat) (v : BitVec 32) : (setFl off v s).numVfs = s.numVfs := rfl
@[simp] theorem setFl_vfEnable (off : Nat) (v : BitVec 32) : (setFl off v s).vfEnable = s.vfEnable := rfl
@[simp] theorem setFl_pfSpdm (off : Nat) (v : BitVec 32) : (setFl off v s).pfSpdm = s.pfSpdm := rfl
@[simp] theorem setFl_pfUnsol (off : Nat) (v : BitVec 32) : (setFl off v s).pfUnsol = s.pfUnsol := rfl
@[simp] theorem setFl_pfLost (off : Nat) (v : BitVec 32) : (setFl off v s).pfLost = s.pfLost := rfl
@[simp] theorem setFl_pfFaults (off : Nat) (v : BitVec 32) : (setFl off v s).pfFaults = s.pfFaults := rfl
@[simp] theorem setFl_pfPtr (off : Nat) (v : BitVec 32) : (setFl off v s).pfPtr = s.pfPtr := rfl
@[simp] theorem setFl_tPtr (off : Nat) (v : BitVec 32) : (setFl off v s).tPtr = s.tPtr := rfl
@[simp] theorem setFl_bags (off : Nat) (v : BitVec 32) : (setFl off v s).bags = s.bags := rfl
@[simp] theorem setFl_envs (off : Nat) (v : BitVec 32) : (setFl off v s).envs = s.envs := rfl
@[simp] theorem setFl_esendReceipts (off : Nat) (v : BitVec 32) : (setFl off v s).esendReceipts = s.esendReceipts := rfl
@[simp] theorem setFl_buffers (off : Nat) (v : BitVec 32) : (setFl off v s).buffers = s.buffers := rfl
@[simp] theorem setFl_keys (off : Nat) (v : BitVec 32) : (setFl off v s).keys = s.keys := rfl
@[simp] theorem setFl_ctxs (off : Nat) (v : BitVec 32) : (setFl off v s).ctxs = s.ctxs := rfl
@[simp] theorem setFl_rotation (off : Nat) (v : BitVec 32) : (setFl off v s).rotation = s.rotation := rfl
@[simp] theorem setFl_ideActive (off : Nat) (v : BitVec 32) : (setFl off v s).ideActive = s.ideActive := rfl
@[simp] theorem setFl_ports (off : Nat) (v : BitVec 32) : (setFl off v s).ports = s.ports := rfl
@[simp] theorem setFl_fx (off : Nat) (v : BitVec 32) : (setFl off v s).fx = s.fx := rfl
@[simp] theorem setFl_book (off : Nat) (v : BitVec 32) : (setFl off v s).book = s.book := rfl
@[simp] theorem setFl_bookRx (off : Nat) (v : BitVec 32) : (setFl off v s).bookRx = s.bookRx := rfl
@[simp] theorem setFl_reqs (off : Nat) (v : BitVec 32) : (setFl off v s).reqs = s.reqs := rfl
@[simp] theorem setFl_served (off : Nat) (v : BitVec 32) : (setFl off v s).served = s.served := rfl
@[simp] theorem setFl_nextXtag (off : Nat) (v : BitVec 32) : (setFl off v s).nextXtag = s.nextXtag := rfl
@[simp] theorem setFl_nextServed (off : Nat) (v : BitVec 32) : (setFl off v s).nextServed = s.nextServed := rfl
@[simp] theorem setFl_pmMsgCtr (off : Nat) (v : BitVec 32) : (setFl off v s).pmMsgCtr = s.pmMsgCtr := rfl
@[simp] theorem setFl_wokeAt (off : Nat) (v : BitVec 32) : (setFl off v s).wokeAt = s.wokeAt := rfl
@[simp] theorem setFl_nextEnv (off : Nat) (v : BitVec 32) : (setFl off v s).nextEnv = s.nextEnv := rfl
@[simp] theorem setFl_cfgRegs (off : Nat) (v : BitVec 32) : (setFl off v s).cfgRegs = s.cfgRegs := rfl
@[simp] theorem setFl_chutes (off : Nat) (v : BitVec 32) : (setFl off v s).chutes = s.chutes := rfl
@[simp] theorem setFl_chStatus (off : Nat) (v : BitVec 32) : (setFl off v s).chStatus = s.chStatus := rfl
@[simp] theorem setFl_ic0 (off : Nat) (v : BitVec 32) : (setFl off v s).ic0 = s.ic0 := rfl
@[simp] theorem setFl_ic1 (off : Nat) (v : BitVec 32) : (setFl off v s).ic1 = s.ic1 := rfl
@[simp] theorem setFl_filters (off : Nat) (v : BitVec 32) : (setFl off v s).filters = s.filters := rfl
@[simp] theorem setFl_vecs (off : Nat) (v : BitVec 32) : (setFl off v s).vecs = s.vecs := rfl
@[simp] theorem setFl_fmask (off : Nat) (v : BitVec 32) : (setFl off v s).fmask = s.fmask := rfl
@[simp] theorem setFl_cm (off : Nat) (v : BitVec 32) : (setFl off v s).cm = s.cm := rfl
@[simp] theorem setFl_stewards (off : Nat) (v : BitVec 32) : (setFl off v s).stewards = s.stewards := rfl
@[simp] theorem setFl_flashA (off : Nat) (v : BitVec 32) : (setFl off v s).flashA = s.flashA := rfl
@[simp] theorem setFl_flashB (off : Nat) (v : BitVec 32) : (setFl off v s).flashB = s.flashB := rfl
@[simp] theorem setFl_out (off : Nat) (v : BitVec 32) : (setFl off v s).out = s.out := rfl

/-! ### setKs -/

@[simp] theorem setKs_pending (off : Nat) (v : BitVec 32) : (setKs off v s).pending = s.pending := rfl
@[simp] theorem setKs_fuses (off : Nat) (v : BitVec 32) : (setKs off v s).fuses = s.fuses := rfl
@[simp] theorem setKs_sclk (off : Nat) (v : BitVec 32) : (setKs off v s).sclk = s.sclk := rfl
@[simp] theorem setKs_free (off : Nat) (v : BitVec 32) : (setKs off v s).free = s.free := rfl
@[simp] theorem setKs_time (off : Nat) (v : BitVec 32) : (setKs off v s).time = s.time := rfl
@[simp] theorem setKs_tiles (off : Nat) (v : BitVec 32) : (setKs off v s).tiles = s.tiles := rfl
@[simp] theorem setKs_tileMap (off : Nat) (v : BitVec 32) : (setKs off v s).tileMap = s.tileMap := rfl
@[simp] theorem setKs_pmA (off : Nat) (v : BitVec 32) : (setKs off v s).pmA = s.pmA := rfl
@[simp] theorem setKs_pmB (off : Nat) (v : BitVec 32) : (setKs off v s).pmB = s.pmB := rfl
@[simp] theorem setKs_hbm (off : Nat) (v : BitVec 32) : (setKs off v s).hbm = s.hbm := rfl
@[simp] theorem setKs_hcStacks (off : Nat) (v : BitVec 32) : (setKs off v s).hcStacks = s.hcStacks := rfl
@[simp] theorem setKs_chans (off : Nat) (v : BitVec 32) : (setKs off v s).chans = s.chans := rfl
@[simp] theorem setKs_jobs (off : Nat) (v : BitVec 32) : (setKs off v s).jobs = s.jobs := rfl
@[simp] theorem setKs_nextJob (off : Nat) (v : BitVec 32) : (setKs off v s).nextJob = s.nextJob := rfl
@[simp] theorem setKs_postCycle (off : Nat) (v : BitVec 32) : (setKs off v s).postCycle = s.postCycle := rfl
@[simp] theorem setKs_moved (off : Nat) (v : BitVec 32) : (setKs off v s).moved = s.moved := rfl
@[simp] theorem setKs_plan (off : Nat) (v : BitVec 32) : (setKs off v s).plan = s.plan := rfl
@[simp] theorem setKs_nextPlan (off : Nat) (v : BitVec 32) : (setKs off v s).nextPlan = s.nextPlan := rfl
@[simp] theorem setKs_tenants (off : Nat) (v : BitVec 32) : (setKs off v s).tenants = s.tenants := rfl
@[simp] theorem setKs_numVfs (off : Nat) (v : BitVec 32) : (setKs off v s).numVfs = s.numVfs := rfl
@[simp] theorem setKs_vfEnable (off : Nat) (v : BitVec 32) : (setKs off v s).vfEnable = s.vfEnable := rfl
@[simp] theorem setKs_pfSpdm (off : Nat) (v : BitVec 32) : (setKs off v s).pfSpdm = s.pfSpdm := rfl
@[simp] theorem setKs_pfUnsol (off : Nat) (v : BitVec 32) : (setKs off v s).pfUnsol = s.pfUnsol := rfl
@[simp] theorem setKs_pfLost (off : Nat) (v : BitVec 32) : (setKs off v s).pfLost = s.pfLost := rfl
@[simp] theorem setKs_pfFaults (off : Nat) (v : BitVec 32) : (setKs off v s).pfFaults = s.pfFaults := rfl
@[simp] theorem setKs_pfPtr (off : Nat) (v : BitVec 32) : (setKs off v s).pfPtr = s.pfPtr := rfl
@[simp] theorem setKs_tPtr (off : Nat) (v : BitVec 32) : (setKs off v s).tPtr = s.tPtr := rfl
@[simp] theorem setKs_bags (off : Nat) (v : BitVec 32) : (setKs off v s).bags = s.bags := rfl
@[simp] theorem setKs_envs (off : Nat) (v : BitVec 32) : (setKs off v s).envs = s.envs := rfl
@[simp] theorem setKs_esendReceipts (off : Nat) (v : BitVec 32) : (setKs off v s).esendReceipts = s.esendReceipts := rfl
@[simp] theorem setKs_buffers (off : Nat) (v : BitVec 32) : (setKs off v s).buffers = s.buffers := rfl
@[simp] theorem setKs_keys (off : Nat) (v : BitVec 32) : (setKs off v s).keys = s.keys := rfl
@[simp] theorem setKs_ctxs (off : Nat) (v : BitVec 32) : (setKs off v s).ctxs = s.ctxs := rfl
@[simp] theorem setKs_rotation (off : Nat) (v : BitVec 32) : (setKs off v s).rotation = s.rotation := rfl
@[simp] theorem setKs_ideActive (off : Nat) (v : BitVec 32) : (setKs off v s).ideActive = s.ideActive := rfl
@[simp] theorem setKs_ports (off : Nat) (v : BitVec 32) : (setKs off v s).ports = s.ports := rfl
@[simp] theorem setKs_fx (off : Nat) (v : BitVec 32) : (setKs off v s).fx = s.fx := rfl
@[simp] theorem setKs_book (off : Nat) (v : BitVec 32) : (setKs off v s).book = s.book := rfl
@[simp] theorem setKs_bookRx (off : Nat) (v : BitVec 32) : (setKs off v s).bookRx = s.bookRx := rfl
@[simp] theorem setKs_reqs (off : Nat) (v : BitVec 32) : (setKs off v s).reqs = s.reqs := rfl
@[simp] theorem setKs_served (off : Nat) (v : BitVec 32) : (setKs off v s).served = s.served := rfl
@[simp] theorem setKs_nextXtag (off : Nat) (v : BitVec 32) : (setKs off v s).nextXtag = s.nextXtag := rfl
@[simp] theorem setKs_nextServed (off : Nat) (v : BitVec 32) : (setKs off v s).nextServed = s.nextServed := rfl
@[simp] theorem setKs_pmMsgCtr (off : Nat) (v : BitVec 32) : (setKs off v s).pmMsgCtr = s.pmMsgCtr := rfl
@[simp] theorem setKs_wokeAt (off : Nat) (v : BitVec 32) : (setKs off v s).wokeAt = s.wokeAt := rfl
@[simp] theorem setKs_nextEnv (off : Nat) (v : BitVec 32) : (setKs off v s).nextEnv = s.nextEnv := rfl
@[simp] theorem setKs_cfgRegs (off : Nat) (v : BitVec 32) : (setKs off v s).cfgRegs = s.cfgRegs := rfl
@[simp] theorem setKs_chutes (off : Nat) (v : BitVec 32) : (setKs off v s).chutes = s.chutes := rfl
@[simp] theorem setKs_chStatus (off : Nat) (v : BitVec 32) : (setKs off v s).chStatus = s.chStatus := rfl
@[simp] theorem setKs_ic0 (off : Nat) (v : BitVec 32) : (setKs off v s).ic0 = s.ic0 := rfl
@[simp] theorem setKs_ic1 (off : Nat) (v : BitVec 32) : (setKs off v s).ic1 = s.ic1 := rfl
@[simp] theorem setKs_filters (off : Nat) (v : BitVec 32) : (setKs off v s).filters = s.filters := rfl
@[simp] theorem setKs_vecs (off : Nat) (v : BitVec 32) : (setKs off v s).vecs = s.vecs := rfl
@[simp] theorem setKs_fmask (off : Nat) (v : BitVec 32) : (setKs off v s).fmask = s.fmask := rfl
@[simp] theorem setKs_cm (off : Nat) (v : BitVec 32) : (setKs off v s).cm = s.cm := rfl
@[simp] theorem setKs_stewards (off : Nat) (v : BitVec 32) : (setKs off v s).stewards = s.stewards := rfl
@[simp] theorem setKs_flashA (off : Nat) (v : BitVec 32) : (setKs off v s).flashA = s.flashA := rfl
@[simp] theorem setKs_flashB (off : Nat) (v : BitVec 32) : (setKs off v s).flashB = s.flashB := rfl
@[simp] theorem setKs_out (off : Nat) (v : BitVec 32) : (setKs off v s).out = s.out := rfl

/-! ### setSt -/

@[simp] theorem setSt_pending (n off : Nat) (v : BitVec 32) : (setSt n off v s).pending = s.pending := rfl
@[simp] theorem setSt_fuses (n off : Nat) (v : BitVec 32) : (setSt n off v s).fuses = s.fuses := rfl
@[simp] theorem setSt_sclk (n off : Nat) (v : BitVec 32) : (setSt n off v s).sclk = s.sclk := rfl
@[simp] theorem setSt_free (n off : Nat) (v : BitVec 32) : (setSt n off v s).free = s.free := rfl
@[simp] theorem setSt_time (n off : Nat) (v : BitVec 32) : (setSt n off v s).time = s.time := rfl
@[simp] theorem setSt_tiles (n off : Nat) (v : BitVec 32) : (setSt n off v s).tiles = s.tiles := rfl
@[simp] theorem setSt_tileMap (n off : Nat) (v : BitVec 32) : (setSt n off v s).tileMap = s.tileMap := rfl
@[simp] theorem setSt_pmA (n off : Nat) (v : BitVec 32) : (setSt n off v s).pmA = s.pmA := rfl
@[simp] theorem setSt_pmB (n off : Nat) (v : BitVec 32) : (setSt n off v s).pmB = s.pmB := rfl
@[simp] theorem setSt_hbm (n off : Nat) (v : BitVec 32) : (setSt n off v s).hbm = s.hbm := rfl
@[simp] theorem setSt_hcStacks (n off : Nat) (v : BitVec 32) : (setSt n off v s).hcStacks = s.hcStacks := rfl
@[simp] theorem setSt_chans (n off : Nat) (v : BitVec 32) : (setSt n off v s).chans = s.chans := rfl
@[simp] theorem setSt_jobs (n off : Nat) (v : BitVec 32) : (setSt n off v s).jobs = s.jobs := rfl
@[simp] theorem setSt_nextJob (n off : Nat) (v : BitVec 32) : (setSt n off v s).nextJob = s.nextJob := rfl
@[simp] theorem setSt_postCycle (n off : Nat) (v : BitVec 32) : (setSt n off v s).postCycle = s.postCycle := rfl
@[simp] theorem setSt_moved (n off : Nat) (v : BitVec 32) : (setSt n off v s).moved = s.moved := rfl
@[simp] theorem setSt_plan (n off : Nat) (v : BitVec 32) : (setSt n off v s).plan = s.plan := rfl
@[simp] theorem setSt_nextPlan (n off : Nat) (v : BitVec 32) : (setSt n off v s).nextPlan = s.nextPlan := rfl
@[simp] theorem setSt_tenants (n off : Nat) (v : BitVec 32) : (setSt n off v s).tenants = s.tenants := rfl
@[simp] theorem setSt_numVfs (n off : Nat) (v : BitVec 32) : (setSt n off v s).numVfs = s.numVfs := rfl
@[simp] theorem setSt_vfEnable (n off : Nat) (v : BitVec 32) : (setSt n off v s).vfEnable = s.vfEnable := rfl
@[simp] theorem setSt_pfSpdm (n off : Nat) (v : BitVec 32) : (setSt n off v s).pfSpdm = s.pfSpdm := rfl
@[simp] theorem setSt_pfUnsol (n off : Nat) (v : BitVec 32) : (setSt n off v s).pfUnsol = s.pfUnsol := rfl
@[simp] theorem setSt_pfLost (n off : Nat) (v : BitVec 32) : (setSt n off v s).pfLost = s.pfLost := rfl
@[simp] theorem setSt_pfFaults (n off : Nat) (v : BitVec 32) : (setSt n off v s).pfFaults = s.pfFaults := rfl
@[simp] theorem setSt_pfPtr (n off : Nat) (v : BitVec 32) : (setSt n off v s).pfPtr = s.pfPtr := rfl
@[simp] theorem setSt_tPtr (n off : Nat) (v : BitVec 32) : (setSt n off v s).tPtr = s.tPtr := rfl
@[simp] theorem setSt_bags (n off : Nat) (v : BitVec 32) : (setSt n off v s).bags = s.bags := rfl
@[simp] theorem setSt_envs (n off : Nat) (v : BitVec 32) : (setSt n off v s).envs = s.envs := rfl
@[simp] theorem setSt_esendReceipts (n off : Nat) (v : BitVec 32) : (setSt n off v s).esendReceipts = s.esendReceipts := rfl
@[simp] theorem setSt_buffers (n off : Nat) (v : BitVec 32) : (setSt n off v s).buffers = s.buffers := rfl
@[simp] theorem setSt_keys (n off : Nat) (v : BitVec 32) : (setSt n off v s).keys = s.keys := rfl
@[simp] theorem setSt_ctxs (n off : Nat) (v : BitVec 32) : (setSt n off v s).ctxs = s.ctxs := rfl
@[simp] theorem setSt_rotation (n off : Nat) (v : BitVec 32) : (setSt n off v s).rotation = s.rotation := rfl
@[simp] theorem setSt_ideActive (n off : Nat) (v : BitVec 32) : (setSt n off v s).ideActive = s.ideActive := rfl
@[simp] theorem setSt_ports (n off : Nat) (v : BitVec 32) : (setSt n off v s).ports = s.ports := rfl
@[simp] theorem setSt_fx (n off : Nat) (v : BitVec 32) : (setSt n off v s).fx = s.fx := rfl
@[simp] theorem setSt_book (n off : Nat) (v : BitVec 32) : (setSt n off v s).book = s.book := rfl
@[simp] theorem setSt_bookRx (n off : Nat) (v : BitVec 32) : (setSt n off v s).bookRx = s.bookRx := rfl
@[simp] theorem setSt_reqs (n off : Nat) (v : BitVec 32) : (setSt n off v s).reqs = s.reqs := rfl
@[simp] theorem setSt_served (n off : Nat) (v : BitVec 32) : (setSt n off v s).served = s.served := rfl
@[simp] theorem setSt_nextXtag (n off : Nat) (v : BitVec 32) : (setSt n off v s).nextXtag = s.nextXtag := rfl
@[simp] theorem setSt_nextServed (n off : Nat) (v : BitVec 32) : (setSt n off v s).nextServed = s.nextServed := rfl
@[simp] theorem setSt_pmMsgCtr (n off : Nat) (v : BitVec 32) : (setSt n off v s).pmMsgCtr = s.pmMsgCtr := rfl
@[simp] theorem setSt_wokeAt (n off : Nat) (v : BitVec 32) : (setSt n off v s).wokeAt = s.wokeAt := rfl
@[simp] theorem setSt_nextEnv (n off : Nat) (v : BitVec 32) : (setSt n off v s).nextEnv = s.nextEnv := rfl
@[simp] theorem setSt_cfgRegs (n off : Nat) (v : BitVec 32) : (setSt n off v s).cfgRegs = s.cfgRegs := rfl
@[simp] theorem setSt_chutes (n off : Nat) (v : BitVec 32) : (setSt n off v s).chutes = s.chutes := rfl
@[simp] theorem setSt_chStatus (n off : Nat) (v : BitVec 32) : (setSt n off v s).chStatus = s.chStatus := rfl
@[simp] theorem setSt_ic0 (n off : Nat) (v : BitVec 32) : (setSt n off v s).ic0 = s.ic0 := rfl
@[simp] theorem setSt_ic1 (n off : Nat) (v : BitVec 32) : (setSt n off v s).ic1 = s.ic1 := rfl
@[simp] theorem setSt_filters (n off : Nat) (v : BitVec 32) : (setSt n off v s).filters = s.filters := rfl
@[simp] theorem setSt_vecs (n off : Nat) (v : BitVec 32) : (setSt n off v s).vecs = s.vecs := rfl
@[simp] theorem setSt_fmask (n off : Nat) (v : BitVec 32) : (setSt n off v s).fmask = s.fmask := rfl
@[simp] theorem setSt_cm (n off : Nat) (v : BitVec 32) : (setSt n off v s).cm = s.cm := rfl
@[simp] theorem setSt_sys (n off : Nat) (v : BitVec 32) : (setSt n off v s).sys = s.sys := rfl
@[simp] theorem setSt_flashA (n off : Nat) (v : BitVec 32) : (setSt n off v s).flashA = s.flashA := rfl
@[simp] theorem setSt_flashB (n off : Nat) (v : BitVec 32) : (setSt n off v s).flashB = s.flashB := rfl
@[simp] theorem setSt_out (n off : Nat) (v : BitVec 32) : (setSt n off v s).out = s.out := rfl

/-! ### emit -/

@[simp] theorem emit_pending (o : Out) : (emit o s).pending = s.pending := rfl
@[simp] theorem emit_fuses (o : Out) : (emit o s).fuses = s.fuses := rfl
@[simp] theorem emit_sclk (o : Out) : (emit o s).sclk = s.sclk := rfl
@[simp] theorem emit_free (o : Out) : (emit o s).free = s.free := rfl
@[simp] theorem emit_time (o : Out) : (emit o s).time = s.time := rfl
@[simp] theorem emit_tiles (o : Out) : (emit o s).tiles = s.tiles := rfl
@[simp] theorem emit_tileMap (o : Out) : (emit o s).tileMap = s.tileMap := rfl
@[simp] theorem emit_pmA (o : Out) : (emit o s).pmA = s.pmA := rfl
@[simp] theorem emit_pmB (o : Out) : (emit o s).pmB = s.pmB := rfl
@[simp] theorem emit_hbm (o : Out) : (emit o s).hbm = s.hbm := rfl
@[simp] theorem emit_hcStacks (o : Out) : (emit o s).hcStacks = s.hcStacks := rfl
@[simp] theorem emit_chans (o : Out) : (emit o s).chans = s.chans := rfl
@[simp] theorem emit_jobs (o : Out) : (emit o s).jobs = s.jobs := rfl
@[simp] theorem emit_nextJob (o : Out) : (emit o s).nextJob = s.nextJob := rfl
@[simp] theorem emit_postCycle (o : Out) : (emit o s).postCycle = s.postCycle := rfl
@[simp] theorem emit_moved (o : Out) : (emit o s).moved = s.moved := rfl
@[simp] theorem emit_plan (o : Out) : (emit o s).plan = s.plan := rfl
@[simp] theorem emit_nextPlan (o : Out) : (emit o s).nextPlan = s.nextPlan := rfl
@[simp] theorem emit_tenants (o : Out) : (emit o s).tenants = s.tenants := rfl
@[simp] theorem emit_numVfs (o : Out) : (emit o s).numVfs = s.numVfs := rfl
@[simp] theorem emit_vfEnable (o : Out) : (emit o s).vfEnable = s.vfEnable := rfl
@[simp] theorem emit_pfSpdm (o : Out) : (emit o s).pfSpdm = s.pfSpdm := rfl
@[simp] theorem emit_pfUnsol (o : Out) : (emit o s).pfUnsol = s.pfUnsol := rfl
@[simp] theorem emit_pfLost (o : Out) : (emit o s).pfLost = s.pfLost := rfl
@[simp] theorem emit_pfFaults (o : Out) : (emit o s).pfFaults = s.pfFaults := rfl
@[simp] theorem emit_pfPtr (o : Out) : (emit o s).pfPtr = s.pfPtr := rfl
@[simp] theorem emit_tPtr (o : Out) : (emit o s).tPtr = s.tPtr := rfl
@[simp] theorem emit_bags (o : Out) : (emit o s).bags = s.bags := rfl
@[simp] theorem emit_envs (o : Out) : (emit o s).envs = s.envs := rfl
@[simp] theorem emit_esendReceipts (o : Out) : (emit o s).esendReceipts = s.esendReceipts := rfl
@[simp] theorem emit_buffers (o : Out) : (emit o s).buffers = s.buffers := rfl
@[simp] theorem emit_keys (o : Out) : (emit o s).keys = s.keys := rfl
@[simp] theorem emit_ctxs (o : Out) : (emit o s).ctxs = s.ctxs := rfl
@[simp] theorem emit_rotation (o : Out) : (emit o s).rotation = s.rotation := rfl
@[simp] theorem emit_ideActive (o : Out) : (emit o s).ideActive = s.ideActive := rfl
@[simp] theorem emit_ports (o : Out) : (emit o s).ports = s.ports := rfl
@[simp] theorem emit_fx (o : Out) : (emit o s).fx = s.fx := rfl
@[simp] theorem emit_book (o : Out) : (emit o s).book = s.book := rfl
@[simp] theorem emit_bookRx (o : Out) : (emit o s).bookRx = s.bookRx := rfl
@[simp] theorem emit_reqs (o : Out) : (emit o s).reqs = s.reqs := rfl
@[simp] theorem emit_served (o : Out) : (emit o s).served = s.served := rfl
@[simp] theorem emit_nextXtag (o : Out) : (emit o s).nextXtag = s.nextXtag := rfl
@[simp] theorem emit_nextServed (o : Out) : (emit o s).nextServed = s.nextServed := rfl
@[simp] theorem emit_pmMsgCtr (o : Out) : (emit o s).pmMsgCtr = s.pmMsgCtr := rfl
@[simp] theorem emit_wokeAt (o : Out) : (emit o s).wokeAt = s.wokeAt := rfl
@[simp] theorem emit_nextEnv (o : Out) : (emit o s).nextEnv = s.nextEnv := rfl
@[simp] theorem emit_cfgRegs (o : Out) : (emit o s).cfgRegs = s.cfgRegs := rfl
@[simp] theorem emit_chutes (o : Out) : (emit o s).chutes = s.chutes := rfl
@[simp] theorem emit_chStatus (o : Out) : (emit o s).chStatus = s.chStatus := rfl
@[simp] theorem emit_ic0 (o : Out) : (emit o s).ic0 = s.ic0 := rfl
@[simp] theorem emit_ic1 (o : Out) : (emit o s).ic1 = s.ic1 := rfl
@[simp] theorem emit_filters (o : Out) : (emit o s).filters = s.filters := rfl
@[simp] theorem emit_vecs (o : Out) : (emit o s).vecs = s.vecs := rfl
@[simp] theorem emit_fmask (o : Out) : (emit o s).fmask = s.fmask := rfl
@[simp] theorem emit_cm (o : Out) : (emit o s).cm = s.cm := rfl
@[simp] theorem emit_sys (o : Out) : (emit o s).sys = s.sys := rfl
@[simp] theorem emit_stewards (o : Out) : (emit o s).stewards = s.stewards := rfl
@[simp] theorem emit_flashA (o : Out) : (emit o s).flashA = s.flashA := rfl
@[simp] theorem emit_flashB (o : Out) : (emit o s).flashB = s.flashB := rfl

/-! ### tick -/

@[simp] theorem tick_pending  : (tick s).pending = s.pending := rfl
@[simp] theorem tick_fuses  : (tick s).fuses = s.fuses := rfl
@[simp] theorem tick_sclk  : (tick s).sclk = s.sclk := rfl
@[simp] theorem tick_time  : (tick s).time = s.time := rfl
@[simp] theorem tick_tiles  : (tick s).tiles = s.tiles := rfl
@[simp] theorem tick_tileMap  : (tick s).tileMap = s.tileMap := rfl
@[simp] theorem tick_pmA  : (tick s).pmA = s.pmA := rfl
@[simp] theorem tick_pmB  : (tick s).pmB = s.pmB := rfl
@[simp] theorem tick_hbm  : (tick s).hbm = s.hbm := rfl
@[simp] theorem tick_hcStacks  : (tick s).hcStacks = s.hcStacks := rfl
@[simp] theorem tick_chans  : (tick s).chans = s.chans := rfl
@[simp] theorem tick_jobs  : (tick s).jobs = s.jobs := rfl
@[simp] theorem tick_nextJob  : (tick s).nextJob = s.nextJob := rfl
@[simp] theorem tick_postCycle  : (tick s).postCycle = s.postCycle := rfl
@[simp] theorem tick_moved  : (tick s).moved = s.moved := rfl
@[simp] theorem tick_plan  : (tick s).plan = s.plan := rfl
@[simp] theorem tick_nextPlan  : (tick s).nextPlan = s.nextPlan := rfl
@[simp] theorem tick_tenants  : (tick s).tenants = s.tenants := rfl
@[simp] theorem tick_numVfs  : (tick s).numVfs = s.numVfs := rfl
@[simp] theorem tick_vfEnable  : (tick s).vfEnable = s.vfEnable := rfl
@[simp] theorem tick_pfSpdm  : (tick s).pfSpdm = s.pfSpdm := rfl
@[simp] theorem tick_pfUnsol  : (tick s).pfUnsol = s.pfUnsol := rfl
@[simp] theorem tick_pfLost  : (tick s).pfLost = s.pfLost := rfl
@[simp] theorem tick_pfFaults  : (tick s).pfFaults = s.pfFaults := rfl
@[simp] theorem tick_pfPtr  : (tick s).pfPtr = s.pfPtr := rfl
@[simp] theorem tick_tPtr  : (tick s).tPtr = s.tPtr := rfl
@[simp] theorem tick_bags  : (tick s).bags = s.bags := rfl
@[simp] theorem tick_envs  : (tick s).envs = s.envs := rfl
@[simp] theorem tick_esendReceipts  : (tick s).esendReceipts = s.esendReceipts := rfl
@[simp] theorem tick_buffers  : (tick s).buffers = s.buffers := rfl
@[simp] theorem tick_keys  : (tick s).keys = s.keys := rfl
@[simp] theorem tick_ctxs  : (tick s).ctxs = s.ctxs := rfl
@[simp] theorem tick_rotation  : (tick s).rotation = s.rotation := rfl
@[simp] theorem tick_ideActive  : (tick s).ideActive = s.ideActive := rfl
@[simp] theorem tick_ports  : (tick s).ports = s.ports := rfl
@[simp] theorem tick_fx  : (tick s).fx = s.fx := rfl
@[simp] theorem tick_book  : (tick s).book = s.book := rfl
@[simp] theorem tick_bookRx  : (tick s).bookRx = s.bookRx := rfl
@[simp] theorem tick_reqs  : (tick s).reqs = s.reqs := rfl
@[simp] theorem tick_served  : (tick s).served = s.served := rfl
@[simp] theorem tick_nextXtag  : (tick s).nextXtag = s.nextXtag := rfl
@[simp] theorem tick_nextServed  : (tick s).nextServed = s.nextServed := rfl
@[simp] theorem tick_pmMsgCtr  : (tick s).pmMsgCtr = s.pmMsgCtr := rfl
@[simp] theorem tick_wokeAt  : (tick s).wokeAt = s.wokeAt := rfl
@[simp] theorem tick_nextEnv  : (tick s).nextEnv = s.nextEnv := rfl
@[simp] theorem tick_cfgRegs  : (tick s).cfgRegs = s.cfgRegs := rfl
@[simp] theorem tick_chutes  : (tick s).chutes = s.chutes := rfl
@[simp] theorem tick_chStatus  : (tick s).chStatus = s.chStatus := rfl
@[simp] theorem tick_ic0  : (tick s).ic0 = s.ic0 := rfl
@[simp] theorem tick_ic1  : (tick s).ic1 = s.ic1 := rfl
@[simp] theorem tick_filters  : (tick s).filters = s.filters := rfl
@[simp] theorem tick_vecs  : (tick s).vecs = s.vecs := rfl
@[simp] theorem tick_fmask  : (tick s).fmask = s.fmask := rfl
@[simp] theorem tick_cm  : (tick s).cm = s.cm := rfl
@[simp] theorem tick_sys  : (tick s).sys = s.sys := rfl
@[simp] theorem tick_stewards  : (tick s).stewards = s.stewards := rfl
@[simp] theorem tick_flashA  : (tick s).flashA = s.flashA := rfl
@[simp] theorem tick_flashB  : (tick s).flashB = s.flashB := rfl
@[simp] theorem tick_out  : (tick s).out = s.out := rfl
@[simp] theorem setEng_pending (e : EngineId) (x : Engine) : (setEng s e x).pending = s.pending := by cases e <;> rfl
@[simp] theorem updEng_pending (e : EngineId) (g : Engine → Engine) : (updEng s e g).pending = s.pending := by cases e <;> rfl
@[simp] theorem setEng_fuses (e : EngineId) (x : Engine) : (setEng s e x).fuses = s.fuses := by cases e <;> rfl
@[simp] theorem updEng_fuses (e : EngineId) (g : Engine → Engine) : (updEng s e g).fuses = s.fuses := by cases e <;> rfl
@[simp] theorem setEng_sclk (e : EngineId) (x : Engine) : (setEng s e x).sclk = s.sclk := by cases e <;> rfl
@[simp] theorem updEng_sclk (e : EngineId) (g : Engine → Engine) : (updEng s e g).sclk = s.sclk := by cases e <;> rfl
@[simp] theorem setEng_free (e : EngineId) (x : Engine) : (setEng s e x).free = s.free := by cases e <;> rfl
@[simp] theorem updEng_free (e : EngineId) (g : Engine → Engine) : (updEng s e g).free = s.free := by cases e <;> rfl
@[simp] theorem setEng_time (e : EngineId) (x : Engine) : (setEng s e x).time = s.time := by cases e <;> rfl
@[simp] theorem updEng_time (e : EngineId) (g : Engine → Engine) : (updEng s e g).time = s.time := by cases e <;> rfl
@[simp] theorem setEng_tileMap (e : EngineId) (x : Engine) : (setEng s e x).tileMap = s.tileMap := by cases e <;> rfl
@[simp] theorem updEng_tileMap (e : EngineId) (g : Engine → Engine) : (updEng s e g).tileMap = s.tileMap := by cases e <;> rfl
@[simp] theorem setEng_hbm (e : EngineId) (x : Engine) : (setEng s e x).hbm = s.hbm := by cases e <;> rfl
@[simp] theorem updEng_hbm (e : EngineId) (g : Engine → Engine) : (updEng s e g).hbm = s.hbm := by cases e <;> rfl
@[simp] theorem setEng_hcStacks (e : EngineId) (x : Engine) : (setEng s e x).hcStacks = s.hcStacks := by cases e <;> rfl
@[simp] theorem updEng_hcStacks (e : EngineId) (g : Engine → Engine) : (updEng s e g).hcStacks = s.hcStacks := by cases e <;> rfl
@[simp] theorem setEng_chans (e : EngineId) (x : Engine) : (setEng s e x).chans = s.chans := by cases e <;> rfl
@[simp] theorem updEng_chans (e : EngineId) (g : Engine → Engine) : (updEng s e g).chans = s.chans := by cases e <;> rfl
@[simp] theorem setEng_jobs (e : EngineId) (x : Engine) : (setEng s e x).jobs = s.jobs := by cases e <;> rfl
@[simp] theorem updEng_jobs (e : EngineId) (g : Engine → Engine) : (updEng s e g).jobs = s.jobs := by cases e <;> rfl
@[simp] theorem setEng_nextJob (e : EngineId) (x : Engine) : (setEng s e x).nextJob = s.nextJob := by cases e <;> rfl
@[simp] theorem updEng_nextJob (e : EngineId) (g : Engine → Engine) : (updEng s e g).nextJob = s.nextJob := by cases e <;> rfl
@[simp] theorem setEng_postCycle (e : EngineId) (x : Engine) : (setEng s e x).postCycle = s.postCycle := by cases e <;> rfl
@[simp] theorem setEng_moved (e : EngineId) (x : Engine) : (setEng s e x).moved = s.moved := by cases e <;> rfl
@[simp] theorem updEng_postCycle (e : EngineId) (g : Engine → Engine) : (updEng s e g).postCycle = s.postCycle := by cases e <;> rfl
@[simp] theorem updEng_moved (e : EngineId) (g : Engine → Engine) : (updEng s e g).moved = s.moved := by cases e <;> rfl
@[simp] theorem setEng_plan (e : EngineId) (x : Engine) : (setEng s e x).plan = s.plan := by cases e <;> rfl
@[simp] theorem updEng_plan (e : EngineId) (g : Engine → Engine) : (updEng s e g).plan = s.plan := by cases e <;> rfl
@[simp] theorem setEng_nextPlan (e : EngineId) (x : Engine) : (setEng s e x).nextPlan = s.nextPlan := by cases e <;> rfl
@[simp] theorem updEng_nextPlan (e : EngineId) (g : Engine → Engine) : (updEng s e g).nextPlan = s.nextPlan := by cases e <;> rfl
@[simp] theorem setEng_tenants (e : EngineId) (x : Engine) : (setEng s e x).tenants = s.tenants := by cases e <;> rfl
@[simp] theorem updEng_tenants (e : EngineId) (g : Engine → Engine) : (updEng s e g).tenants = s.tenants := by cases e <;> rfl
@[simp] theorem setEng_numVfs (e : EngineId) (x : Engine) : (setEng s e x).numVfs = s.numVfs := by cases e <;> rfl
@[simp] theorem updEng_numVfs (e : EngineId) (g : Engine → Engine) : (updEng s e g).numVfs = s.numVfs := by cases e <;> rfl
@[simp] theorem setEng_vfEnable (e : EngineId) (x : Engine) : (setEng s e x).vfEnable = s.vfEnable := by cases e <;> rfl
@[simp] theorem updEng_vfEnable (e : EngineId) (g : Engine → Engine) : (updEng s e g).vfEnable = s.vfEnable := by cases e <;> rfl
@[simp] theorem setEng_pfSpdm (e : EngineId) (x : Engine) : (setEng s e x).pfSpdm = s.pfSpdm := by cases e <;> rfl
@[simp] theorem updEng_pfSpdm (e : EngineId) (g : Engine → Engine) : (updEng s e g).pfSpdm = s.pfSpdm := by cases e <;> rfl
@[simp] theorem setEng_pfUnsol (e : EngineId) (x : Engine) : (setEng s e x).pfUnsol = s.pfUnsol := by cases e <;> rfl
@[simp] theorem updEng_pfUnsol (e : EngineId) (g : Engine → Engine) : (updEng s e g).pfUnsol = s.pfUnsol := by cases e <;> rfl
@[simp] theorem setEng_pfLost (e : EngineId) (x : Engine) : (setEng s e x).pfLost = s.pfLost := by cases e <;> rfl
@[simp] theorem updEng_pfLost (e : EngineId) (g : Engine → Engine) : (updEng s e g).pfLost = s.pfLost := by cases e <;> rfl
@[simp] theorem setEng_pfFaults (e : EngineId) (x : Engine) : (setEng s e x).pfFaults = s.pfFaults := by cases e <;> rfl
@[simp] theorem updEng_pfFaults (e : EngineId) (g : Engine → Engine) : (updEng s e g).pfFaults = s.pfFaults := by cases e <;> rfl
@[simp] theorem setEng_pfPtr (e : EngineId) (x : Engine) : (setEng s e x).pfPtr = s.pfPtr := by cases e <;> rfl
@[simp] theorem updEng_pfPtr (e : EngineId) (g : Engine → Engine) : (updEng s e g).pfPtr = s.pfPtr := by cases e <;> rfl
@[simp] theorem setEng_tPtr (e : EngineId) (x : Engine) : (setEng s e x).tPtr = s.tPtr := by cases e <;> rfl
@[simp] theorem updEng_tPtr (e : EngineId) (g : Engine → Engine) : (updEng s e g).tPtr = s.tPtr := by cases e <;> rfl
@[simp] theorem setEng_bags (e : EngineId) (x : Engine) : (setEng s e x).bags = s.bags := by cases e <;> rfl
@[simp] theorem updEng_bags (e : EngineId) (g : Engine → Engine) : (updEng s e g).bags = s.bags := by cases e <;> rfl
@[simp] theorem setEng_envs (e : EngineId) (x : Engine) : (setEng s e x).envs = s.envs := by cases e <;> rfl
@[simp] theorem updEng_envs (e : EngineId) (g : Engine → Engine) : (updEng s e g).envs = s.envs := by cases e <;> rfl
@[simp] theorem setEng_esendReceipts (e : EngineId) (x : Engine) : (setEng s e x).esendReceipts = s.esendReceipts := by cases e <;> rfl
@[simp] theorem updEng_esendReceipts (e : EngineId) (g : Engine → Engine) : (updEng s e g).esendReceipts = s.esendReceipts := by cases e <;> rfl
@[simp] theorem setEng_buffers (e : EngineId) (x : Engine) : (setEng s e x).buffers = s.buffers := by cases e <;> rfl
@[simp] theorem updEng_buffers (e : EngineId) (g : Engine → Engine) : (updEng s e g).buffers = s.buffers := by cases e <;> rfl
@[simp] theorem setEng_keys (e : EngineId) (x : Engine) : (setEng s e x).keys = s.keys := by cases e <;> rfl
@[simp] theorem updEng_keys (e : EngineId) (g : Engine → Engine) : (updEng s e g).keys = s.keys := by cases e <;> rfl
@[simp] theorem setEng_ctxs (e : EngineId) (x : Engine) : (setEng s e x).ctxs = s.ctxs := by cases e <;> rfl
@[simp] theorem updEng_ctxs (e : EngineId) (g : Engine → Engine) : (updEng s e g).ctxs = s.ctxs := by cases e <;> rfl
@[simp] theorem setEng_rotation (e : EngineId) (x : Engine) : (setEng s e x).rotation = s.rotation := by cases e <;> rfl
@[simp] theorem updEng_rotation (e : EngineId) (g : Engine → Engine) : (updEng s e g).rotation = s.rotation := by cases e <;> rfl
@[simp] theorem setEng_ideActive (e : EngineId) (x : Engine) : (setEng s e x).ideActive = s.ideActive := by cases e <;> rfl
@[simp] theorem updEng_ideActive (e : EngineId) (g : Engine → Engine) : (updEng s e g).ideActive = s.ideActive := by cases e <;> rfl
@[simp] theorem setEng_ports (e : EngineId) (x : Engine) : (setEng s e x).ports = s.ports := by cases e <;> rfl
@[simp] theorem updEng_ports (e : EngineId) (g : Engine → Engine) : (updEng s e g).ports = s.ports := by cases e <;> rfl
@[simp] theorem setEng_fx (e : EngineId) (x : Engine) : (setEng s e x).fx = s.fx := by cases e <;> rfl
@[simp] theorem updEng_fx (e : EngineId) (g : Engine → Engine) : (updEng s e g).fx = s.fx := by cases e <;> rfl
@[simp] theorem setEng_book (e : EngineId) (x : Engine) : (setEng s e x).book = s.book := by cases e <;> rfl
@[simp] theorem updEng_book (e : EngineId) (g : Engine → Engine) : (updEng s e g).book = s.book := by cases e <;> rfl
@[simp] theorem setEng_bookRx (e : EngineId) (x : Engine) : (setEng s e x).bookRx = s.bookRx := by cases e <;> rfl
@[simp] theorem updEng_bookRx (e : EngineId) (g : Engine → Engine) : (updEng s e g).bookRx = s.bookRx := by cases e <;> rfl
@[simp] theorem setEng_reqs (e : EngineId) (x : Engine) : (setEng s e x).reqs = s.reqs := by cases e <;> rfl
@[simp] theorem updEng_reqs (e : EngineId) (g : Engine → Engine) : (updEng s e g).reqs = s.reqs := by cases e <;> rfl
@[simp] theorem setEng_served (e : EngineId) (x : Engine) : (setEng s e x).served = s.served := by cases e <;> rfl
@[simp] theorem updEng_served (e : EngineId) (g : Engine → Engine) : (updEng s e g).served = s.served := by cases e <;> rfl
@[simp] theorem setEng_nextXtag (e : EngineId) (x : Engine) : (setEng s e x).nextXtag = s.nextXtag := by cases e <;> rfl
@[simp] theorem updEng_nextXtag (e : EngineId) (g : Engine → Engine) : (updEng s e g).nextXtag = s.nextXtag := by cases e <;> rfl
@[simp] theorem setEng_nextServed (e : EngineId) (x : Engine) : (setEng s e x).nextServed = s.nextServed := by cases e <;> rfl
@[simp] theorem updEng_nextServed (e : EngineId) (g : Engine → Engine) : (updEng s e g).nextServed = s.nextServed := by cases e <;> rfl
@[simp] theorem setEng_pmMsgCtr (e : EngineId) (x : Engine) : (setEng s e x).pmMsgCtr = s.pmMsgCtr := by cases e <;> rfl
@[simp] theorem updEng_pmMsgCtr (e : EngineId) (g : Engine → Engine) : (updEng s e g).pmMsgCtr = s.pmMsgCtr := by cases e <;> rfl
@[simp] theorem setEng_wokeAt (e : EngineId) (x : Engine) : (setEng s e x).wokeAt = s.wokeAt := by cases e <;> rfl
@[simp] theorem setEng_nextEnv (e : EngineId) (x : Engine) : (setEng s e x).nextEnv = s.nextEnv := by cases e <;> rfl
@[simp] theorem setEng_cfgRegs (e : EngineId) (x : Engine) : (setEng s e x).cfgRegs = s.cfgRegs := by cases e <;> rfl
@[simp] theorem updEng_wokeAt (e : EngineId) (g : Engine → Engine) : (updEng s e g).wokeAt = s.wokeAt := by cases e <;> rfl
@[simp] theorem updEng_nextEnv (e : EngineId) (g : Engine → Engine) : (updEng s e g).nextEnv = s.nextEnv := by cases e <;> rfl
@[simp] theorem updEng_cfgRegs (e : EngineId) (g : Engine → Engine) : (updEng s e g).cfgRegs = s.cfgRegs := by cases e <;> rfl
@[simp] theorem setEng_chutes (e : EngineId) (x : Engine) : (setEng s e x).chutes = s.chutes := by cases e <;> rfl
@[simp] theorem updEng_chutes (e : EngineId) (g : Engine → Engine) : (updEng s e g).chutes = s.chutes := by cases e <;> rfl
@[simp] theorem setEng_chStatus (e : EngineId) (x : Engine) : (setEng s e x).chStatus = s.chStatus := by cases e <;> rfl
@[simp] theorem updEng_chStatus (e : EngineId) (g : Engine → Engine) : (updEng s e g).chStatus = s.chStatus := by cases e <;> rfl
@[simp] theorem setEng_ic0 (e : EngineId) (x : Engine) : (setEng s e x).ic0 = s.ic0 := by cases e <;> rfl
@[simp] theorem updEng_ic0 (e : EngineId) (g : Engine → Engine) : (updEng s e g).ic0 = s.ic0 := by cases e <;> rfl
@[simp] theorem setEng_ic1 (e : EngineId) (x : Engine) : (setEng s e x).ic1 = s.ic1 := by cases e <;> rfl
@[simp] theorem updEng_ic1 (e : EngineId) (g : Engine → Engine) : (updEng s e g).ic1 = s.ic1 := by cases e <;> rfl
@[simp] theorem setEng_filters (e : EngineId) (x : Engine) : (setEng s e x).filters = s.filters := by cases e <;> rfl
@[simp] theorem updEng_filters (e : EngineId) (g : Engine → Engine) : (updEng s e g).filters = s.filters := by cases e <;> rfl
@[simp] theorem setEng_vecs (e : EngineId) (x : Engine) : (setEng s e x).vecs = s.vecs := by cases e <;> rfl
@[simp] theorem updEng_vecs (e : EngineId) (g : Engine → Engine) : (updEng s e g).vecs = s.vecs := by cases e <;> rfl
@[simp] theorem setEng_fmask (e : EngineId) (x : Engine) : (setEng s e x).fmask = s.fmask := by cases e <;> rfl
@[simp] theorem updEng_fmask (e : EngineId) (g : Engine → Engine) : (updEng s e g).fmask = s.fmask := by cases e <;> rfl
@[simp] theorem setEng_cm (e : EngineId) (x : Engine) : (setEng s e x).cm = s.cm := by cases e <;> rfl
@[simp] theorem updEng_cm (e : EngineId) (g : Engine → Engine) : (updEng s e g).cm = s.cm := by cases e <;> rfl
@[simp] theorem setEng_sys (e : EngineId) (x : Engine) : (setEng s e x).sys = s.sys := by cases e <;> rfl
@[simp] theorem updEng_sys (e : EngineId) (g : Engine → Engine) : (updEng s e g).sys = s.sys := by cases e <;> rfl
@[simp] theorem setEng_stewards (e : EngineId) (x : Engine) : (setEng s e x).stewards = s.stewards := by cases e <;> rfl
@[simp] theorem updEng_stewards (e : EngineId) (g : Engine → Engine) : (updEng s e g).stewards = s.stewards := by cases e <;> rfl
@[simp] theorem setEng_flashA (e : EngineId) (x : Engine) : (setEng s e x).flashA = s.flashA := by cases e <;> rfl
@[simp] theorem updEng_flashA (e : EngineId) (g : Engine → Engine) : (updEng s e g).flashA = s.flashA := by cases e <;> rfl
@[simp] theorem setEng_flashB (e : EngineId) (x : Engine) : (setEng s e x).flashB = s.flashB := by cases e <;> rfl
@[simp] theorem updEng_flashB (e : EngineId) (g : Engine → Engine) : (updEng s e g).flashB = s.flashB := by cases e <;> rfl
@[simp] theorem setEng_out (e : EngineId) (x : Engine) : (setEng s e x).out = s.out := by cases e <;> rfl
@[simp] theorem updEng_out (e : EngineId) (g : Engine → Engine) : (updEng s e g).out = s.out := by cases e <;> rfl

end Sys2Proof.Machine
end

