-- ==== Sys2Proof/Laws/Tbl.lean ====
section
/-! SUPPORT. The laws of sparse tables: read after write, writes to one key, and the canonical form, which every write keeps. -/
namespace Sys2Proof.Machine

open Sys2Proof

variable {α : Type}

@[simp] theorem tget_nil (d : Nat → α) (k : Nat) : tget d [] k = d k := rfl

theorem tget_cons (d : Nat → α) (p : Nat × α) (t : Tbl α) (k : Nat) :
    tget d (p :: t) k = if k = p.1 then p.2 else tget d t k := by
  cases p; rfl

theorem tget_filter_same (d : Nat → α) (t : Tbl α) (k : Nat) :
    tget d (t.filter (fun kv => kv.1 != k)) k = d k := by
  induction t with
  | nil => rfl
  | cons p t ih =>
    by_cases h : p.1 = k
    · simpa [h] using ih
    · simp [h, tget_cons, Ne.symm h, ih]

theorem tget_filter_ne (d : Nat → α) (t : Tbl α) {k j : Nat} (h : j ≠ k) :
    tget d (t.filter (fun kv => kv.1 != k)) j = tget d t j := by
  induction t with
  | nil => rfl
  | cons p t ih =>
    by_cases hp : p.1 = k
    · simp [hp, tget_cons, h, ih]
    · by_cases hj : j = p.1
      · simp [hp, tget_cons, hj]
      · simp [hp, tget_cons, hj, ih]

theorem tget_tins_same (d : Nat → α) (k : Nat) (v : α) (t : Tbl α) (h : ∀ p ∈ t, p.1 ≠ k) :
    tget d (tins k v t) k = v := by
  induction t with
  | nil => simp [tins, tget_cons]
  | cons p t ih =>
    obtain ⟨k', v'⟩ := p
    have hk : k' ≠ k := h (k', v') (by simp)
    have ht : tget d (tins k v t) k = v := ih (fun q hq => h q (by simp [hq]))
    by_cases hlt : k < k'
    · simp [tins, hlt, tget_cons]
    · simp [tins, hlt, tget_cons, Ne.symm hk, ht]

theorem tget_tins_ne (d : Nat → α) {k j : Nat} (v : α) (t : Tbl α) (h : j ≠ k) :
    tget d (tins k v t) j = tget d t j := by
  induction t with
  | nil => simp [tins, tget_cons, h]
  | cons p t ih =>
    obtain ⟨k', v'⟩ := p
    by_cases hlt : k < k'
    · simp [tins, hlt, tget_cons, h]
    · simp [tins, hlt, tget_cons, ih]

/-- Read after write at the key written. -/
@[simp] theorem tget_tset_same [DecidableEq α] (d : Nat → α) (t : Tbl α) (k : Nat) (v : α) :
    tget d (tset d t k v) k = v := by
  unfold tset
  by_cases h : v = d k
  · simp [h, tget_filter_same]
  · simp only [h, if_false]
    exact tget_tins_same d k v _ (by intro p hp; simpa using (List.mem_filter.mp hp).2)

/-- A write leaves every other key alone. -/
theorem tget_tset_ne [DecidableEq α] (d : Nat → α) (t : Tbl α) {k j : Nat} (v : α) (h : j ≠ k) :
    tget d (tset d t k v) j = tget d t j := by
  unfold tset
  by_cases hv : v = d k
  · simp [hv, tget_filter_ne d t h]
  · simp only [hv, if_false]
    rw [tget_tins_ne d v _ h, tget_filter_ne d t h]

theorem filter_tins (k : Nat) (v : α) (t : Tbl α) :
    (tins k v t).filter (fun kv => kv.1 != k) = t.filter (fun kv => kv.1 != k) := by
  induction t with
  | nil => simp [tins]
  | cons p t ih =>
    obtain ⟨k', v'⟩ := p
    by_cases hlt : k < k'
    · simp [tins, hlt]
    · simp only [tins, hlt, if_false, List.filter_cons, ih]

/-- The second of two writes to one key stands. -/
@[simp] theorem tset_tset [DecidableEq α] (d : Nat → α) (t : Tbl α) (k : Nat) (v w : α) :
    tset d (tset d t k v) k w = tset d t k w := by
  have hf : (tset d t k v).filter (fun kv => kv.1 != k) = t.filter (fun kv => kv.1 != k) := by
    unfold tset
    by_cases h : v = d k
    · simp [h]
    · simp only [h, if_false]; rw [filter_tins]; simp
  unfold tset at hf ⊢
  simp only [hf]

/-! ### The canonical form -/

theorem twfFrom_mono [DecidableEq α] (d : Nat → α) {lo lo' : Nat} (t : Tbl α) (h : lo' ≤ lo) (hw : twfFrom d lo t = true) :
    twfFrom d lo' t = true := by
  cases t with
  | nil => rfl
  | cons p t =>
    obtain ⟨k, v⟩ := p
    simp only [twfFrom, Bool.and_eq_true, decide_eq_true_eq] at hw ⊢
    exact ⟨by omega, hw.2⟩

theorem twfFrom_filter [DecidableEq α] (d : Nat → α) (f : Nat × α → Bool) (t : Tbl α) :
    ∀ lo, twfFrom d lo t = true → twfFrom d lo (t.filter f) = true := by
  induction t with
  | nil => intro lo _; rfl
  | cons p t ih =>
    obtain ⟨k, v⟩ := p
    intro lo h
    simp only [twfFrom, Bool.and_eq_true, decide_eq_true_eq] at h
    by_cases hf : f (k, v) = true
    · simp only [List.filter_cons, hf, if_true, twfFrom, Bool.and_eq_true, decide_eq_true_eq]
      exact ⟨h.1, h.2.1, ih _ h.2.2⟩
    · simp only [List.filter_cons, hf]
      exact ih lo (twfFrom_mono d t (by omega) h.2.2)

theorem twfFrom_tins [DecidableEq α] (d : Nat → α) (k : Nat) (v : α) (hv : v ≠ d k) (t : Tbl α) :
    ∀ lo, lo ≤ k → (∀ p ∈ t, p.1 ≠ k) → twfFrom d lo t = true → twfFrom d lo (tins k v t) = true := by
  induction t with
  | nil => intro lo hlo _ _; simp [tins, twfFrom, hlo, hv]
  | cons p t ih =>
    obtain ⟨k', v'⟩ := p
    intro lo hlo hne h
    simp only [twfFrom, Bool.and_eq_true, decide_eq_true_eq] at h
    have hk : k' ≠ k := hne (k', v') (by simp)
    by_cases hlt : k < k'
    · simp only [tins, hlt, if_true, twfFrom, Bool.and_eq_true, decide_eq_true_eq]
      exact ⟨hlo, hv, by omega, h.2⟩
    · simp only [tins, hlt, if_false, twfFrom, Bool.and_eq_true, decide_eq_true_eq]
      exact ⟨h.1, h.2.1, ih _ (by omega) (fun q hq => hne q (by simp [hq])) h.2.2⟩

/-- Every write keeps the canonical form. -/
theorem twf_tset [DecidableEq α] (d : Nat → α) (t : Tbl α) (k : Nat) (v : α) (h : twf d t = true) : twf d (tset d t k v) = true := by
  unfold twf tset at *
  by_cases hv : v = d k
  · simp only [hv, if_true]; exact twfFrom_filter d _ t 0 h
  · simp only [hv, if_false]
    exact twfFrom_tins d k v hv _ 0 (by omega) (by intro p hp; simpa using (List.mem_filter.mp hp).2) (twfFrom_filter d _ t 0 h)

/-- Dropping entries keeps the canonical form. -/
theorem twf_filter [DecidableEq α] (d : Nat → α) (f : Nat × α → Bool) (t : Tbl α) (h : twf d t = true) :
    twf d (t.filter f) = true := twfFrom_filter d f t 0 h

@[simp] theorem twf_nil [DecidableEq α] (d : Nat → α) : twf d ([] : Tbl α) = true := rfl

end Sys2Proof.Machine
end

