-- ==== Sys2Proof/Laws/Units.lean ====
section
/-! SUPPORT. Read after write of every component of the state: tiles, engines, controllers, tenants, ports and their kin. -/
namespace Sys2Proof.Machine

open Sys2Proof

variable (s : State)

/-! ### Tiles -/

@[simp] theorem getP_setP (p : Nat) (x : Tile) : getP (setP s p x) p = x := by simp [getP, setP]
theorem getP_setP_ne {p q : Nat} (x : Tile) (h : q ≠ p) : getP (setP s p x) q = getP s q := by simp [getP, setP, tget_tset_ne _ _ _ h]
@[simp] theorem setP_setP (p : Nat) (x y : Tile) : setP (setP s p x) p y = setP s p y := by simp [setP]

@[simp] theorem getP_updP (p : Nat) (f : Tile → Tile) : getP (updP s p f) p = f (getP s p) := by simp [updP]
@[simp] theorem updP_updP (p : Nat) (f g : Tile → Tile) : updP (updP s p f) p g = updP s p (fun t => g (f t)) := by simp [updP]

theorem perDie_of_fuses {s t : State} (h : t.fuses = s.fuses) : perDie t = perDie s := by simp [perDie, h]
@[simp] theorem perDie_setP (p : Nat) (x : Tile) : perDie (setP s p x) = perDie s := rfl
@[simp] theorem nTiles_setP (p : Nat) (x : Tile) : nTiles (setP s p x) = nTiles s := rfl
@[simp] theorem physOf_setP (p : Nat) (x : Tile) (t : Nat) : physOf (setP s p x) t = physOf s t := rfl

@[simp] theorem getTile_setTile (t : Nat) (x : Tile) : getTile (setTile s t x) t = x := by simp [getTile, setTile]
@[simp] theorem getTile_updTile (t : Nat) (f : Tile → Tile) : getTile (updTile s t f) t = f (getTile s t) := by
  simp [getTile, updTile, updP]
@[simp] theorem updTile_updTile (t : Nat) (f g : Tile → Tile) :
    updTile (updTile s t f) t g = updTile s t (fun x => g (f x)) := by
  simp [updTile, updP]
@[simp] theorem physOf_updTile (t u : Nat) (f : Tile → Tile) : physOf (updTile s t f) u = physOf s u := rfl
@[simp] theorem nTiles_updTile (t : Nat) (f : Tile → Tile) : nTiles (updTile s t f) = nTiles s := rfl

/-- A tile update leaves every tile at another position alone. -/
theorem getTile_updTile_ne {t u : Nat} (f : Tile → Tile) (h : physOf s u ≠ physOf s t) :
    getTile (updTile s t f) u = getTile s u := by
  simp [getTile, updTile, updP, getP_setP_ne _ _ h]

/-! ### Engines -/

@[simp] theorem getEng_setEng (e : EngineId) (x : Engine) : getEng (setEng s e x) e = x := by
  cases e <;> simp [getEng, setEng]
@[simp] theorem getEng_updEng (e : EngineId) (f : Engine → Engine) : getEng (updEng s e f) e = f (getEng s e) := by simp [updEng]
@[simp] theorem setEng_setEng (e : EngineId) (x y : Engine) : setEng (setEng s e x) e y = setEng s e y := by
  cases e <;> simp [setEng]
@[simp] theorem updEng_updEng (e : EngineId) (f g : Engine → Engine) :
    updEng (updEng s e f) e g = updEng s e (fun x => g (f x)) := by simp [updEng]
@[simp] theorem engExists_updEng (e d : EngineId) (f : Engine → Engine) : engExists (updEng s e f) d = engExists s d := by
  cases e <;> cases d <;> rfl
@[simp] theorem physOf_updEng (e : EngineId) (f : Engine → Engine) (t : Nat) : physOf (updEng s e f) t = physOf s t := by
  cases e <;> rfl
@[simp] theorem nTiles_updEng (e : EngineId) (f : Engine → Engine) : nTiles (updEng s e f) = nTiles s := by cases e <;> rfl

/-! ### The other components -/

@[simp] theorem getPm_setPm (b : Bool) (x : Postmaster) : getPm (setPm s b x) b = x := by cases b <;> rfl
@[simp] theorem getPm_updPm (b : Bool) (f : Postmaster → Postmaster) : getPm (updPm s b f) b = f (getPm s b) := by simp [updPm]
@[simp] theorem getChute_setChute (c : Nat) (x : Chute) : getChute (setChute s c x) c = x := by simp [getChute, setChute]
theorem getChute_setChute_ne {c d : Nat} (x : Chute) (h : d ≠ c) : getChute (setChute s c x) d = getChute s d := by
  simp [getChute, setChute, tget_tset_ne _ _ _ h]
@[simp] theorem getChute_updChute (c : Nat) (f : Chute → Chute) : getChute (updChute s c f) c = f (getChute s c) := by simp [updChute]
@[simp] theorem getChan_setChan (pc : Nat) (x : PChan) : getChan (setChan s pc x) pc = x := by simp [getChan, setChan]
theorem getChan_setChan_ne {c d : Nat} (x : PChan) (h : d ≠ c) : getChan (setChan s c x) d = getChan s d := by
  simp [getChan, setChan, tget_tset_ne _ _ _ h]
@[simp] theorem getChan_updChan (pc : Nat) (f : PChan → PChan) : getChan (updChan s pc f) pc = f (getChan s pc) := by simp [updChan]
@[simp] theorem getTen_setTen (n : Nat) (x : Tenant) : getTen (setTen s n x) n = x := by simp [getTen, setTen]
theorem getTen_setTen_ne {n m : Nat} (x : Tenant) (h : m ≠ n) : getTen (setTen s n x) m = getTen s m := by
  simp [getTen, setTen, tget_tset_ne _ _ _ h]
@[simp] theorem getTen_updTen (n : Nat) (f : Tenant → Tenant) : getTen (updTen s n f) n = f (getTen s n) := by simp [updTen]
@[simp] theorem getBag_setBag (f : Fn) (m : Nat) (x : Mailbag) : getBag (setBag s f m x) f m = x := by simp [getBag, setBag]
@[simp] theorem getBag_updBag (f : Fn) (m : Nat) (g : Mailbag → Mailbag) : getBag (updBag s f m g) f m = g (getBag s f m) := by simp [updBag]
@[simp] theorem getKey_setKey (k : Nat) (x : KeySlot) : getKey (setKey s k x) k = x := by simp [getKey, setKey]
theorem getKey_setKey_ne {k j : Nat} (x : KeySlot) (h : j ≠ k) : getKey (setKey s k x) j = getKey s j := by
  simp [getKey, setKey, tget_tset_ne _ _ _ h]
@[simp] theorem getPort_setPort (p : Nat) (x : Port) : getPort (setPort s p x) p = x := by simp [getPort, setPort]
theorem getPort_setPort_ne {p q : Nat} (x : Port) (h : q ≠ p) : getPort (setPort s p x) q = getPort s q := by
  simp [getPort, setPort, tget_tset_ne _ _ _ h]
@[simp] theorem getPort_updPort (p : Nat) (f : Port → Port) : getPort (updPort s p f) p = f (getPort s p) := by simp [updPort]
@[simp] theorem getVec_setVec (f : Fn) (v : Nat) (x : Vec) : getVec (setVec s f v x) f v = x := by simp [getVec, setVec]
@[simp] theorem getVec_updVec (f : Fn) (v : Nat) (g : Vec → Vec) : getVec (updVec s f v g) f v = g (getVec s f v) := by simp [updVec]
@[simp] theorem getBuf_setBuf (b : Nat) (x : Buffer) : getBuf (setBuf s b x) b = x := by simp [getBuf, setBuf]
@[simp] theorem fxReg_setFx (off : Nat) (v : BitVec 32) : fxReg (setFx off v s) off = v := by simp [fxReg, setFx]
@[simp] theorem cmReg_setCm (off : Nat) (v : BitVec 32) : cmReg (setCm off v s) off = v := by simp [cmReg, setCm]
@[simp] theorem getLock_setLock (x : Nat) (l : Lock) : getLock (setLock x l s) x = l := by simp [getLock, setLock]
@[simp] theorem fcReg_setFc (off : Nat) (v : BitVec 32) : fcReg (setFc off v s) off = v := by simp [fcReg, setFc]
@[simp] theorem flReg_setFl (off : Nat) (v : BitVec 32) : flReg (setFl off v s) off = v := by simp [flReg, setFl]
@[simp] theorem ksReg_setKs (off : Nat) (v : BitVec 32) : ksReg (setKs off v s) off = v := by simp [ksReg, setKs]
@[simp] theorem stReg_setSt (n off : Nat) (v : BitVec 32) : stReg (setSt n off v s) n off = v := by simp [stReg, setSt]
@[simp] theorem hcReg_setHc (k off : Nat) (v : BitVec 32) : hcReg (setHc k off v s) k off = v := by
  simp [hcReg, setHc, getStack, hcUnits, userLines]
@[simp] theorem reg_setReg (t : Tile) (off : Nat) (v : BitVec 32) : (t.setReg off v).reg off = v := by simp [Tile.reg, Tile.setReg]
theorem reg_setReg_ne (t : Tile) {off o : Nat} (v : BitVec 32) (h : o ≠ off) : (t.setReg off v).reg o = t.reg o := by
  simp [Tile.reg, Tile.setReg, tget_tset_ne _ _ _ h]

end Sys2Proof.Machine
end

