-- ==== Sys2Proof/Safety.lean ====
section
/-! DEFINITION. What a safe step is, the canonical form of memory, and the terms that statements use: a word that is ready to act, and
the engine after it. -/
namespace Sys2Proof.Machine

open Sys2Proof

/-- The outcome is a next state: neither a fault nor a refusal. -/
def safe (o : Host.Outcome State Fault Refusal) : Bool :=
  match o with
  | .next _ => true
  | .fault _ => false
  | .refused _ => false

/-- HBM is in canonical form: lines in strictly ascending order, none equal to the unwritten state that an unlisted line reads as. -/
def hbmWf (s : State) : Bool := twf (fun _ => HLine.unwritten) s.hbm

/-- A tile store is in canonical form. -/
def storeWf (st : TileStore) : Bool := twf (storeDflt st.filled) st.cells

/-- Memory is in canonical form: HBM, every tile store, both postmasters' private stores and both flash devices. -/
def Memory.wf (s : State) : Bool :=
  hbmWf s && s.tiles.all (fun kv => storeWf kv.2.store) && storeWf s.pmA.store && storeWf s.pmB.store &&
  twf (fun _ => (0xFF : BitVec 8)) s.flashA.bytes && twf (fun _ => (0xFF : BitVec 8)) s.flashB.bytes

/-! ### A word that is ready to act -/

/-- The state in which a program of checks ends without a fault. -/
def passes (p : NM Unit) (s : State) : Option State :=
  match p.run s with
  | .ok _ s1 => some s1
  | .error _ _ => none

/-- The context of a long word. -/
def longCtx (e : EngineId) (w : WordSpec) : WCtx := ⟨e, w.op, 0, longWord w.op w.fields⟩

/-- Steps 1 to 3 of R171 for a long word that is not annulled: the engine exists and runs, the word is fetched, passes decode and has
stack depth and room. The state in which its own operation begins, or none when it does not come so far. -/
def longReady (e : EngineId) (w : WordSpec) (s : State) : Option State :=
  if engExists s e && runnable s e then
    (passes (beginWord (longCtx e w)) s).bind (fun s1 =>
      if (getEng s1 e).annulled then none
      else (passes (decodeLong (longCtx e w) w) s1).bind (passes (stackPrep (longCtx e w) w.use)))
  else none

/-- The context of a pair word and those of its halves. -/
def pairCtx (e : EngineId) (a b : ShortOp) : WCtx := ⟨e, 0, 0, pairWord (shortBits a) (shortBits b)⟩
def ctxA (e : EngineId) (a b : ShortOp) : WCtx := ⟨e, shortMinor a, 1, pairWord (shortBits a) (shortBits b)⟩
def ctxB (e : EngineId) (a b : ShortOp) : WCtx := ⟨e, shortMinor b, 2, pairWord (shortBits a) (shortBits b)⟩

/-- The same for a pair word: fetched, not annulled, and its fill and spill made (R110). With the state comes the data stack, T first, as it
stood before the spill, which both halves read (R97, R106). -/
def pairReady (e : EngineId) (a b : ShortOp) (s : State) : Option (List TWord × State) :=
  if engExists s e && runnable s e then
    (passes (beginWord (pairCtx e a b)) s).bind (fun s1 =>
      if (getEng s1 e).annulled then none
      else
        (passes (pairFill (ctxA e a b) (ctxB e a b) (shortUse a) (shortUse b) (checkHalfA (ctxA e a b) a)) s1).bind (fun s2 =>
          (passes (pairSpill (ctxA e a b) (ctxB e a b) (shortUse a) (shortUse b) (aloneLen (shortUse a) (getEng s1 e)) (checkHalfA (ctxA e a b) a))
            s2).map (fun s3 =>
            ((getEng s2 e).ds, s3))))
  else none

/-- A short operation as a word of its own: half A of a pair whose half B is NOP. -/
def shortReady (e : EngineId) (o : ShortOp) (s : State) : Option (List TWord × State) := pairReady e o .nop s

/-- The engine after a word of n cycles, its first cycle counted at the fetch, when the next word in line follows. -/
def nextWord (n : Nat) (x : Engine) : Engine :=
  { x with
    pc := x.npc, npc := codeAdd x.npc 4, dslot := false, annulled := false, mid := false, waiting := false,
    busy := false, cycles := x.cycles + BitVec.ofNat 64 (n - 1) }

/-- The engine after a branch of n cycles: the delay slot is next, then the target, or the word after the slot; a slot that is annulled
is fetched and has no effect (R145, R148). -/
def afterBranch (n : Nat) (target : Option Word) (annul : Bool) (stall : Nat) (x : Engine) : Engine :=
  { x with
    pc := codeAdd x.pc 4, npc := target.getD (codeAdd x.pc 8), dslot := true, annulled := annul && target.isNone, mid := false,
    waiting := false, busy := false, stall := stall, cycles := x.cycles + BitVec.ofNat 64 (n - 1) }

/-- The next state of a word that only changes its engine. -/
def engNext (s : State) (e : EngineId) (f : Engine → Engine) : Host.Outcome State Fault Refusal := .next (updEng s e f)

/-- A data operand is INT or RAW (R89). -/
def numeric (v : TWord) : Prop := v.tag = 0 ∨ v.tag = 1

/-- The tag of a result of two data operands: INT when both are INT, otherwise RAW (R89). -/
def bothInt (a b : TWord) : Tag := if a.tag = 1 ∧ b.tag = 1 then 1 else 0

/-- The sum of two words and a carry leaves 64 bits unsigned. -/
def carries (a b : Word) (c : Nat) : Bool := decide (2 ^ 64 ≤ a.toNat + b.toNat + c)

/-- A signed value lies outside 64 bits. -/
def outside64 (v : Int) : Bool := decide (v < -(2 ^ 63) ∨ 2 ^ 63 ≤ v)

/-! ### Words that reach memory -/

/-- The engine with the descriptor of a segment most recently used (R160). -/
def touch (seg : BitVec 12) (d : Desc) (x : Engine) : Engine := { x with dcache := cachePut seg d x.dcache }

/-- The state after an access of the engine's port to a bank: its wait is counted in the engine and in its tile's conflict counter (R42 to
R45, R140). -/
def bankWaited (e : EngineId) (bank : Nat) (s : State) : State :=
  let r := engineAccess e bank s
  updEng r.2 e (fun x => { x with cycles := x.cycles + BitVec.ofNat 64 r.1 })

/-- An access of n bytes at an offset that the check of R158 passes, to a tile-store segment whose descriptor is in the cache. -/
def reaches (s : State) (e : EngineId) (right : Desc → Bool) (seg : BitVec 12) (off n : Nat) (d : Desc) : Prop :=
  (getEng s e).dcache.find? (fun p => p.1 == seg) = some (seg, d) ∧ grants d = true ∧ right d = true ∧ d.space = 0 ∧
    off + n ≤ d.limit.toNat + 1 ∧ outsideE s e (d.base.toNat + off) n = none

/-- The word that the engine's store holds at a word index, when nothing in it fails. -/
def soundWord (s : State) (e : EngineId) (w : Nat) : Option TWord :=
  let c := match e with
    | .tile t => (getTile s t).store.cell w
    | .pmA => s.pmA.store.cell w
    | .pmB => s.pmB.store.cell w
  if c.err = 0 then some ⟨c.data, c.tag⟩ else none

/-- A tag that a word delivered to the data stack may carry without a fault: not POISON, not CODE, not reserved, and KEYREF in a
postmaster alone (R91). -/
def deliverable (e : EngineId) (tg : Tag) : Prop := tg.toNat < 8 ∧ tg ≠ 4 ∧ (tg = 7 → privOf e = true)

/-! ### Words that wait -/

/-- A word that may wait, when its wait is over: it is fetched and decoded unless it is under way, `ready` answers that it need not wait, and its
stack depth and room are there. The state in which its own operation begins. -/
def waitReady (e : EngineId) (w : WordSpec) (ready : WCtx → NM Bool) (s : State) : Option State :=
  let x := getEng s e
  if engExists s e && (runnable s e && !x.annulled) then
    (passes (waitHead (longCtx e w) w x) s).bind (fun s1 =>
      match (ready (longCtx e w)).run s1 with
      | .ok true s2 => passes (waitPrep (longCtx e w) w x) s2
      | _ => none)
  else none

/-- The same word while it must go on waiting: the state in which it is held. -/
def waitHolds (e : EngineId) (w : WordSpec) (ready : WCtx → NM Bool) (s : State) : Option State :=
  let x := getEng s e
  if engExists s e && (runnable s e && !x.annulled) then
    (passes (waitHead (longCtx e w) w x) s).bind (fun s1 =>
      match (ready (longCtx e w)).run s1 with
      | .ok false s2 => some s2
      | _ => none)
  else none

/-! ### Requests that the matrix performs, and what they leave unchanged -/

/-- A postmaster's request to a block that the control matrix performs at once (R588, R591 to R597): the device is out of reset, no request is
held, the block's power is on, its lock is free or the postmaster's own, and no locked sequence of the postmaster there is broken. -/
def mxOpen (m : Master) (k : Block) (s : State) : Prop :=
  isPm m = true ∧ (s.sys.phase = .booting ∨ s.sys.phase = .ready) ∧ s.cm.hung = [] ∧ gatedOff s k = false ∧
    ((getLock s (targetOf k)).owner = none ∨ (getLock s (targetOf k)).owner = some m) ∧ (getLock s (targetOf k)).former ≠ some m

/-- Nothing outside logical tile t differs. -/
def tileOnly (s u : State) (t : Nat) : Prop := (∀ p, p ≠ physOf s t → getP u p = getP s p) ∧ u = { s with tiles := u.tiles }

/-- Nothing differs but registers of logical tile t's block at the offsets listed. -/
def tileRegs (s u : State) (t : Nat) (l : List Nat) : Prop :=
  (∀ o, o ∉ l → (getTile u t).reg o = (getTile s t).reg o) ∧ getTile u t = { getTile s t with regs := (getTile u t).regs } ∧ tileOnly s u t

/-- Nothing differs but registers of HBM controller k at the offsets listed. -/
def hcRegs (s u : State) (k : Nat) (l : List Nat) : Prop :=
  (∀ o, o ∉ l → hcReg u k o = hcReg s k o) ∧ (∀ j, j ≠ k → getStack u j = getStack s j) ∧ u = { s with hcStacks := u.hcStacks }

/-- Nothing differs but registers of the fuse controller block at the offsets listed. -/
def fcRegs (s u : State) (l : List Nat) : Prop :=
  (∀ o, o ∉ l → fcReg u o = fcReg s o) ∧ u = { s with sys := { s.sys with fc := u.sys.fc } }

/-- Nothing differs but chute c. -/
def chuteOnly (s u : State) (c : Nat) : Prop := (∀ x, x ≠ c → getChute u x = getChute s x) ∧ u = { s with chutes := u.chutes }

/-- A letter of an operation has arrived at a port, has no malformed part, is for this device, and the device is not in DOZE: the command of
its row takes it and acts (R517, R540). -/
def arrives (port : Nat) (l : Letter) (op : Nat) (s : State) : Prop :=
  port < 32 ∧ (getPort s port).rxq.contains l = true ∧ l.op.toNat = op ∧ malformed l = false ∧ barred s port l = false ∧
    forUs s l = true ∧ inDoze s = false

/-- A function's access to its own BAR 0 registers that is performed at once: the function exists, the device is ready and not fenced, no
request is held, and no lock or broken sequence stands against it (R402, R591 to R593, R629, R660). -/
def fnOpen (f : Fn) (s : State) : Prop :=
  masterExists s (.pcie f) = true ∧ s.sys.phase = .ready ∧ s.sys.ready = true ∧ s.sys.fenced = false ∧ s.cm.hung = [] ∧
    (getLock s (targetOf (.bar0 f))).owner = none ∧ (getLock s (targetOf (.bar0 f))).former ≠ some (.pcie f)

/-- The function whose vector takes an event of chute c at once, when there is one (R555, R565, R568). -/
def takesEvent (s : State) (c : Nat) : Option Fn :=
  let x := getChute s c
  if chuteMask x = false ∧ chuteKind x = 3 ∧ bit s.ic0 31 = false ∧ inDoze s = false then chuteFn x else none

/-! ### Lines of the postmaster's areas -/

/-- A line of the postmaster's areas holds eight words under its key, in u as written from s; where an injection is armed on the line's
stack nothing is said (R360). -/
def areaWritten (s u : State) (pr : Nat × Nat) (ws : List TWord) : Prop :=
  bit (hcReg s (pr.1 / 64) 0x028) 31 = false → getLine u pr.1 pr.2 = ⟨lineData ws, lineTags ws, 0, sysKey s⟩

/-- Every line of HBM but those meant is the same. -/
def linesKept (s u : State) (written : Nat × Nat → Prop) : Prop :=
  ∀ pc r, r < 2 ^ 24 → ¬ written (pc, r) → getLine u pc r = getLine s pc r

/-- A line of an area that reads with nothing to correct, no error and no POISON word, or that nothing has written yet. -/
def areaSound (s : State) (pr : Nat × Nat) : Prop :=
  lineListed s pr = false ∨ ((getLine s pr.1 pr.2).err = 0 ∧ ∀ k, k < 8 → (lineWord 0 (getLine s pr.1 pr.2).tags k).tag ≠ 0xF)

/-- The first n words of payload buffer i are read, as far as the check of their lines goes, and u is the state after it. -/
def readsBuf (s u : State) (i n : Nat) : Prop := bufGood i 0 (cdiv n 8) s = (cdiv n 8, u)

/-- A line among the first n words of payload buffer i cannot be read, and u is the state after the lines up to it were read. -/
def failsBuf (s u : State) (i n : Nat) : Prop := ∃ g, g < cdiv n 8 ∧ bufGood i 0 (cdiv n 8) s = (g, u)

/-! ### Envelopes in execution -/

/-- The postmaster serves, and e is the one envelope of an opcode that executes at a place. -/
def serving (p : Place) (op : Nat) (s : State) (e : Env) : Prop := pmServes s = true ∧ runningAll s p op = [e]

/-- The next state of a step of an envelope: a record of the journal is written (R654). -/
def stepped (s : State) : Host.Outcome State Fault Refusal := .next { s with sys := { s.sys with journal := s.sys.journal + 1 } }

/-- The envelope ends with a status and a result, its receipt written or waiting for room. -/
def endsWith (e : Env) (status result : Nat) (s : State) : Host.Outcome State Fault Refusal := stepped (finishEnv e status result s)

end Sys2Proof.Machine
end

