-- ==== Sys2Proof/Laws/Words.lean ====
section
/-! SUPPORT. What a word does once it is ready: the one lemma of each of the two word runners, and of the annulled delay slot. -/
namespace Sys2Proof.Machine

open Sys2Proof

theorem passes_some {p : NM Unit} {s s1 : State} (h : passes p s = some s1) : p.run s = .ok () s1 := by
  unfold passes at h
  split at h
  · rename_i u s2 hr
    cases h
    exact hr
  · cases h

/-- A program that begins with one that succeeds goes on from there. -/
theorem run_bind_ok {α β : Type} {p : NM α} {k : α → NM β} {s s1 : State} {a : α} (h : p.run s = .ok a s1) :
    (p >>= k).run s = (k a).run s1 := by
  simp only [EStateM.run, bind, EStateM.bind] at h ⊢
  rw [h]

/-- A program that begins with one that faults faults. -/
theorem run_bind_error {α β : Type} {p : NM α} {k : α → NM β} {s s1 : State} {f : NFault} (h : p.run s = .error f s1) :
    (p >>= k).run s = .error f s1 := by
  simp only [EStateM.run, bind, EStateM.bind] at h ⊢
  rw [h]

theorem nEng_run (c : WCtx) (s : State) : (nEng c).run s = .ok (getEng s c.e) s := rfl
theorem nMod_run (c : WCtx) (f : Engine → Engine) (s : State) : (nMod c f).run s = .ok () (updEng s c.e f) := rfl
theorem addCyc_run (c : WCtx) (n : Nat) (s : State) :
    (addCyc c n).run s = .ok () (updEng s c.e (fun x => { x with cycles := x.cycles + BitVec.ofNat 64 n })) := rfl
theorem pure_run {α : Type} (a : α) (s : State) : (pure a : NM α).run s = .ok a s := rfl

/-- An engine that exists and can execute a word runs its program: the state it ends in, or the fault's entry. -/
theorem runProg_ok {e : EngineId} {p : NM Unit} {s s1 : State} (he : engExists s e = true) (hr : runnable s e = true)
    (h : p.run s = .ok () s1) : runProg e p s = .next s1 := by
  simp only [runProg, runWord, onUnit, he, hr, if_true, h]

theorem runProg_error {e : EngineId} {p : NM Unit} {s s1 : State} {f : NFault} (he : engExists s e = true)
    (hr : runnable s e = true) (h : p.run s = .error f s1) : runProg e p s = .next (syncFault e f s1) := by
  simp only [runProg, runWord, onUnit, he, hr, if_true, h]

/-- What it is for a long word to be ready. -/
theorem longReady_iff {e : EngineId} {w : WordSpec} {s s3 : State} (h : longReady e w s = some s3) :
    engExists s e = true ∧ runnable s e = true ∧ ∃ s1 s2, (beginWord (longCtx e w)).run s = .ok () s1 ∧
      (getEng s1 e).annulled = false ∧ (decodeLong (longCtx e w) w).run s1 = .ok () s2 ∧
      (stackPrep (longCtx e w) w.use).run s2 = .ok () s3 := by
  unfold longReady at h
  split at h
  · rename_i hx
    simp only [Bool.and_eq_true] at hx
    obtain ⟨s1, h1, h⟩ := Option.bind_eq_some_iff.mp h
    split at h
    · cases h
    · rename_i ha
      obtain ⟨s2, h2, h⟩ := Option.bind_eq_some_iff.mp h
      exact ⟨hx.1, hx.2, s1, s2, passes_some h1, by simpa using ha, passes_some h2, passes_some h⟩
  · cases h

theorem pairReady_iff {e : EngineId} {a b : ShortOp} {s s3 : State} {v : List TWord} (h : pairReady e a b s = some (v, s3)) :
    engExists s e = true ∧ runnable s e = true ∧ ∃ s1 s2, (beginWord (pairCtx e a b)).run s = .ok () s1 ∧
      (getEng s1 e).annulled = false ∧
      (pairFill (ctxA e a b) (ctxB e a b) (shortUse a) (shortUse b) (checkHalfA (ctxA e a b) a)).run s1 = .ok () s2 ∧
      v = (getEng s2 e).ds ∧
      (pairSpill (ctxA e a b) (ctxB e a b) (shortUse a) (shortUse b) (aloneLen (shortUse a) (getEng s1 e))
        (checkHalfA (ctxA e a b) a)).run s2 = .ok () s3 := by
  unfold pairReady at h
  split at h
  · rename_i hx
    simp only [Bool.and_eq_true] at hx
    obtain ⟨s1, h1, h⟩ := Option.bind_eq_some_iff.mp h
    split at h
    · cases h
    · rename_i ha
      obtain ⟨s2, h2, h⟩ := Option.bind_eq_some_iff.mp h
      obtain ⟨s4, h3, h⟩ := Option.map_eq_some_iff.mp h
      cases h
      exact ⟨hx.1, hx.2, s1, s2, passes_some h1, by simpa using ha, passes_some h2, rfl, passes_some h3⟩
  · cases h

/-- A long word that is ready and whose own operation succeeds takes its remaining cycles and its flow. -/
theorem runLong_ready {e : EngineId} {w : WordSpec} {body : WCtx → NM Flow} {s s1 s2 : State} {f : Flow}
    (h : longReady e w s = some s1) (hb : (body (longCtx e w)).run s1 = .ok f s2) :
    runLong e w body s = .next (updEng s2 e (fun x => applyFlow f { x with cycles := x.cycles + BitVec.ofNat 64 (if f = .hold then 0 else w.cycles - 1) })) := by
  obtain ⟨he, hr, sa, sd, h1, ha, h2, h3⟩ := longReady_iff h
  refine runProg_ok he hr ?_
  show (beginWord (longCtx e w) >>= fun _ => nEng (longCtx e w) >>= fun x => decodeLong (longCtx e w) w >>= fun _ =>
    if x.annulled then nMod (longCtx e w) (applyFlow .seq)
    else stackPrep (longCtx e w) w.use >>= fun _ => body (longCtx e w) >>= fun f =>
      addCyc (longCtx e w) (if f = .hold then 0 else w.cycles - 1) >>= fun _ => nMod (longCtx e w) (applyFlow f)).run s = _
  rw [run_bind_ok h1, run_bind_ok (nEng_run _ _), run_bind_ok h2, if_neg (by rw [show (longCtx e w).e = e from rfl, ha]; decide),
    run_bind_ok h3, run_bind_ok hb, run_bind_ok (addCyc_run _ _ _), nMod_run]
  simp [longCtx]

/-- A long word that is ready and whose own operation faults takes that fault. -/
theorem runLong_faults {e : EngineId} {w : WordSpec} {body : WCtx → NM Flow} {s s1 s2 : State} {f : NFault}
    (h : longReady e w s = some s1) (hb : (body (longCtx e w)).run s1 = .error f s2) :
    runLong e w body s = .next (syncFault e f s2) := by
  obtain ⟨he, hr, sa, sd, h1, ha, h2, h3⟩ := longReady_iff h
  refine runProg_error he hr ?_
  show (beginWord (longCtx e w) >>= fun _ => nEng (longCtx e w) >>= fun x => decodeLong (longCtx e w) w >>= fun _ =>
    if x.annulled then nMod (longCtx e w) (applyFlow .seq)
    else stackPrep (longCtx e w) w.use >>= fun _ => body (longCtx e w) >>= fun f =>
      addCyc (longCtx e w) (if f = .hold then 0 else w.cycles - 1) >>= fun _ => nMod (longCtx e w) (applyFlow f)).run s = _
  rw [run_bind_ok h1, run_bind_ok (nEng_run _ _), run_bind_ok h2, if_neg (by rw [show (longCtx e w).e = e from rfl, ha]; decide),
    run_bind_ok h3, run_bind_error hb]

/-- The program of a pair word from its first half on, once its fill and spill are made, with the stack v that both halves read. -/
def pairHalves (c : WCtx) (v : List TWord) (a b : ShortOp) : NM Unit := do
  let ca := { c with op := shortMinor a, half := 1 }
  let cb := { c with op := shortMinor b, half := 2 }
  let ra ← halfA ca v a
  if v.length < (shortUse b).1 ∨ v.length + (shortUse a).2.2 < (shortUse a).2.1 + (shortUse b).2.1 then stackFault 2 0
  let rb ← shortEval cb v b
  nMod c (fun x => applyShort rb (applyShort ra x))
  addCyc c (max (shortCycles a) (shortCycles b) - 1)

/-- A pair word that is ready runs its halves. -/
theorem pairBody_ready {e : EngineId} {a b : ShortOp} {s s1 s2 : State}
    (h1 : (pairFill (ctxA e a b) (ctxB e a b) (shortUse a) (shortUse b) (checkHalfA (ctxA e a b) a)).run s = .ok () s1)
    (h2 : (pairSpill (ctxA e a b) (ctxB e a b) (shortUse a) (shortUse b) (aloneLen (shortUse a) (getEng s e))
      (checkHalfA (ctxA e a b) a)).run s1 = .ok () s2) :
    (pairBody (pairCtx e a b) a b).run s = (pairHalves (pairCtx e a b) (getEng s1 e).ds a b).run s2 :=
  (run_bind_ok h1).trans ((run_bind_ok (nEng_run _ _)).trans (run_bind_ok h2))

/-- A pair word that is ready: its halves, then the next word; a fault of a half is the word's. -/
theorem runPair_halves {e : EngineId} {a b : ShortOp} {s s1 : State} {v : List TWord} (h : pairReady e a b s = some (v, s1)) :
    runPair e a b s = match (pairHalves (pairCtx e a b) v a b).run s1 with
      | .ok _ s2 => .next (updEng s2 e (applyFlow .seq))
      | .error f s2 => .next (syncFault e f s2) := by
  obtain ⟨he, hr, sa, sb, h1, hn, h2, rfl, h3⟩ := pairReady_iff h
  have hb := pairBody_ready h2 h3
  have hw : (beginWord (pairCtx e a b) >>= fun _ => nEng (pairCtx e a b) >>= fun x =>
      if x.annulled then nMod (pairCtx e a b) (applyFlow .seq)
      else pairBody (pairCtx e a b) a b >>= fun _ => nMod (pairCtx e a b) (applyFlow .seq)).run s =
      (pairBody (pairCtx e a b) a b >>= fun _ => nMod (pairCtx e a b) (applyFlow .seq)).run sa := by
    rw [run_bind_ok h1, run_bind_ok (nEng_run _ _), if_neg (by rw [show (pairCtx e a b).e = e from rfl, hn]; decide)]
  split
  · rename_i u s2 hh
    exact runProg_ok he hr (hw.trans ((run_bind_ok (hb.trans hh)).trans (nMod_run _ _ _)))
  · rename_i f s2 hh
    exact runProg_error he hr (hw.trans (run_bind_error (hb.trans hh)))

/-- A pair word that is ready and whose halves pass their checks applies A's writes and then B's (R107, R110). -/
theorem runPair_ready {e : EngineId} {a b : ShortOp} {s s1 s2 s3 : State} {v : List TWord} {ra rb : SRes}
    (h : pairReady e a b s = some (v, s1)) (ha : (halfA (ctxA e a b) v a).run s1 = .ok ra s2)
    (hd : (shortUse b).1 ≤ v.length ∧ (shortUse a).2.1 + (shortUse b).2.1 ≤ v.length + (shortUse a).2.2)
    (hb : (shortEval (ctxB e a b) v b).run s2 = .ok rb s3) :
    runPair e a b s = .next (updEng s3 e (fun x =>
      nextWord (max (shortCycles a) (shortCycles b)) (applyShort rb (applyShort ra x)))) := by
  have hlt : ¬ (v.length < (shortUse b).1 ∨ v.length + (shortUse a).2.2 < (shortUse a).2.1 + (shortUse b).2.1) := by omega
  have hp : (pairHalves (pairCtx e a b) v a b).run s1 = .ok () (updEng s3 e (fun x =>
      { applyShort rb (applyShort ra x) with
        cycles := (applyShort rb (applyShort ra x)).cycles + BitVec.ofNat 64 (max (shortCycles a) (shortCycles b) - 1) })) := by
    refine (run_bind_ok ha).trans ?_
    let jp : NM Unit := shortEval (ctxB e a b) v b >>= fun rb =>
      nMod (pairCtx e a b) (fun x => applyShort rb (applyShort ra x)) >>= fun _ =>
        addCyc (pairCtx e a b) (max (shortCycles a) (shortCycles b) - 1)
    have hj : jp.run s2 = .ok () (updEng s3 e (fun x =>
        { applyShort rb (applyShort ra x) with
          cycles := (applyShort rb (applyShort ra x)).cycles + BitVec.ofNat 64 (max (shortCycles a) (shortCycles b) - 1) })) := by
      rw [run_bind_ok hb, run_bind_ok (nMod_run _ _ _), addCyc_run]
      simp [pairCtx]
    exact (congrArg (fun p : NM Unit => p.run s2) (if_neg hlt)).trans hj
  rw [runPair_halves h, hp]
  simp [applyFlow, nextWord]

/-- A pair word that is ready and one of whose halves fails a check takes that fault (R109). -/
theorem runPair_faults {e : EngineId} {a b : ShortOp} {s s1 s2 : State} {v : List TWord} {f : NFault}
    (h : pairReady e a b s = some (v, s1)) (hf : (pairHalves (pairCtx e a b) v a b).run s1 = .error f s2) :
    runPair e a b s = .next (syncFault e f s2) := by
  rw [runPair_halves h, hf]

/-- No short operation pops more than it needs. -/
theorem pops_le_need (o : ShortOp) : (shortUse o).2.1 ≤ (shortUse o).1 := by
  cases o <;> simp [shortUse]

/-- Half A with enough entries is its own checks and result. -/
theorem halfA_run {c : WCtx} {v : List TWord} {o : ShortOp} {s : State} (h : (shortUse o).1 ≤ v.length) :
    (halfA c v o).run s = (shortEval c v o).run s :=
  congrArg (fun p : NM SRes => p.run s) (if_neg (by omega))

/-- A short operation as a word of its own that is ready and passes its checks. -/
theorem runShort_ready {e : EngineId} {o : ShortOp} {s s1 s2 : State} {v : List TWord} {r : SRes} (h : shortReady e o s = some (v, s1))
    (hl : (shortUse o).1 ≤ v.length) (hs : (shortEval (ctxA e o .nop) v o).run s1 = .ok r s2) :
    runPair e o .nop s = .next (updEng s2 e (fun x => nextWord (max (shortCycles o) 2) (applyShort r x))) := by
  have hp := pops_le_need o
  refine (runPair_ready h (s2 := s2) (ra := r) (rb := sPush 0 []) (s3 := s2) ?_ ?_ rfl).trans ?_
  · rw [halfA_run hl, hs]
  · simp only [show (shortUse .nop) = (0, 0, 0) from rfl]
    omega
  · simp [applyShort, sPush, FlagUpd.none, applyFlags, shortCycles]

/-- A short operation as a word of its own that is ready and whose check fails takes that fault. -/
theorem runShort_faults {e : EngineId} {o : ShortOp} {s s1 s2 : State} {v : List TWord} {f : NFault} (h : shortReady e o s = some (v, s1))
    (hl : (shortUse o).1 ≤ v.length) (hs : (shortEval (ctxA e o .nop) v o).run s1 = .error f s2) :
    runPair e o .nop s = .next (syncFault e f s2) :=
  runPair_faults h (run_bind_error ((halfA_run hl).trans hs))

/-! ### Words that wait -/

/-- What it is for a word that may wait to be ready. -/
theorem waitReady_iff {e : EngineId} {w : WordSpec} {ready : WCtx → NM Bool} {s s3 : State} (h : waitReady e w ready s = some s3) :
    engExists s e = true ∧ runnable s e = true ∧ (getEng s e).annulled = false ∧ ∃ s1 s2,
      (waitHead (longCtx e w) w (getEng s e)).run s = .ok () s1 ∧ (ready (longCtx e w)).run s1 = .ok true s2 ∧
      (waitPrep (longCtx e w) w (getEng s e)).run s2 = .ok () s3 := by
  unfold waitReady at h
  simp only [] at h
  split at h
  · rename_i hx
    simp only [Bool.and_eq_true, Bool.not_eq_true'] at hx
    obtain ⟨s1, h1, h⟩ := Option.bind_eq_some_iff.mp h
    split at h
    · rename_i s2 hr
      exact ⟨hx.1, hx.2.1, hx.2.2, s1, s2, passes_some h1, hr, passes_some h⟩
    · cases h
  · cases h

theorem waitHolds_iff {e : EngineId} {w : WordSpec} {ready : WCtx → NM Bool} {s s2 : State} (h : waitHolds e w ready s = some s2) :
    engExists s e = true ∧ runnable s e = true ∧ (getEng s e).annulled = false ∧ ∃ s1,
      (waitHead (longCtx e w) w (getEng s e)).run s = .ok () s1 ∧ (ready (longCtx e w)).run s1 = .ok false s2 := by
  unfold waitHolds at h
  simp only [] at h
  split at h
  · rename_i hx
    simp only [Bool.and_eq_true, Bool.not_eq_true'] at hx
    obtain ⟨s1, h1, h⟩ := Option.bind_eq_some_iff.mp h
    split at h
    · rename_i s2 hr
      cases h
      exact ⟨hx.1, hx.2.1, hx.2.2, s1, passes_some h1, hr⟩
    · cases h
  · cases h

/-- A word whose wait is over and whose own operation succeeds. -/
theorem runWait_ready {e : EngineId} {w : WordSpec} {ready : WCtx → NM Bool} {body : WCtx → NM Flow} {s s1 s2 : State} {f : Flow}
    (h : waitReady e w ready s = some s1) (hb : (body (longCtx e w)).run s1 = .ok f s2) :
    runWait e w ready body s = .next (updEng s2 e (fun x => applyFlow f { x with cycles := x.cycles + BitVec.ofNat 64 (if f = .hold then 0 else w.cycles - 1) })) := by
  obtain ⟨he, hr, hn, sa, sb, h1, h2, h3⟩ := waitReady_iff h
  refine runProg_ok he hr ((run_bind_ok (nEng_run _ _)).trans ((run_bind_ok h1).trans ?_))
  refine (congrArg (fun p : NM Unit => p.run sa) (if_neg (fun hh => by rw [hn] at hh; cases hh))).trans ?_
  refine (run_bind_ok h2).trans ((congrArg (fun p : NM Unit => p.run sb) (if_pos rfl)).trans ?_)
  refine (run_bind_ok h3).trans ((run_bind_ok hb).trans ((run_bind_ok (addCyc_run _ _ _)).trans ((nMod_run _ _ _).trans ?_)))
  simp

/-- A word whose wait is over and whose own operation faults. -/
theorem runWait_faults {e : EngineId} {w : WordSpec} {ready : WCtx → NM Bool} {body : WCtx → NM Flow} {s s1 s2 : State} {f : NFault}
    (h : waitReady e w ready s = some s1) (hb : (body (longCtx e w)).run s1 = .error f s2) :
    runWait e w ready body s = .next (syncFault e f s2) := by
  obtain ⟨he, hr, hn, sa, sb, h1, h2, h3⟩ := waitReady_iff h
  refine runProg_error he hr ((run_bind_ok (nEng_run _ _)).trans ((run_bind_ok h1).trans ?_))
  refine (congrArg (fun p : NM Unit => p.run sa) (if_neg (fun hh => by rw [hn] at hh; cases hh))).trans ?_
  refine (run_bind_ok h2).trans ((congrArg (fun p : NM Unit => p.run sb) (if_pos rfl)).trans ?_)
  exact (run_bind_ok h3).trans (run_bind_error hb)

/-- A word that must go on waiting stays at the pc. -/
theorem runWait_holds {e : EngineId} {w : WordSpec} {ready : WCtx → NM Bool} {body : WCtx → NM Flow} {s s1 : State}
    (h : waitHolds e w ready s = some s1) :
    runWait e w ready body s = .next (updEng s1 e (fun x => { x with waiting := true, mid := true, busy := false })) := by
  obtain ⟨he, hr, hn, sa, h1, h2⟩ := waitHolds_iff h
  refine runProg_ok he hr ((run_bind_ok (nEng_run _ _)).trans ((run_bind_ok h1).trans ?_))
  refine (congrArg (fun p : NM Unit => p.run sa) (if_neg (fun hh => by rw [hn] at hh; cases hh))).trans ?_
  refine (run_bind_ok h2).trans ((congrArg (fun p : NM Unit => p.run s1) (if_neg (by decide))).trans ?_)
  rfl

end Sys2Proof.Machine
end

