-- ==== Sys2Proof/WellFormed.lean ====
section
/-! DEFINITION. Well-formed commands: the units that a command names exist on some order code of the part (R1 to R5, R15, R16, R402,
R502, R552). Which tiles exist on the part at hand is checked by the machine. -/
namespace Sys2Proof

/-- A tile sequencer below 128, or a postmaster. -/
def engOk : EngineId → Bool
  | .tile t => decide (t < 128)
  | .pmA => true
  | .pmB => true

/-- The PF, or the VF of a tenant below 1,024 (R402). -/
def fnOk : Fn → Bool
  | .pf => true
  | .vf n => decide (n < 1024)

/-- A tenant has mailbags 0 to 63, the PF 0 to 15; ESEND queues belong to tiles. -/
def placeOk : Place → Bool
  | .tenantBag n m => decide (n < 1024) && decide (m < 64)
  | .pfBag m => decide (m < 16)
  | .esend t => decide (t < 128)

def masterOk : Master → Bool
  | .pmA => true
  | .pmB => true
  | .pcie f => fnOk f
  | .loader => true
  | .debug => true
  | .tilePort t => decide (t < 128)

/-- A mailbag of a function. -/
def bagOk (f : Fn) (bag : Nat) : Bool :=
  match f with
  | .pf => decide (bag < 16)
  | .vf _ => decide (bag < 64)

/-- An MSI-X vector of a function (R571). -/
def vecOk : Fn → Nat → Bool
  | .pf, v => decide (v < 2048)
  | .vf n, v => decide (n < 1024) && decide (v < 16)

/-- Every unit that a command names lies in its range. -/
def wellFormed : Instr → Bool
  | .lit e _ => engOk e
  | .litr e _ => engOk e
  | .lits e _ => engOk e
  | .segref e _ _ => engOk e
  | .aaddi e _ => engOk e
  | .ld e _ => engOk e
  | .st e _ => engOk e
  | .ldx e _ => engOk e
  | .ldy e _ => engOk e
  | .stx e _ => engOk e
  | .sty e _ => engOk e
  | .lda e _ => engOk e
  | .sta e _ => engOk e
  | .rdsr e _ => engOk e
  | .wrsr e _ => engOk e
  | .addi e _ => engOk e
  | .andi e _ => engOk e
  | .ori e _ => engOk e
  | .xori e _ => engOk e
  | .cmpi e _ => engOk e
  | .mul e => engOk e
  | .mulhu e => engOk e
  | .mulhs e => engOk e
  | .exti e _ _ _ => engOk e
  | .insi e _ _ _ => engOk e
  | .ext e => engOk e
  | .ins e => engOk e
  | .bperm e => engOk e
  | .movw e _ => engOk e
  | .fillw e _ => engOk e
  | .vwait e _ => engOk e
  | .vfence e => engOk e
  | .rload e => engOk e
  | .rcall e => engOk e
  | .rwait e => engOk e
  | .vmake e => engOk e
  | .vsetl e => engOk e
  | .esend e => engOk e
  | .br e _ => engOk e
  | .bz e _ => engOk e
  | .bnz e _ => engOk e
  | .bn e _ => engOk e
  | .bnn e _ => engOk e
  | .bc e _ => engOk e
  | .bnc e _ => engOk e
  | .bv e _ => engOk e
  | .bnv e _ => engOk e
  | .bgt e _ => engOk e
  | .ble e _ => engOk e
  | .bge e _ => engOk e
  | .blt e _ => engOk e
  | .bhi e _ => engOk e
  | .bls e _ => engOk e
  | .bxnz e _ => engOk e
  | .call e _ => engOk e
  | .calla e => engOk e
  | .ret e => engOk e
  | .trap e _ => engOk e
  | .fret e => engOk e
  | .seal e => engOk e
  | .unseal e => engOk e
  | .halt e => engOk e
  | .mxrd e => engOk e
  | .mxwr e => engOk e
  | .mxlock e => engOk e
  | .mxunlk e => engOk e
  | .kref e _ => engOk e
  | .kzero e => engOk e
  | .kbind e => engOk e
  | .instructionPair e _ _ => engOk e
  | .nop e => engOk e
  | .dup e => engOk e
  | .drop e => engOk e
  | .swap e => engOk e
  | .over e => engOk e
  | .rot e => engOk e
  | .nip e => engOk e
  | .pick e _ => engOk e
  | .slit e _ => engOk e
  | .saddi e _ => engOk e
  | .add e => engOk e
  | .adc e => engOk e
  | .sub e => engOk e
  | .sbc e => engOk e
  | .and e => engOk e
  | .or e => engOk e
  | .xor e => engOk e
  | .not e => engOk e
  | .neg e => engOk e
  | .cmp e => engOk e
  | .tst e => engOk e
  | .clz e => engOk e
  | .popc e => engOk e
  | .shl e _ => engOk e
  | .shr e _ => engOk e
  | .sar e _ => engOk e
  | .rol e _ => engOk e
  | .tox e => engOk e
  | .toy e => engOk e
  | .fromx e => engOk e
  | .fromy e => engOk e
  | .xadd e _ => engOk e
  | .yadd e _ => engOk e
  | .xcmp e _ => engOk e
  | .ycmp e _ => engOk e
  | .aadd e => engOk e
  | .aoff e => engOk e
  | .aseg e => engOk e
  | .adiff e => engOk e
  | .toint e => engOk e
  | .toraw e => engOk e
  | .toflt e => engOk e
  | .tagof e => engOk e
  | .dset e => engOk e
  | .dstep e => engOk e
  | .asyncFaultEntry e => engOk e
  | .sealOverrun e => engOk e
  | .engineHalt e => engOk e
  | .storeBufferDrain e => engOk e
  | .descriptorInvalidate t => decide (t < 128)
  | .vadd e _ _ => engOk e
  | .vsub e _ _ => engOk e
  | .vmul e _ _ => engOk e
  | .vfma e _ _ => engOk e
  | .vfms e _ _ => engOk e
  | .vfnma e _ _ => engOk e
  | .vfnms e _ _ => engOk e
  | .vmin e _ _ => engOk e
  | .vmax e _ _ => engOk e
  | .vabs e _ _ => engOk e
  | .vneg e _ _ => engOk e
  | .vcmp e _ _ => engOk e
  | .vcvt e _ _ => engOk e
  | .vrcpe e _ _ => engOk e
  | .vrsqe e _ _ => engOk e
  | .vrcps e _ _ => engOk e
  | .vrsqs e _ _ => engOk e
  | .vand e _ _ => engOk e
  | .vor e _ _ => engOk e
  | .vxor e _ _ => engOk e
  | .vnot e _ _ => engOk e
  | .vshl e _ _ => engOk e
  | .vshr e _ _ => engOk e
  | .vsar e _ _ => engOk e
  | .vsel e _ _ => engOk e
  | .vcopy e _ _ => engOk e
  | .vgather e _ _ => engOk e
  | .vscatter e _ _ => engOk e
  | .vcompress e _ _ => engOk e
  | .vexpand e _ _ => engOk e
  | .vscan e _ _ => engOk e
  | .vred e _ _ => engOk e
  | .vsegred e _ _ => engOk e
  | .vpermb e _ _ => engOk e
  | .vperme e _ _ => engOk e
  | .vtrans e _ _ => engOk e
  | .vload e _ _ => engOk e
  | .vstore e _ _ => engOk e
  | .vectorStart t => decide (t < 128)
  | .stripCommit t _ _ => decide (t < 128)
  | .thirdPass t _ _ => decide (t < 128)
  | .chargeWindowClose t pipe => decide (t < 128) && decide (pipe < 10)
  | .deferredCauseAct t => decide (t < 128)
  | .pipeWakeDone t pipe => decide (t < 128) && decide (pipe < 10)
  | .pipeSleep t pipe => decide (t < 128) && decide (pipe < 10)
  | .roundWindow0Start t _ => decide (t < 128)
  | .roundWindowStart t _ => decide (t < 128)
  | .postboxFetchDone t _ => decide (t < 128)
  | .roundEnd t => decide (t < 128)
  | .postCycleBoundary => true
  | .counterSlot pc pos => decide (pc < 1024) && decide (pos < 1024)
  | .atomicLineWrite pc => decide (pc < 1024)
  | .hbmRefresh pc pos => decide (pc < 1024) && decide (pos < 1024)
  | .hbmScrubPosition stack pos => decide (stack < 16) && decide (pos < 1024)
  | .hbmCorrectionWriteback pc => decide (pc < 1024)
  | .hbmPoisonRewrite pc => decide (pc < 1024)
  | .hbmRepairDone stack => decide (stack < 16)
  | .stackTempRead stack _ => decide (stack < 16)
  | .tileScrubAttempt t => decide (t < 128)
  | .tsCorrectionWriteback t bank => decide (t < 128) && decide (bank < 16)
  | .tileRowRepair t => decide (t < 128)
  | .fillDone t => decide (t < 128)
  | .tsFillGo m t => masterOk m && decide (t < 128)
  | .tsRepairGo m t _ _ => masterOk m && decide (t < 128)
  | .tsClogClear m t => masterOk m && decide (t < 128)
  | .tsInjectArm m t _ _ _ => masterOk m && decide (t < 128)
  | .tsUeSeenClear m t => masterOk m && decide (t < 128)
  | .txStart m t _ => masterOk m && decide (t < 128)
  | .txHaltReq m t => masterOk m && decide (t < 128)
  | .txDinvGo m t _ _ => masterOk m && decide (t < 128)
  | .tvAbortedClear m t => masterOk m && decide (t < 128)
  | .trSheetsFree m t _ => masterOk m && decide (t < 128)
  | .tfCtrlWrite m t _ => masterOk m && decide (t < 128)
  | .tfLogClear m t => masterOk m && decide (t < 128)
  | .hcRepairGo m stack _ _ => masterOk m && decide (stack < 16)
  | .hcClogClear m stack => masterOk m && decide (stack < 16)
  | .hcInjectArm m stack _ _ => masterOk m && decide (stack < 16)
  | .hcUeSeenClear m stack => masterOk m && decide (stack < 16)
  | .mbLetterbox f bag _ => fnOk f && bagOk f bag
  | .mbCfgWrite f bag _ => fnOk f && bagOk f bag
  | .mbTrayHeadWrite f bag _ => fnOk f && bagOk f bag
  | .pairLoRead m _ => masterOk m
  | .atomicFetchAdd m t _ => masterOk m && decide (t < 128)
  | .atomicCompareSwap m t _ => masterOk m && decide (t < 128)
  | .atomicSwap m t _ => masterOk m && decide (t < 128)
  | .fpRetrain m port => masterOk m && decide (port < 32)
  | .fxWakeGo m _ => masterOk m
  | .chOwnerWrite m c _ => masterOk m && decide (c < 256)
  | .chSignal m c => masterOk m && decide (c < 256)
  | .chPendingClear m c => masterOk m && decide (c < 256)
  | .chCfgWrite m c _ => masterOk m && decide (c < 256)
  | .icFilterWrite m input _ => masterOk m && decide (input < 6)
  | .vcCoalWrite f v _ => fnOk f && vecOk f v
  | .msixVectorUnmask f v => fnOk f && vecOk f v
  | .fcCommitGo m _ => masterOk m
  | .flashRead m _ _ => masterOk m
  | .flashProgram m _ _ => masterOk m
  | .flashErase m _ _ => masterOk m
  | .pmFenceGo m => masterOk m
  | .cmTimeoutClear m => masterOk m
  | .registerWrite m _ _ => masterOk m
  | .syResetReqTile m _ => masterOk m
  | .syResetReqPostmaster m _ => masterOk m
  | .syResetReqWarm m => masterOk m
  | .syResetReqCold m => masterOk m
  | .resetCapWarm f => fnOk f
  | .resetCapCold f _ => fnOk f
  | .matrixHangTimeout m => masterOk m
  | .lockAgeLimit _ => true
  | .envelopeFetch => true
  | .sequenceWaitMet p => placeOk p
  | .deliverAtReached p => placeOk p
  | .unsolicitedReceiptFlush f => fnOk f
  | .esendReceiptArrival n _ => decide (n < 1024)
  | .journalCommit => true
  | .envelopeNop p => placeOk p
  | .fpflagsRead p => placeOk p
  | .mbCancel p => placeOk p
  | .bufAlloc p => placeOk p
  | .bufReturn p => placeOk p
  | .bufWrite p => placeOk p
  | .dmaIn p => placeOk p
  | .dmaOut p => placeOk p
  | .segAlloc p => placeOk p
  | .segFree p => placeOk p
  | .tileWrite p => placeOk p
  | .tileRead p => placeOk p
  | .roundLoad p => placeOk p
  | .roundLaunch p => placeOk p
  | .tileVector p => placeOk p
  | .tileStart p => placeOk p
  | .tileStop p => placeOk p
  | .remoteSend p => placeOk p
  | .tenantContract p => placeOk p
  | .tenantReset p => placeOk p
  | .planLoad p => placeOk p
  | .bookLoad p => placeOk p
  | .keyRotate p => placeOk p
  | .keyRotationDone => true
  | .fwUpdate p => placeOk p
  | .fwCommit p => placeOk p
  | .fwHandover p => placeOk p
  | .maintTsRepair p => placeOk p
  | .maintHbmRepair p => placeOk p
  | .maintTileSubstitute p => placeOk p
  | .maintLaneRetrain p => placeOk p
  | .maintTsScrub p => placeOk p
  | .maintHbmScrub p => placeOk p
  | .maintFabricRecord p => placeOk p
  | .maintDumpNow p => placeOk p
  | .maintDumpClear p => placeOk p
  | .dumpRead p => placeOk p
  | .deviceSleep p => placeOk p
  | .dozeEntryComplete => true
  | .wakeCauseLatch _ => true
  | .dozeExit => true
  | .wakeTimer => true
  | .sliceBoundary => true
  | .tileSwitch t => decide (t < 128)
  | .tileAssign t => decide (t < 128)
  | .tileSubstitution t => decide (t < 128)
  | .vfEnable n => decide (n < 1024)
  | .vfDisable n => decide (n < 1024)
  | .vfFlr n => decide (n < 1024)
  | .tenantKeyErase n => decide (n < 1024)
  | .poolRewriteDone => true
  | .pfFlr => true
  | .deviceRingWindow f _ _ => fnOk f
  | .tdiNonTeeRequest n _ _ => decide (n < 1024)
  | .getVersion f => fnOk f
  | .getCapabilities f => fnOk f
  | .negotiateAlgorithms f _ => fnOk f
  | .getDigests f => fnOk f
  | .getCertificate f _ _ _ => fnOk f
  | .challenge f _ => fnOk f
  | .getMeasurements f _ => fnOk f
  | .keyExchange f _ _ => fnOk f
  | .finish f _ => fnOk f
  | .heartbeat f => fnOk f
  | .keyUpdate f => fnOk f
  | .endSession f => fnOk f
  | .chunkSend f _ _ => fnOk f
  | .chunkGet f _ => fnOk f
  | .spdmUnsupportedRequest f _ => fnOk f
  | .spdmHeartbeatTimeout f => fnOk f
  | .getTdispVersion n => decide (n < 1024)
  | .getTdispCapabilities n => decide (n < 1024)
  | .lockInterfaceRequest n stream => decide (n < 1024) && decide (stream < 9)
  | .getDeviceInterfaceReport n => decide (n < 1024)
  | .getDeviceInterfaceState n => decide (n < 1024)
  | .startInterfaceRequest n => decide (n < 1024)
  | .stopInterfaceRequest n => decide (n < 1024)
  | .query stream => decide (stream < 9)
  | .keyProg stream sub _ _ => decide (stream < 9) && decide (sub < 3)
  | .kSetGo stream sub _ => decide (stream < 9) && decide (sub < 3)
  | .kSetStop stream sub _ => decide (stream < 9) && decide (sub < 3)
  | .frameReceive port fr => decide (port < 32) && decide (fr.cells.length = 15) && fr.failing.all (fun l => decide (l < 8))
  | .fseqRetryLimit port => decide (port < 32)
  | .laneDrop port lane => decide (port < 32) && decide (lane < 8)
  | .laneRetrainDone port => decide (port < 32)
  | .rekeyStart port => decide (port < 32)
  | .linkTrained port _ => decide (port < 32)
  | .trainingRetry port => decide (port < 32)
  | .transitLetter port _ => decide (port < 32)
  | .read port _ => decide (port < 32)
  | .readReply port _ => decide (port < 32)
  | .write port _ => decide (port < 32)
  | .writeAck port _ => decide (port < 32)
  | .atomic port _ => decide (port < 32)
  | .atomicReply port _ => decide (port < 32)
  | .envelope port _ => decide (port < 32)
  | .envelopeAck port _ => decide (port < 32)
  | .hello port _ => decide (port < 32)
  | .keyshare port _ => decide (port < 32)
  | .cert port _ => decide (port < 32)
  | .sign port _ => decide (port < 32)
  | .rate port _ => decide (port < 32)
  | .time port _ => decide (port < 32)
  | .timeSend => true
  | .book port _ => decide (port < 32)
  | .bookAck port _ => decide (port < 32)
  | .wake port _ => decide (port < 32)
  | .requestTimeout _ => true
  | .chuteEvent c => decide (c < 256)
  | .interruptGrant e _ => engOk e
  | .poolPresentationTimeout c => decide (c < 256)
  | .msixMessage f v => fnOk f && vecOk f v
  | .inputFilterChange input _ => decide (input < 6)
  | .pmHeartbeat => true
  | .pmFailure _ => true
  | .fatalError _ _ => true
  | .thermalSample die _ => decide (die < 8)
  | .thermalTrip => true
  | .pwrGoodRise => true
  | .pwrGoodFall => true
  | .perstNAssert => true
  | .perstNDeassert => true
  | .pllLossOfLock => true
  | .pcieHotReset => true
  | .bootReady => true
  | .reservedOpcodeWord e _ => engOk e
  | .blockLockLoss port => decide (port < 32)
  | .trainingAttemptFailed port => decide (port < 32)
  | .batchCountLimit port => decide (port < 32)
  | .ideIntegrityFailure n => decide (n < 1024)
  | .flashOperationDone _ => true
  | .fuseCommitDone => true
  | .postmasterBootDone _ => true
  | .hostReadCompletion p _ => placeOk p

end Sys2Proof
end

