-- ==== Sys2Proof/Certificates/Slice0/Obligations.lean ====
section
/-! DEFINITION. The statements about the model, for the provers. -/

open Sys2Proof Sys2Proof.Machine

/-- The commands of the block are taken first in, first out (the model's own rule, log 1): for every command and state, a step with the
command at the front of the queue is that command's meaning on the state with the queue's rest, and a step on an empty queue is one
period of SCLK while the device has power, in which fabric time advances by its rate (R544, R545, R615) and, where no mask was written and
no input changed before, nothing else; and nothing while it has none; a fatal dump under way ends with that period,
and the device fences (R674; that it is this period is the model's choice, log 45). -/
def Obligations.StepRunsFrontCommand : Prop :=
  (∀ (c : Instr) (r : List Instr) (s : State), step { s with pending := c :: r } = exec c { s with pending := r }) ∧
  (∀ (s : State), s.pending = [] →
    (s.sys.phase = .off ∨ s.sys.phase = .held ∨ s.sys.phase = .tripped → step s = .next s) ∧
    (s.sys.phase = .booting ∨ s.sys.phase = .ready → s.sys.dumping = none → (∀ c, (getChute s c).masking = false) →
      (∀ f v, (getVec s f v).masking = false) → (∀ i, i < 6 → (getFilter s i).raw = (getFilter s i).level) →
      twf (fun _ => Vec.reset) s.vecs = true →
      ∃ u, step s = .next u ∧ u = { s with sclk := s.sclk + 1, time := u.time, vecs := u.vecs } ∧ (∀ f v, getVec u f v = getVec s f v) ∧
      u.time.rate = s.time.rate ∧ u.time.ft = s.time.ft + (if s.time.trim = 1 then 17 else if s.time.trim = 2 then 15 else 16) * s.time.rate) ∧
    (∀ d, (s.sys.phase = .booting ∨ s.sys.phase = .ready) → s.sys.fenced = false → s.sys.dumping = some d → ∃ u, step s = .next u ∧ u.sclk = s.sclk + 1 ∧
      u.sys.dumping = none ∧ u.sys.fenced = true))

/-- R50, R100, R168, R191, R333, R402, R552, R718, what a reset leaves: user words of every tile store and every line of HBM in the
unwritten state, system rows zero INT, engines not started at the reset entry with both stacks empty and their spill pointers unset, no
tenant, every chute masked, and every memory of the machine in its canonical form. (That boot is under way and which engine is primary
are the model's start, log 45.) -/
def Obligations.ResetState : Prop :=
  Memory.wf State.reset = true ∧
  ∀ (t w pc r n c : Nat),
    (getTile State.reset t).store.cell w = (if 523776 ≤ w then ⟨0, 1, 0⟩ else ⟨0, 0, BitVec.ofNat 76 (2 ^ 68 + 2 ^ 69)⟩) ∧
    getLine State.reset pc r = HLine.unwritten ∧
    (let x := (getTile State.reset t).eng
     x.runstate = 0 ∧ x.pc = codeWord 0 0x110 ∧ x.ds = [] ∧ x.rs = [] ∧ x.dspill = none ∧ x.rspill = none ∧ x.status = 0 ∧ x.dfault = false ∧
       x.lastCode = 0xFF) ∧
    (getTen State.reset n).st = .disabled ∧ chuteMask (getChute State.reset c) = true ∧ (getChute State.reset c).pending = false

/-- R113, the operations that move words: each leaves the stack, X and Y as its row says, no flag changes, and the next word in line
follows after 2 cycles. Entries are listed with T first. The operands are those of the data stack as it stood before the word, resident
entries that this word spills among them (R97, R106). -/
def Obligations.ShortMoves : Prop :=
  ∀ (e : EngineId) (s s1 : State) (t a b : TWord) (r v : List TWord) (n : BitVec 4) (i9 : BitVec 9),
    (shortReady e .nop s = some (v, s1) → exec (.nop e) s = engNext s1 e (nextWord 2)) ∧
    (shortReady e .dup s = some (t :: r, s1) →
      exec (.dup e) s = engNext s1 e (fun x => nextWord 2 { x with ds := t :: x.ds })) ∧
    (shortReady e .drop s = some (t :: r, s1) →
      exec (.drop e) s = engNext s1 e (fun x => nextWord 2 { x with ds := x.ds.drop 1 })) ∧
    (shortReady e .swap s = some (t :: a :: r, s1) →
      exec (.swap e) s = engNext s1 e (fun x => nextWord 2 { x with ds := a :: t :: x.ds.drop 2 })) ∧
    (shortReady e .over s = some (t :: a :: r, s1) →
      exec (.over e) s = engNext s1 e (fun x => nextWord 2 { x with ds := a :: x.ds })) ∧
    (shortReady e .rot s = some (t :: a :: b :: r, s1) →
      exec (.rot e) s = engNext s1 e (fun x => nextWord 2 { x with ds := b :: t :: a :: x.ds.drop 3 })) ∧
    (shortReady e .nip s = some (t :: a :: r, s1) →
      exec (.nip e) s = engNext s1 e (fun x => nextWord 2 { x with ds := t :: x.ds.drop 2 })) ∧
    (shortReady e (.pick n) s = some (v, s1) → v[n.toNat]? = some t →
      exec (.pick e n) s = engNext s1 e (fun x => nextWord 2 { x with ds := t :: x.ds })) ∧
    (shortReady e (.slit i9) s = some (v, s1) →
      exec (.slit e i9) s = engNext s1 e (fun x => nextWord 2 { x with ds := ⟨i9.signExtend 64, 1⟩ :: x.ds })) ∧
    (shortReady e .fromx s = some (v, s1) →
      exec (.fromx e) s = engNext s1 e (fun x => nextWord 2 { x with ds := ⟨x.x, 1⟩ :: x.ds })) ∧
    (shortReady e .fromy s = some (v, s1) →
      exec (.fromy e) s = engNext s1 e (fun x => nextWord 2 { x with ds := ⟨x.y, 1⟩ :: x.ds })) ∧
    (shortReady e .tox s = some (t :: r, s1) → numeric t →
      exec (.tox e) s = engNext s1 e (fun x => nextWord 2 { x with ds := x.ds.drop 1, x := t.data })) ∧
    (shortReady e .toy s = some (t :: r, s1) → numeric t →
      exec (.toy e) s = engNext s1 e (fun x => nextWord 2 { x with ds := x.ds.drop 1, y := t.data })) ∧
    (shortReady e (.xadd i9) s = some (v, s1) →
      exec (.xadd e i9) s = engNext s1 e (fun x => nextWord 2 { x with x := x.x + i9.signExtend 64 })) ∧
    (shortReady e (.yadd i9) s = some (v, s1) →
      exec (.yadd e i9) s = engNext s1 e (fun x => nextWord 2 { x with y := x.y + i9.signExtend 64 })) ∧
    (shortReady e .tagof s = some (t :: r, s1) →
      exec (.tagof e) s = engNext s1 e (fun x => nextWord 2 { x with ds := ⟨t.tag.setWidth 64, 1⟩ :: x.ds }))

/-- R89, R111, the add class: the result is the sum with INT only when every operand is INT; N and Z come from it, C is the carry out of
bit 63 and V says that the signed sum leaves 64 bits. R89, R111, the subtract class: minuend − subtrahend (SBC borrows one when C is 0);
C is 1 when there is no borrow, V says that the signed difference leaves 64 bits; the compares write the flags alone. -/
def Obligations.AddClasses : Prop :=
  (∀ (e : EngineId) (s s1 : State) (t a : TWord) (r : List TWord) (i9 : BitVec 9) (i24 : BitVec 24),
      let sum (x y : Word) (c : Nat) : Word := x + y + BitVec.ofNat 64 c
      let fl (x y : Word) (c : Nat) : Flags :=
        ⟨(sum x y c).msb, decide (sum x y c = 0), carries x y c, outside64 (x.toInt + y.toInt + c)⟩
      numeric t →
      (shortReady e .add s = some (t :: a :: r, s1) → numeric a →
        exec (.add e) s = engNext s1 e (fun x =>
          nextWord 2 { x with ds := ⟨sum a.data t.data 0, bothInt a t⟩ :: x.ds.drop 2, flags := fl a.data t.data 0 })) ∧
      (shortReady e .adc s = some (t :: a :: r, s1) → numeric a →
        exec (.adc e) s = engNext s1 e (fun x => nextWord 2
          { x with ds := ⟨sum a.data t.data (b2n x.flags.c), bothInt a t⟩ :: x.ds.drop 2, flags := fl a.data t.data (b2n x.flags.c) })) ∧
      (shortReady e (.saddi i9) s = some (t :: r, s1) →
        exec (.saddi e i9) s = engNext s1 e (fun x => nextWord 2
          { x with ds := ⟨sum t.data (i9.signExtend 64) 0, t.tag⟩ :: x.ds.drop 1, flags := fl t.data (i9.signExtend 64) 0 })) ∧
      (longReady e (wspec 0x28 i24.toNat 2 1 1 1) s = some s1 → (getEng s1 e).ds = t :: r →
        exec (.addi e i24) s = engNext s1 e (fun x => nextWord 2
          { x with ds := ⟨sum t.data (i24.signExtend 64) 0, t.tag⟩ :: r, flags := fl t.data (i24.signExtend 64) 0 }))) ∧
  (∀ (e : EngineId) (s s1 : State) (t a : TWord) (r v : List TWord) (i9 : BitVec 9) (i24 : BitVec 24),
      let diff (x y : Word) (borrow : Nat) : Word := x - y - BitVec.ofNat 64 borrow
      let fl (x y : Word) (borrow : Nat) : Flags :=
        ⟨(diff x y borrow).msb, decide (diff x y borrow = 0), decide (y.toNat + borrow ≤ x.toNat),
          outside64 (x.toInt - y.toInt - borrow)⟩
      (shortReady e .sub s = some (t :: a :: r, s1) → numeric t → numeric a →
        exec (.sub e) s = engNext s1 e (fun x =>
          nextWord 2 { x with ds := ⟨diff a.data t.data 0, bothInt a t⟩ :: x.ds.drop 2, flags := fl a.data t.data 0 })) ∧
      (shortReady e .sbc s = some (t :: a :: r, s1) → numeric t → numeric a →
        exec (.sbc e) s = engNext s1 e (fun x => nextWord 2
          { x with ds := ⟨diff a.data t.data (1 - b2n x.flags.c), bothInt a t⟩ :: x.ds.drop 2,
                   flags := fl a.data t.data (1 - b2n x.flags.c) })) ∧
      (shortReady e .neg s = some (t :: r, s1) → numeric t →
        exec (.neg e) s = engNext s1 e (fun x =>
          nextWord 2 { x with ds := ⟨diff 0 t.data 0, t.tag⟩ :: x.ds.drop 1, flags := fl 0 t.data 0 })) ∧
      (shortReady e .cmp s = some (t :: a :: r, s1) → numeric t → numeric a →
        exec (.cmp e) s = engNext s1 e (fun x => nextWord 2 { x with flags := fl a.data t.data 0 })) ∧
      (longReady e (wspec 0x2C i24.toNat 2 1 0 0) s = some s1 → (getEng s1 e).ds = t :: r → numeric t →
        exec (.cmpi e i24) s = engNext s1 e (fun x => nextWord 2 { x with flags := fl t.data (i24.signExtend 64) 0 })) ∧
      (shortReady e (.xcmp i9) s = some (v, s1) →
        exec (.xcmp e i9) s = engNext s1 e (fun x => nextWord 2 { x with flags := fl x.x (i9.signExtend 64) 0 })) ∧
      (shortReady e (.ycmp i9) s = some (v, s1) →
        exec (.ycmp e i9) s = engNext s1 e (fun x => nextWord 2 { x with flags := fl x.y (i9.signExtend 64) 0 })))

/-- R89, R111, the logic class: N and Z from the result, C unchanged, V cleared. R89, R111, R113: CLZ counts the zeros above the highest
one bit, POPC the one bits; the result is INT, N and Z come from it. -/
def Obligations.LogicAndCounts : Prop :=
  (∀ (e : EngineId) (s s1 : State) (t a : TWord) (r : List TWord) (i24 : BitVec 24),
      let fl (v : Word) (f : Flags) : Flags := ⟨v.msb, decide (v = 0), f.c, false⟩
      let put (k : Nat) (v : Word) (tg : Tag) (x : Engine) : Engine :=
        nextWord 2 { x with ds := ⟨v, tg⟩ :: x.ds.drop k, flags := fl v x.flags }
      numeric t →
      (shortReady e .and s = some (t :: a :: r, s1) → numeric a →
        exec (.and e) s = engNext s1 e (put 2 (a.data &&& t.data) (bothInt a t))) ∧
      (shortReady e .or s = some (t :: a :: r, s1) → numeric a →
        exec (.or e) s = engNext s1 e (put 2 (a.data ||| t.data) (bothInt a t))) ∧
      (shortReady e .xor s = some (t :: a :: r, s1) → numeric a →
        exec (.xor e) s = engNext s1 e (put 2 (a.data ^^^ t.data) (bothInt a t))) ∧
      (shortReady e .not s = some (t :: r, s1) → exec (.not e) s = engNext s1 e (put 1 (~~~ t.data) t.tag)) ∧
      (shortReady e .tst s = some (t :: r, s1) →
        exec (.tst e) s = engNext s1 e (fun x => nextWord 2 { x with flags := fl t.data x.flags })) ∧
      (longReady e (wspec 0x29 i24.toNat 2 1 1 1) s = some s1 → (getEng s1 e).ds = t :: r →
        exec (.andi e i24) s = engNext s1 e (put 1 (t.data &&& i24.signExtend 64) t.tag)) ∧
      (longReady e (wspec 0x2A i24.toNat 2 1 1 1) s = some s1 → (getEng s1 e).ds = t :: r →
        exec (.ori e i24) s = engNext s1 e (put 1 (t.data ||| i24.signExtend 64) t.tag)) ∧
      (longReady e (wspec 0x2B i24.toNat 2 1 1 1) s = some s1 → (getEng s1 e).ds = t :: r →
        exec (.xori e i24) s = engNext s1 e (put 1 (t.data ^^^ i24.signExtend 64) t.tag))) ∧
  (∀ (e : EngineId) (s s1 : State) (t : TWord) (r : List TWord), numeric t →
      let put (n : Nat) (x : Engine) : Engine :=
        nextWord 2 { x with ds := ⟨BitVec.ofNat 64 n, 1⟩ :: x.ds.drop 1, flags := ⟨false, decide (n = 0), x.flags.c, x.flags.v⟩ }
      (shortReady e .clz s = some (t :: r, s1) → ∃ n, n ≤ 64 ∧ (∀ i, 64 - n ≤ i → t.data.getLsbD i = false) ∧
        (n < 64 → t.data.getLsbD (63 - n) = true) ∧ exec (.clz e) s = engNext s1 e (put n)) ∧
      (shortReady e .popc s = some (t :: r, s1) →
        exec (.popc e) s = engNext s1 e (put ((List.range 64).countP (fun i => t.data.getLsbD i)))))

/-- R111, R116, the shift class: bit i of the result is the bit that the shift brings there, N and Z come from the result, C is the last
bit shifted out and unchanged for a count of 0, V is unchanged, and T keeps its tag. -/
def Obligations.ShiftClass : Prop :=
  ∀ (e : EngineId) (s s1 : State) (t : TWord) (r : List TWord) (n : BitVec 6) (k : ShKind), numeric t →
    let k' : ShortOp := match k with | .shl => .shl n | .shr => .shr n | .sar => .sar n | .rol => .rol n
    let c' : Instr := match k with | .shl => .shl e n | .shr => .shr e n | .sar => .sar e n | .rol => .rol e n
    shortReady e k' s = some (t :: r, s1) →
    ∃ v : Word,
      exec c' s = engNext s1 e (fun x => nextWord 2 { x with
        ds := ⟨v, t.tag⟩ :: x.ds.drop 1,
        flags := ⟨v.msb, decide (v = 0),
          if n = 0 then x.flags.c else
            match k with
            | .shl => t.data.getLsbD (64 - n.toNat)
            | .shr => t.data.getLsbD (n.toNat - 1)
            | .sar => t.data.getLsbD (n.toNat - 1)
            | .rol => v.getLsbD 0,
          x.flags.v⟩ }) ∧
      (∀ i, i < 64 → v.getLsbD i =
        match k with
        | .shl => decide (n.toNat ≤ i) && t.data.getLsbD (i - n.toNat)
        | .shr => t.data.getLsbD (i + n.toNat)
        | .sar => if i + n.toNat < 64 then t.data.getLsbD (i + n.toNat) else t.data.getLsbD 63
        | .rol => t.data.getLsbD ((i + 64 - n.toNat) % 64))

/-- R114: TOINT, TORAW and TOFLT change the tag of an INT, RAW or FLT word and nothing else; any other tag is F_TAG, whose detail has
RULE 0xB, the found tag and operand 0. R94, R113, R115: AOFF and ASEG give the OFFSET and SEG of an ADDR as INT; ADIFF the signed
difference of two offsets of one segment, and F_SEGMENT with KIND 0x5 and the ADDR at T for two segments. -/
def Obligations.RetagsAndParts : Prop :=
  (∀ (e : EngineId) (s s1 : State) (t : TWord) (r : List TWord) (k : Fin 3),
      let o : ShortOp := match k with | 0 => .toint | 1 => .toraw | 2 => .toflt
      let c : Instr := match k with | 0 => .toint e | 1 => .toraw e | 2 => .toflt e
      let tg : Tag := match k with | 0 => 1 | 1 => 0 | 2 => 2
      shortReady e o s = some (t :: r, s1) →
      (t.tag.toNat ≤ 2 → exec c s = engNext s1 e (fun x => nextWord 2 { x with ds := ⟨t.data, tg⟩ :: x.ds.drop 1 })) ∧
      (2 < t.tag.toNat → exec c s = .next (syncFault e
        ⟨4, 1, BitVec.ofNat 64 (shortMinor o * 2 ^ 18 + 2 ^ 16 + t.tag.toNat * 2 ^ 12 + 0xB)⟩ s1))) ∧
  (∀ (e : EngineId) (s s1 : State) (a b : TWord) (r : List TWord), a.tag = 3 →
      (shortReady e .aoff s = some (a :: r, s1) →
        exec (.aoff e) s = engNext s1 e (fun x => nextWord 2 { x with ds := ⟨a.data &&& BitVec.ofNat 64 (2 ^ 48 - 1), 1⟩ :: x.ds.drop 1 })) ∧
      (shortReady e .aseg s = some (a :: r, s1) →
        exec (.aseg e) s = engNext s1 e (fun x => nextWord 2 { x with ds := ⟨a.data >>> 52, 1⟩ :: x.ds.drop 1 })) ∧
      (shortReady e .adiff s = some (a :: b :: r, s1) → b.tag = 3 →
        exec (.adiff e) s =
          if b.data >>> 52 = a.data >>> 52 then
            engNext s1 e (fun x => nextWord 3 { x with ds := ⟨BitVec.ofInt 64 ((codeOff b.data : Int) - codeOff a.data), 1⟩ :: x.ds.drop 2 })
          else .next (syncFault e ⟨7, 1, (a.data &&& ~~~ BitVec.ofNat 64 (15 * 2 ^ 48)) ||| BitVec.ofNat 64 (5 * 2 ^ 48)⟩ s1)))

/-- R94: AADD, AADDI and SEGREF form an ADDR whose offset lies from 0 to one byte past the segment's last; outside that range, or for a
segment that grants nothing, they fault F_SEGMENT with KIND 0x5 and the low 48 bits of the computed offset. Stated for a segment whose
descriptor is in the descriptor cache, where it becomes the most recently used (R160). -/
def Obligations.AddrArithmetic : Prop :=
  ∀ (e : EngineId) (s s1 : State) (t a : TWord) (r : List TWord) (seg : BitVec 12) (o12 : BitVec 12) (i24 : BitVec 24) (d : Desc),
    (getEng s1 e).dcache.find? (fun p => p.1 == seg) = some (seg, d) →
    let used (x : Engine) : Engine := { x with dcache := cachePut seg d x.dcache }
    let ok (o : Int) : Prop := grants d = true ∧ 0 ≤ o ∧ o ≤ d.limit.toNat + 1
    let put (n : Nat) (o : Int) (k : Nat) (x : Engine) : Engine :=
      nextWord n { used x with ds := ⟨BitVec.ofNat 64 (seg.toNat * 2 ^ 52 + o.toNat), 3⟩ :: x.ds.drop k }
    let bad (h : BitVec 2) (o : Int) : Host.Outcome State Fault Refusal :=
      .next (syncFault e ⟨7, h, BitVec.ofNat 64 (seg.toNat * 2 ^ 52 + 5 * 2 ^ 48 + (o % 2 ^ 48).toNat)⟩ (updEng s1 e used))
    (shortReady e .aadd s = some (t :: a :: r, s1) → numeric t → a.tag = 3 → codeSeg a.data = seg →
      (ok (codeOff a.data + t.data.toInt) → exec (.aadd e) s = engNext s1 e (put 3 (codeOff a.data + t.data.toInt) 2)) ∧
      (¬ ok (codeOff a.data + t.data.toInt) → exec (.aadd e) s = bad 1 (codeOff a.data + t.data.toInt))) ∧
    (longReady e (wspec 0x05 i24.toNat 3 1 1 1) s = some s1 → (getEng s1 e).ds = a :: r → a.tag = 3 → codeSeg a.data = seg →
      (ok (codeOff a.data + i24.toInt) → exec (.aaddi e i24) s = engNext s1 e (put 3 (codeOff a.data + i24.toInt) 1)) ∧
      (¬ ok (codeOff a.data + i24.toInt) → exec (.aaddi e i24) s = bad 0 (codeOff a.data + i24.toInt))) ∧
    (longReady e (wspec 0x04 (seg.toNat * 4096 + o12.toNat) 4 0 0 1) s = some s1 →
      (ok (8 * o12.toNat) → exec (.segref e seg o12) s = engNext s1 e (put 4 (8 * o12.toNat) 0)) ∧
      (¬ ok (8 * o12.toNat) → exec (.segref e seg o12) s = bad 0 (8 * o12.toNat)))

/-- R121, R122: DSET lays out D, P = 0 and Q = N and says in V whether D is 0; DSTEP shifts the carry of Q into P, subtracts D when that
is possible, and C is the quotient bit. R123: a run of one DSET and 64 DSTEP words, each of which acts, leaves the quotient in T and the
remainder in S1; a divisor of 0 leaves all ones and the dividend. -/
def Obligations.DivideRun : Prop :=
  (∀ (e : EngineId) (s s1 : State) (q p d : TWord) (r : List TWord), numeric q → numeric p → numeric d →
      (shortReady e .dset s = some (d :: q :: r, s1) →
        exec (.dset e) s = engNext s1 e (fun x => nextWord 3 { x with
          ds := ⟨q.data, bothInt q d⟩ :: ⟨0, bothInt q d⟩ :: ⟨d.data, bothInt q d⟩ :: x.ds.drop 2,
          flags := ⟨x.flags.n, x.flags.z, x.flags.c, decide (d.data = 0)⟩ })) ∧
      (shortReady e .dstep s = some (q :: p :: d :: r, s1) →
        let w := 2 * p.data.toNat + q.data.toNat / 2 ^ 63
        let b := decide (d.data.toNat ≤ w)
        let tg : Tag := if q.tag = 1 ∧ p.tag = 1 ∧ d.tag = 1 then 1 else 0
        exec (.dstep e) s = engNext s1 e (fun x => nextWord 2 { x with
          ds := ⟨BitVec.ofNat 64 (2 * q.data.toNat + b2n b), tg⟩ :: ⟨BitVec.ofNat 64 (if b then w - d.data.toNat else w), tg⟩ :: d :: x.ds.drop 3,
          flags := ⟨x.flags.n, x.flags.z, b, x.flags.v⟩ }))) ∧
  (∀ (e : EngineId) (f : Nat → State) (n d : TWord) (r : List TWord), numeric n → numeric d →
      (getEng (f 0) e).ds = d :: n :: r → r.length ≤ 12 →
      (∃ g, shortReady e .dset (f 0) = some g ∧ exec (.dset e) (f 0) = .next (f 1)) →
      (∀ i, i < 64 → ∃ g, shortReady e .dstep (f (i + 1)) = some g ∧ exec (.dstep e) (f (i + 1)) = .next (f (i + 2))) →
      ∃ tg : Tag, ∃ q m : Word, ∃ v : TWord, (getEng (f 65) e).ds = ⟨q, tg⟩ :: ⟨m, tg⟩ :: v :: r ∧ v.data = d.data ∧
        (d.data ≠ 0 → q.toNat = n.data.toNat / d.data.toNat ∧ m.toNat = n.data.toNat % d.data.toNat) ∧
        (d.data = 0 → q = BitVec.allOnes 64 ∧ m = n.data))

/-- R106 to R110, the pair word: every check of half A is made before any of half B, both read the state before the word, A's writes are
applied and then B's, and the word takes the larger of the two cycle counts. A half that fails a check writes nothing and its fault names
it. -/
def Obligations.PairWord : Prop :=
  ∀ (e : EngineId) (a b : ShortOp) (s s1 : State) (v : List TWord), pairReady e a b s = some (v, s1) →
    (∀ f s2, (halfA (ctxA e a b) v a).run s1 = .error f s2 → exec (.instructionPair e a b) s = .next (syncFault e f s2)) ∧
    (∀ ra s2, (halfA (ctxA e a b) v a).run s1 = .ok ra s2 →
      let n := v.length
      ((n < (shortUse b).1 ∨ n + (shortUse a).2.2 < (shortUse a).2.1 + (shortUse b).2.1) →
        exec (.instructionPair e a b) s = .next (syncFault e ⟨3, 2, 0⟩ s2)) ∧
      (¬ (n < (shortUse b).1 ∨ n + (shortUse a).2.2 < (shortUse a).2.1 + (shortUse b).2.1) →
        (∀ f s3, (shortEval (ctxB e a b) v b).run s2 = .error f s3 → exec (.instructionPair e a b) s = .next (syncFault e f s3)) ∧
        (∀ rb s3, (shortEval (ctxB e a b) v b).run s2 = .ok rb s3 →
          exec (.instructionPair e a b) s = engNext s3 e (fun x =>
            let xa : Engine := { x with
              ds := ra.push.reverse ++ x.ds.drop ra.pops, x := ra.x.getD x.x, y := ra.y.getD x.y,
              flags := ⟨ra.fl.n.getD x.flags.n, ra.fl.z.getD x.flags.z, ra.fl.c.getD x.flags.c, ra.fl.v.getD x.flags.v⟩ }
            nextWord (max (shortCycles a) (shortCycles b)) { xa with
              ds := rb.push.reverse ++ xa.ds.drop rb.pops, x := rb.x.getD xa.x, y := rb.y.getD xa.y,
              flags := ⟨rb.fl.n.getD xa.flags.n, rb.fl.z.getD xa.flags.z, rb.fl.c.getD xa.flags.c,
                rb.fl.v.getD xa.flags.v⟩ }))))

/-- R89, R111, R112, literals and multiplies: LIT, LITR and LITS push what their rows say; MUL, MULHU and MULHS replace S1 and T by the
low or high 64 bits of their product in 12 cycles, with the result-only flags. -/
def Obligations.LiteralsAndMultiplies : Prop :=
  ∀ (e : EngineId) (s s1 : State) (t a : TWord) (r : List TWord) (i : BitVec 24), numeric t → numeric a →
    let product (v : Word) (x : Engine) : Engine := nextWord 12
      { x with ds := ⟨v, bothInt a t⟩ :: r, flags := ⟨v.msb, decide (v = 0), x.flags.c, x.flags.v⟩ }
    (longReady e (wspec 0x01 i.toNat 2 0 0 1) s = some s1 →
      exec (.lit e i) s = engNext s1 e (fun x => nextWord 2 { x with ds := ⟨i.signExtend 64, 1⟩ :: x.ds })) ∧
    (longReady e (wspec 0x02 i.toNat 2 0 0 1) s = some s1 →
      exec (.litr e i) s = engNext s1 e (fun x => nextWord 2 { x with ds := ⟨i.setWidth 64, 0⟩ :: x.ds })) ∧
    (longReady e (wspec 0x03 i.toNat 2 1 1 1) s = some s1 → (getEng s1 e).ds = t :: r →
      exec (.lits e i) s = engNext s1 e (fun x => nextWord 2
        { x with ds := ⟨BitVec.ofNat 64 (t.data.toNat * 2 ^ 24 + i.toNat), t.tag⟩ :: r })) ∧
    (longReady e (wspec 0x30 0 12 2 2 1) s = some s1 → (getEng s1 e).ds = t :: a :: r →
      exec (.mul e) s = engNext s1 e (product (BitVec.ofNat 64 (a.data.toNat * t.data.toNat)))) ∧
    (longReady e (wspec 0x31 0 12 2 2 1) s = some s1 → (getEng s1 e).ds = t :: a :: r →
      exec (.mulhu e) s = engNext s1 e (product (BitVec.ofNat 64 (a.data.toNat * t.data.toNat / 2 ^ 64)))) ∧
    (longReady e (wspec 0x32 0 12 2 2 1) s = some s1 → (getEng s1 e).ds = t :: a :: r →
      exec (.mulhs e) s = engNext s1 e (product (BitVec.ofInt 64 ((a.data.toInt * t.data.toInt).fdiv (2 ^ 64)))))

/-- R117 to R120, the bit fields and the byte permute, bit by bit and byte by byte: a field of w bits from POS is brought to bit 0 and
zero- or sign-extended; an inserted field replaces bits POS to POS + w − 1; BPERM takes byte j of S1, or byte j − 8 of S2, for nibble j.
A control word with another bit set, INS with S = 1, and BPERM with a control word above 32 bits fault F_RANGE; INSI with S = 1 is
F_ILLEGAL. -/
def Obligations.BitFields : Prop :=
  ∀ (e : EngineId) (s s1 : State) (t a b : TWord) (r : List TWord) (sx : Bool) (pos wm1 : BitVec 6), numeric t → numeric a → numeric b →
    let put (n : Nat) (v : Word) (tg : Tag) (x : Engine) : Engine := nextWord n
      { x with ds := ⟨v, tg⟩ :: r, flags := ⟨v.msb, decide (v = 0), x.flags.c, x.flags.v⟩ }
    let three : Tag := if a.tag = 1 ∧ b.tag = 1 ∧ t.tag = 1 then 1 else 0
    let extracted (v : Word) (sx : Bool) (pos w : Nat) (u : Word) : Prop := ∀ i, i < 64 → u.getLsbD i =
      if i < w then v.getLsbD (pos + i) else sx && v.getLsbD (pos + w - 1)
    let inserted (d f : Word) (pos w : Nat) (u : Word) : Prop := ∀ i, i < 64 → u.getLsbD i =
      if pos ≤ i ∧ i < pos + w then f.getLsbD (i - pos) else d.getLsbD i
    let cw := t.data.toNat % 64 + 1
    let cp := t.data.toNat / 256 % 64
    let legal : Prop := ∀ i, i < 64 → t.data.getLsbD i = true → i < 6 ∨ (8 ≤ i ∧ i < 14) ∨ i = 16
    (longReady e (wspec 0x38 (bfBits sx pos wm1) 3 1 1 1) s = some s1 → (getEng s1 e).ds = t :: r →
      ∃ u, extracted t.data sx pos.toNat (wm1.toNat + 1) u ∧ exec (.exti e sx pos wm1) s = engNext s1 e (put 3 u t.tag)) ∧
    (longReady e { wspec 0x39 (bfBits false pos wm1) 3 2 2 1 with illegal := fun _ => false } s = some s1 →
      (getEng s1 e).ds = t :: a :: r →
      ∃ u, inserted a.data t.data pos.toNat (wm1.toNat + 1) u ∧
        exec (.insi e false pos wm1) s = engNext s1 e (put 3 u (bothInt a t))) ∧
    (longReady e (wspec 0x3A 0 4 2 2 1) s = some s1 → (getEng s1 e).ds = t :: a :: r →
      (legal → ∃ u, extracted a.data (t.data.getLsbD 16) cp cw u ∧ exec (.ext e) s = engNext s1 e (put 4 u (bothInt a t))) ∧
      (¬ legal → exec (.ext e) s = .next (syncFault e ⟨5, 0, t.data⟩ s1))) ∧
    (longReady e (wspec 0x3B 0 4 3 3 1) s = some s1 → (getEng s1 e).ds = t :: a :: b :: r →
      (legal → t.data.getLsbD 16 = false →
        ∃ u, inserted b.data a.data cp cw u ∧ exec (.ins e) s = engNext s1 e (put 4 u three)) ∧
      (¬ legal ∨ t.data.getLsbD 16 = true → exec (.ins e) s = .next (syncFault e ⟨5, 0, t.data⟩ s1))) ∧
    (longReady e (wspec 0x3C 0 4 3 3 1) s = some s1 → (getEng s1 e).ds = t :: a :: b :: r →
      (t.data.toNat < 2 ^ 32 → ∃ u : Word,
        (∀ k, k < 8 → let j := t.data.toNat / 16 ^ k % 16
          u.toNat / 256 ^ k % 256 = if j < 8 then a.data.toNat / 256 ^ j % 256 else b.data.toNat / 256 ^ (j - 8) % 256) ∧
        exec (.bperm e) s = engNext s1 e (put 4 u three)) ∧
      (2 ^ 32 ≤ t.data.toNat → exec (.bperm e) s = .next (syncFault e ⟨5, 0, t.data⟩ s1)))

/-- R99, R718, the special registers: RDSR pushes what its selector names, as INT but for the spill pointers, which are ADDR and read as
offset 0 of segment 0 while unset; WRSR writes X, Y and FLAGS from T. R98: WRSR of DSPILL or RSPILL takes an ADDR whose segment is in the
tile store, is readable and writable and whose offset is 64-byte aligned, while the stack's spill area is empty; the checks are made in
that order and the pointer is otherwise unchanged. Stated for a segment whose descriptor is in the cache. -/
def Obligations.SpecialRegisters : Prop :=
  (∀ (e : EngineId) (s s1 : State) (t : TWord) (r : List TWord) (sel : BitVec 8),
      let rspec : WordSpec := { wspec 0x20 sel.toNat 2 0 0 1 with illegal := fun _ => decide (0x0C ≤ sel.toNat) }
      let wsp : WordSpec := { wspec 0x21 sel.toNat 3 1 1 0 with illegal := fun _ => !writable sel.toNat }
      (longReady e rspec s = some s1 →
        ∃ v : TWord, exec (.rdsr e sel) s = engNext s1 e (fun x => nextWord 2 { x with ds := v :: x.ds }) ∧
          let x := getEng s1 e
          v.tag = (if sel = 6 ∨ sel = 7 then 3 else 1) ∧
          (sel = 0 → v.data = x.x) ∧ (sel = 1 → v.data = x.y) ∧
          (sel = 2 → v.data = BitVec.ofNat 64 (8 * b2n x.flags.n + 4 * b2n x.flags.z + 2 * b2n x.flags.c + b2n x.flags.v)) ∧
          (sel = 3 → v.data = x.status.setWidth 64) ∧
          (sel = 4 → v.data = BitVec.ofNat 64 (x.ds.length + x.dSpilled)) ∧
          (sel = 5 → v.data = BitVec.ofNat 64 (x.rs.length + x.rSpilled)) ∧
          (sel = 6 → v.data = x.dspill.getD 0) ∧ (sel = 7 → v.data = x.rspill.getD 0) ∧
          (sel = 8 → v.data = BitVec.ofNat 64 (s1.time.ft / 2 ^ 36)) ∧ (sel = 9 → v.data = x.cycles) ∧
          (sel = 10 → ∀ i, i < 64 → v.data.getLsbD i =
            match e with
            | .tile t => (getTile s1 t).units.any (fun u => u.id.toNat == i)
            | _ => false) ∧
          (sel = 11 → v.data = BitVec.ofNat 64 (b2n (privOf e) + 2 * b2n x.resume + 4 * b2n x.isSealed + 8 * b2n x.dfault))) ∧
      (longReady e wsp s = some s1 → (getEng s1 e).ds = t :: r → numeric t →
        (sel = 0 → exec (.wrsr e sel) s = engNext s1 e (fun x => nextWord 3 { x with ds := r, x := t.data })) ∧
        (sel = 1 → exec (.wrsr e sel) s = engNext s1 e (fun x => nextWord 3 { x with ds := r, y := t.data })) ∧
        (sel = 2 → exec (.wrsr e sel) s = engNext s1 e (fun x => nextWord 3
          { x with ds := r, flags := ⟨t.data.getLsbD 3, t.data.getLsbD 2, t.data.getLsbD 1, t.data.getLsbD 0⟩ })))) ∧
  (∀ (e : EngineId) (s s1 : State) (t : TWord) (r : List TWord) (ret : Bool) (d : Desc),
      let sel : BitVec 8 := if ret then 7 else 6
      let seg := codeSeg t.data
      let off := codeOff t.data
      let put (x : Engine) : Engine := if ret then { x with rspill := some t.data } else { x with dspill := some t.data }
      let rep : Word := BitVec.ofNat 64 (seg.toNat * 2 ^ 52 + 3 * 2 ^ 48 + off)
      let s2 := updEng s1 e (touch seg d)
      longReady e { wspec 0x21 sel.toNat 3 1 1 0 with illegal := fun _ => !writable sel.toNat } s = some s1 →
      (getEng s1 e).ds = t :: r → (getEng s1 e).dcache.find? (fun p => p.1 == seg) = some (seg, d) → grants d = true →
      (t.tag ≠ 3 → exec (.wrsr e sel) s =
        .next (syncFault e ⟨4, 0, BitVec.ofNat 64 (0x21 * 2 ^ 18 + t.tag.toNat * 2 ^ 12 + 2)⟩ s1)) ∧
      (t.tag = 3 →
        (¬ (d.space = 0 ∧ d.r = true ∧ d.w = true) → exec (.wrsr e sel) s = .next (syncFault e ⟨7, 0, rep⟩ s2)) ∧
        (d.space = 0 → d.r = true → d.w = true →
          (off % 64 ≠ 0 → exec (.wrsr e sel) s = .next (syncFault e ⟨6, 0, rep⟩ s2)) ∧
          (off % 64 = 0 →
            let held := if ret then (getEng s1 e).rSpilled else (getEng s1 e).dSpilled
            (0 < held → exec (.wrsr e sel) s = .next (syncFault e ⟨3, 0, if ret then 5 else 4⟩ s2)) ∧
            (held = 0 → exec (.wrsr e sel) s = engNext s2 e (fun x => nextWord 3 (put { x with ds := r })))))))

/-- R75 to R79, R90, R91, R104, R112, R158, R164, the loads of the tile store: the M address is X, or the sum Y + 8 × IMM, which does not wrap, and LDA's is ADDR a +
8 × IMM; a word still in the store buffer is forwarded; the tag is carried unchanged; LDX and LDY take INT or RAW. An aligned word is
stated here. R75 to R78: an unaligned load of 8 bytes reads the two words that hold them, each INT, RAW or FLT, takes 2 more cycles and
gives RAW. Stated for LD, with neither word in the store buffer. -/
def Obligations.Loads : Prop :=
  (∀ (e : EngineId) (s s1 t : State) (m : MForm) (i : BitVec 24) (a v : TWord) (r : List TWord) (d : Desc),
      let off := mOff m (getEng s1 e)
      let offA := (BitVec.ofNat 64 (a.data.toNat % 2 ^ 48) + 8 * i.signExtend 64).toNat
      let sees (seg : BitVec 12) (o : Nat) (t : State) : Prop :=
        let w := (d.base.toNat + o) / 8
        let t1 := updEng s1 e (touch seg d)
        reaches s1 e (fun d => d.r) seg o 8 d ∧ o % 8 = 0 ∧
          ((forwarded (getEng s1 e) w = some v ∧ t = t1) ∨
            (forwarded (getEng s1 e) w = none ∧ soundWord s1 e w = some v ∧ t = bankWaited e (w / 32768) t1))
      deliverable e v.tag →
      (longReady e (mspec 0x10 m 4 0 0 1) s = some s1 → sees m.seg off t →
        exec (.ld e m) s = engNext t e (fun x => nextWord 4 { x with ds := v :: x.ds })) ∧
      (longReady e (mspec 0x12 m 4 0 0 0) s = some s1 → sees m.seg off t → numeric v →
        exec (.ldx e m) s = engNext t e (fun x => nextWord 4 { x with x := v.data })) ∧
      (longReady e (mspec 0x13 m 4 0 0 0) s = some s1 → sees m.seg off t → numeric v →
        exec (.ldy e m) s = engNext t e (fun x => nextWord 4 { x with y := v.data })) ∧
      (longReady e (wspec 0x16 i.toNat 5 1 1 1) s = some s1 → (getEng s1 e).ds = a :: r → a.tag = 3 → sees (codeSeg a.data) offA t →
        exec (.lda e i) s = engNext t e (fun x => nextWord 5 { x with ds := v :: r }))) ∧
  (∀ (e : EngineId) (s s1 : State) (m : MForm) (v1 v2 : TWord) (d : Desc),
      let off := mOff m (getEng s1 e)
      let w := (d.base.toNat + off) / 8
      let k := off % 8
      longReady e (mspec 0x10 m 4 0 0 1) s = some s1 → reaches s1 e (fun d => d.r) m.seg off 8 d → k ≠ 0 → d.base.toNat % 8 = 0 →
      forwarded (getEng s1 e) w = none → forwarded (getEng s1 e) (w + 1) = none →
      soundWord s1 e w = some v1 → soundWord s1 e (w + 1) = some v2 → v1.tag.toNat < 3 → v2.tag.toNat < 3 →
      ∃ (t : State) (u : Word), exec (.ld e m) s = engNext t e (fun x => nextWord 4 { x with ds := ⟨u, 0⟩ :: x.ds }) ∧
        t = updEng (bankWaited e ((w + 1) / 32768) (bankWaited e (w / 32768) (updEng s1 e (touch m.seg d)))) e
          (fun x => { x with cycles := x.cycles + 2 }) ∧
        ∀ j, j < 8 → u.toNat / 256 ^ j % 256 =
          if j + k < 8 then v1.data.toNat / 256 ^ (j + k) % 256 else v2.data.toNat / 256 ^ (j + k - 8) % 256)

/-- R80, R104, R112, R158, R163, the stores: an aligned word enters the store buffer at its address in the store, behind the entries that
wait; with four waiting, the oldest drains first. ST and STA pop what they store; STX and STY store X and Y as INT. No byte of memory
changes but those of the entry that drains. R80, R158: a store at an offset that is not a multiple of 8 is F_ALIGN with KIND 0x2, and a
load from a segment without the read right, or past its LIMIT, is F_SEGMENT with KIND 0x1 and the first byte outside; nothing is loaded
or stored. Stated for ST and LD. R56, R81, R144, R163: STORE_BUFFER_DRAIN writes the oldest entry of the store buffer to its word; every
other word of the store stays, the other entries keep their order, and a fetch line of the written row is discarded. An empty buffer
leaves everything as it is. Stated with no injection armed. -/
def Obligations.Stores : Prop :=
  (∀ (e : EngineId) (s s1 : State) (m : MForm) (i : BitVec 24) (a v : TWord) (r : List TWord) (d : Desc),
      let off := mOff m (getEng s1 e)
      let offA := (BitVec.ofNat 64 (a.data.toNat % 2 ^ 48) + 8 * i.signExtend 64).toNat
      let free (seg : BitVec 12) : State :=
        let t := updEng s1 e (touch seg d)
        match (getEng s1 e).sb with
        | (o, _) :: _ :: _ :: _ :: _ => drainWrite e (bankWaited e (o / 262144) t)
        | _ => t
      let room (seg : BitVec 12) (o : Nat) : Prop := reaches s1 e (fun d => d.w) seg o 8 d ∧ o % 8 = 0
      (longReady e (mspec 0x11 m 3 1 1 0) s = some s1 → (getEng s1 e).ds = v :: r → room m.seg off →
        exec (.st e m) s = engNext (free m.seg) e (fun x => nextWord 3 { x with sb := x.sb ++ [(d.base.toNat + off, v)], ds := r })) ∧
      (longReady e (mspec 0x14 m 3 0 0 0) s = some s1 → room m.seg off →
        exec (.stx e m) s =
          engNext (free m.seg) e (fun x => nextWord 3 { x with sb := x.sb ++ [(d.base.toNat + off, ⟨x.x, 1⟩)] })) ∧
      (longReady e (mspec 0x15 m 3 0 0 0) s = some s1 → room m.seg off →
        exec (.sty e m) s =
          engNext (free m.seg) e (fun x => nextWord 3 { x with sb := x.sb ++ [(d.base.toNat + off, ⟨x.y, 1⟩)] })) ∧
      (longReady e (wspec 0x17 i.toNat 4 2 2 0) s = some s1 → (getEng s1 e).ds = a :: v :: r → a.tag = 3 →
        room (codeSeg a.data) offA →
        exec (.sta e i) s = engNext (free (codeSeg a.data)) e (fun x =>
          nextWord 4 { x with sb := x.sb ++ [(d.base.toNat + offA, v)], ds := r }))) ∧
  (∀ (e : EngineId) (s s1 : State) (m : MForm) (d : Desc) (v : TWord) (r : List TWord),
      let off := mOff m (getEng s1 e)
      let rep (kind o : Nat) : Word := BitVec.ofNat 64 (m.seg.toNat * 2 ^ 52 + kind * 2 ^ 48 + o % 2 ^ 48)
      let s2 := updEng s1 e (touch m.seg d)
      (longReady e (mspec 0x11 m 3 1 1 0) s = some s1 → (getEng s1 e).ds = v :: r → off % 8 ≠ 0 →
        exec (.st e m) s = .next (syncFault e ⟨6, 0, rep 2 off⟩ s1)) ∧
      (longReady e (mspec 0x10 m 4 0 0 1) s = some s1 →
        (getEng s1 e).dcache.find? (fun p => p.1 == m.seg) = some (m.seg, d) → grants d = true →
        (d.r = false → exec (.ld e m) s = .next (syncFault e ⟨7, 0, rep 1 off⟩ s2)) ∧
        (d.r = true → d.limit.toNat < off + 7 →
          exec (.ld e m) s = .next (syncFault e ⟨7, 0, rep 1 (max off (d.limit.toNat + 1))⟩ s2)))) ∧
  (∀ (t : Nat) (s : State), t < nTiles s → bit ((getTile s t).reg 0x0F8) 31 = false →
      ((getTile s t).eng.sb = [] → exec (.storeBufferDrain (.tile t)) s = .next s) ∧
      (∀ a v r, (getTile s t).eng.sb = (a, v) :: r →
        ∃ u, exec (.storeBufferDrain (.tile t)) s = .next u ∧
          getTile u t = { getTile s t with
            eng := { (getTile s t).eng with
              sb := r, lines := (getTile s t).eng.lines.filter (fun l => l.row != a / 256), known := (getTile u t).eng.known },
            store := (getTile u t).store,
            writeBacks := dropAll (getTile s t).writeBacks (a / 8),
            bankPtr := (getTile u t).bankPtr, conflicts := (getTile u t).conflicts, conflictWrap := (getTile u t).conflictWrap } ∧
          (getTile u t).store.cell (a / 8) = ⟨v.data, v.tag, 0⟩ ∧
          (∀ w, w ≠ a / 8 → (getTile u t).store.cell w = (getTile s t).store.cell w) ∧
          (∀ p, p ≠ physOf s t → getP u p = getP s p) ∧ u = { s with tiles := u.tiles, free := u.free }))

/-- R124, R126: MOVW and FILLW that start with X = 0 pop their two operands and complete in 4 cycles, no word moving. Stated with an
empty store buffer. R125, R127: one step of FILLW under way with X = n > 0. The value goes to offset 8 × (n − 1) of the destination (DIR
= 0), or to the destination's own offset, which then advances by 8 (DIR = 1); X falls by one; with the last word the operands are popped
and the word completes, otherwise it stays at the PC. MOVW moves the source's word the same way, and with DIR = 1 its source ADDR
advances too. Every other word of the store stays. Stated for a destination (and source) in the tile store whose descriptors are cached,
an empty store buffer and no injection armed. -/
def Obligations.BlockOperations : Prop :=
  (∀ (e : EngineId) (s s1 : State) (a b : TWord) (r : List TWord) (dir move : Bool),
      let op := if move then 0x40 else 0x41
      let c : Instr := if move then .movw e dir else .fillw e dir
      longReady e (wspec op (b2n dir) 4 2 2 0) s = some s1 → (getEng s e).mid = false → (getEng s1 e).sb = [] →
      (getEng s1 e).ds = a :: b :: r → a.tag = 3 → (move = true → b.tag = 3) → (getEng s1 e).x = 0 →
      exec c s = engNext s1 e (fun x => nextWord 4 { x with ds := r })) ∧
  (∀ (t : Nat) (s : State) (a b v : TWord) (r : List TWord) (dir move : Bool) (dd sd : Desc),
      let e : EngineId := .tile t
      let x := (getTile s t).eng
      let n := x.x.toNat
      let k := if dir then 0 else 8 * (n - 1)
      let c : Instr := if move then .movw e dir else .fillw e dir
      let adv (p : TWord) : TWord := ⟨BitVec.ofNat 64 ((codeSeg p.data).toNat * 2 ^ 52 + (codeOff p.data + 8) % 2 ^ 48), p.tag⟩
      t < nTiles s → runnable s e = true → x.mid = true → x.ds = a :: b :: r → a.tag = 3 → 0 < n → x.sb = [] → x.dcache.length ≤ 64 →
      bit ((getTile s t).reg 0x0F8) 31 = false → codeOff a.data % 8 = 0 → dd.base.toNat % 8 = 0 →
      (move = true → b.tag = 3 ∧ codeOff b.data % 8 = 0 ∧ reaches s e (fun d => d.r) (codeSeg b.data) (codeOff b.data) (8 * n) sd ∧
        soundWord s e ((sd.base.toNat + codeOff b.data + k) / 8) = some v ∧ deliverable e v.tag) →
      (move = false → v = b) →
      reaches s e (fun d => d.w) (codeSeg a.data) (codeOff a.data) (8 * n) dd →
      ∃ u, exec c s = .next u ∧
        (getTile u t).store.cell ((dd.base.toNat + codeOff a.data + k) / 8) = ⟨v.data, v.tag, 0⟩ ∧
        (∀ w, w ≠ (dd.base.toNat + codeOff a.data + k) / 8 → (getTile u t).store.cell w = (getTile s t).store.cell w) ∧
        (getTile u t).eng.x = x.x - 1 ∧ (getTile u t).eng.sb = [] ∧
        (n = 1 → (getTile u t).eng.ds = r ∧ (getTile u t).eng.pc = x.npc ∧ (getTile u t).eng.mid = false) ∧
        (1 < n → (getTile u t).eng.pc = x.pc ∧ (getTile u t).eng.mid = true ∧
          (getTile u t).eng.ds = (if dir then adv a :: (if move then adv b else b) :: r else a :: b :: r)) ∧
        (∀ p, p ≠ physOf s t → getP u p = getP s p) ∧ u.hbm = s.hbm)

/-- R105, R111, R112, R145 to R150, the conditional branches: each takes its target, the branch word's address + 4 × DISP, when its
condition on the flags holds; the delay slot comes next either way, and one with ANNUL set is annulled when the branch is not taken. 2
cycles, 3 when taken; a hint that is wrong stalls two cycles more before the word after the slot, and a hinted target that is not taken has
been fetched. R148: an annulled delay slot is fetched
and decoded and does nothing else: one cycle, and the next word in line follows. Stated for a store, a multiply, a pair and a
special-register write, whose effects do not happen. -/
def Obligations.ConditionalBranches : Prop :=
  (∀ (e : EngineId) (s s1 : State) (f : BrForm) (b : Instr × Nat × (Flags → Bool)),
      let fl := (getEng s1 e).flags
      let table : List (Instr × Nat × (Flags → Bool)) :=
        [(.bz e f, 0x61, fun g => g.z), (.bnz e f, 0x62, fun g => !g.z), (.bn e f, 0x63, fun g => g.n), (.bnn e f, 0x64, fun g => !g.n),
         (.bc e f, 0x65, fun g => g.c), (.bnc e f, 0x66, fun g => !g.c), (.bv e f, 0x67, fun g => g.v), (.bnv e f, 0x68, fun g => !g.v),
         (.bgt e f, 0x69, fun g => !g.z && (g.n == g.v)), (.ble e f, 0x6A, fun g => g.z || (g.n != g.v)),
         (.bge e f, 0x6B, fun g => g.n == g.v), (.blt e f, 0x6C, fun g => g.n != g.v), (.bhi e f, 0x6D, fun g => g.c && !g.z),
         (.bls e f, 0x6E, fun g => !g.c || g.z)]
      b ∈ table → longReady e (wspec b.2.1 (brBits f) 2 0 0 0) s = some s1 →
      exec b.1 s = engNext (if f.hint && !b.2.2 fl then fetchAside e (codeDisp (getEng s1 e).pc f.disp) s1 else s1) e (if b.2.2 fl
        then afterBranch 3 (some (codeDisp (getEng s1 e).pc f.disp)) f.annul (if f.hint then 0 else 2)
        else afterBranch 2 none f.annul (if f.hint then 2 else 0))) ∧
  (∀ (e : EngineId) (s s1 : State) (m : MForm) (a b : ShortOp), engExists s e = true → runnable s e = true →
      let quiet : Engine → Engine := nextWord 1
      (passes (do beginWord (longCtx e (mspec 0x11 m 3 1 1 0)); decodeLong (longCtx e (mspec 0x11 m 3 1 1 0)) (mspec 0x11 m 3 1 1 0)) s =
        some s1 → (getEng s1 e).annulled = true → exec (.st e m) s = engNext s1 e quiet) ∧
      (passes (do beginWord (longCtx e (wspec 0x30 0 12 2 2 1)); decodeLong (longCtx e (wspec 0x30 0 12 2 2 1)) (wspec 0x30 0 12 2 2 1))
        s = some s1 → (getEng s1 e).annulled = true → exec (.mul e) s = engNext s1 e quiet) ∧
      (passes (beginWord (pairCtx e a b)) s = some s1 → (getEng s1 e).annulled = true →
        exec (.instructionPair e a b) s = engNext s1 e quiet))

/-- R112, R146, R147, R150, R153, the other transfers: BR always branches; BXNZ decides on X − 1 and writes it whether or not it
branches; CALL and CALLA push CODE for the word past the delay slot and branch, CALLA to the ADDR at T; RET pops CODE and branches to it,
and a prediction of the shadow return stack that differs has been fetched and stalls two cycles. CALLA is stated for a segment whose descriptor is in the
cache. -/
def Obligations.CallsAndReturns : Prop :=
  ∀ (e : EngineId) (s s1 : State) (f : BrForm) (a : TWord) (r : List TWord) (w : Word) (rr : List Word) (d : Desc),
    let x := getEng s1 e
    let target := codeDisp x.pc f.disp
    let back := codeAdd x.pc 8
    let plain : BrForm := ⟨false, false, f.disp⟩
    (longReady e { wspec 0x60 (brBits plain) 3 0 0 0 with illegal := fun _ => hinted plain } s = some s1 →
      exec (.br e plain) s = engNext s1 e (afterBranch 3 (some target) false 0)) ∧
    (longReady e (wspec 0x6F (brBits f) 2 0 0 0) s = some s1 →
      exec (.bxnz e f) s = engNext (if f.hint && decide (x.x - 1 = 0) then fetchAside e target s1 else s1) e (fun y => (if x.x - 1 ≠ 0
        then afterBranch 3 (some target) f.annul (if f.hint then 0 else 2)
        else afterBranch 2 none f.annul (if f.hint then 2 else 0)) { y with x := y.x - 1 })) ∧
    (longReady e { wspec 0x70 (brBits plain) 4 0 0 0 with illegal := fun _ => hinted plain, use := ⟨0, 0, 0, 0, 1⟩ } s = some s1 →
      exec (.call e plain) s = engNext s1 e (fun y => afterBranch 4 (some target) false 0
        { y with rs := back :: y.rs, shadow := (back :: y.shadow).take 16 })) ∧
    (longReady e { wspec 0x71 0 5 1 1 0 with use := ⟨1, 1, 0, 0, 1⟩ } s = some s1 → x.ds = a :: r → a.tag = 3 →
      x.dcache.find? (fun p => p.1 == codeSeg a.data) = some (codeSeg a.data, d) → codeOff a.data % 4 = 0 →
      exec (.calla e) s = engNext s1 e (fun y => afterBranch 5 (some a.data) false 0
        { touch (codeSeg a.data) d y with ds := r, rs := back :: y.rs, shadow := (back :: y.shadow).take 16 })) ∧
    (longReady e { wspec 0x72 0 4 0 0 0 with use := ⟨0, 0, 0, 1, 0⟩ } s = some s1 → x.rs = w :: rr →
      exec (.ret e) s = engNext (match x.shadow.head? with | some p => if p = w then s1 else fetchAside e p s1 | none => s1) e (fun y => afterBranch 4 (some w) false (if x.shadow.head? = some w then 0 else 2)
        { y with rs := rr, shadow := y.shadow.drop 1 }))

/-- R103, R105, R137, what decode refuses: a branch, a call, a return, TRAP, FRET, SEAL, UNSEAL or HALT in a delay slot, form M with IMM
and no Y, a reserved selector and INSI with S = 1 fault F_ILLEGAL; the privileged words 0x78 to 0x7E fault F_PRIV in a tile; FADDR is the
instruction word. R103, R167: a word that R103 refuses faults F_ILLEGAL with the word as FADDR, charged to no half for a long word and
for bit 0 of a pair, and to the first half whose minor opcode or field is reserved. Stated for a long word, and for a pair with bit 0
set. R167, R172 to R175: TRAP takes its 4 cycles and then faults F_TRAP, with the word after it as the saved PC and its CODE in FADDR. -/
def Obligations.DecodeFaults : Prop :=
  (∀ (e : EngineId) (s s1 : State) (f : BrForm) (m : MForm) (sel : BitVec 8) (pos wm1 : BitVec 6) (slot : BitVec 16) (code : BitVec 16),
      let ill (op fields : Nat) : Host.Outcome State Fault Refusal := .next (syncFault e ⟨1, 0, BitVec.ofNat 64 (op * 2 ^ 24 + fields)⟩ s1)
      let prv (op fields : Nat) : Host.Outcome State Fault Refusal := .next (syncFault e ⟨2, 0, BitVec.ofNat 64 (op * 2 ^ 24 + fields)⟩ s1)
      let fetched (op fields : Nat) : Prop := passes (beginWord ⟨e, op, 0, BitVec.ofNat 64 (op * 2 ^ 24 + fields)⟩) s = some s1
      engExists s e = true → runnable s e = true → (getEng s1 e).annulled = false →
      ((getEng s1 e).dslot = true →
        (fetched 0x61 (brBits f) → exec (.bz e f) s = ill 0x61 (brBits f)) ∧
        (fetched 0x6F (brBits f) → exec (.bxnz e f) s = ill 0x6F (brBits f)) ∧
        (fetched 0x70 (brBits f) → exec (.call e f) s = ill 0x70 (brBits f)) ∧
        (fetched 0x72 0 → exec (.ret e) s = ill 0x72 0) ∧ (fetched 0x73 code.toNat → exec (.trap e code) s = ill 0x73 code.toNat) ∧
        (fetched 0x74 0 → exec (.fret e) s = ill 0x74 0) ∧ (fetched 0x77 0 → exec (.halt e) s = ill 0x77 0)) ∧
      (m.b = false → m.imm ≠ 0 → fetched 0x10 (mBits m) → exec (.ld e m) s = ill 0x10 (mBits m)) ∧
      (0x0C ≤ sel.toNat → fetched 0x20 sel.toNat → exec (.rdsr e sel) s = ill 0x20 sel.toNat) ∧
      (sel ∈ [(3 : BitVec 8), 4, 5, 8, 9, 10, 11] → fetched 0x21 sel.toNat → exec (.wrsr e sel) s = ill 0x21 sel.toNat) ∧
      (fetched 0x39 (bfBits true pos wm1) → exec (.insi e true pos wm1) s = ill 0x39 (bfBits true pos wm1)) ∧
      (fetched 0x75 0 → (getEng s1 e).hlevel = 0 → exec (.seal e) s = ill 0x75 0) ∧
      (privOf e = false → 
        (fetched 0x78 0 → exec (.mxrd e) s = prv 0x78 0) ∧ (fetched 0x79 0 → exec (.mxwr e) s = prv 0x79 0) ∧
        (fetched 0x7A 0 → exec (.mxlock e) s = prv 0x7A 0) ∧ (fetched 0x7B 0 → exec (.mxunlk e) s = prv 0x7B 0) ∧
        (fetched 0x7C slot.toNat → exec (.kref e slot) s = prv 0x7C slot.toNat) ∧ (fetched 0x7D 0 → exec (.kzero e) s = prv 0x7D 0) ∧
        (fetched 0x7E 0 → exec (.kbind e) s = prv 0x7E 0))) ∧
  (∀ (e : EngineId) (s s1 : State) (w : BitVec 32), engExists s e = true → runnable s e = true → reservedWord w.toNat = true →
      (w.toNat < 2 ^ 31 ∨ w.toNat % 2 = 1) →
      passes (beginWord ⟨e, w.toNat / 2 ^ 24 % 128, 0, w.setWidth 64⟩) s = some s1 →
      exec (.reservedOpcodeWord e w) s = .next (syncFault e ⟨1, 0, w.setWidth 64⟩ s1)) ∧
  (∀ (e : EngineId) (s s1 : State) (code : BitVec 16), longReady e (wspec 0x73 code.toNat 4 0 0 0) s = some s1 →
      let x := getEng s1 e
      exec (.trap e code) s =
        .next (takeFault e 9 0 (code.setWidth 64) x.npc (codeAdd x.npc 4) false [x.npc, codeAdd x.npc 4] (updEng s1 e (nextWord 4))))

/-- R166, R167, R168, R172, R174, R186, taking a fault in a tile where nothing goes wrong on the way: with an empty store buffer, handler
levels to spare and no spill, the fault record and the ring head are written; CODE NPC and then PC are pushed on the return stack, FADDR
and then FINFO on the data stack; HLEVEL rises by one; the handler at 16 × code of segment 0 is next. X, Y and the flags stay, as do
every word of the store below the system rows, every other tile and HBM. Stated for a cached code segment, no fetch line holding the
handler's row. -/
def Obligations.FaultEntry : Prop :=
  ∀ (t : Nat) (s : State) (code : BitVec 8) (half : BitVec 2) (fad pc npc : Word) (ds : Bool) (seen : List Word) (d : Desc) (v : TWord),
    let e : EngineId := .tile t
    let x := (getTile s t).eng
    let u := takeFault e code half fad pc npc ds seen s
    let y := (getTile u t).eng
    let fin := BitVec.ofNat 64 (x.hlevel * 2 ^ 16 + half.toNat * 2 ^ 14 + b2n ds * 2 ^ 12 + b2n x.flags.n * 2 ^ 11 + b2n x.flags.z * 2 ^ 10 +
      b2n x.flags.c * 2 ^ 9 + b2n x.flags.v * 2 ^ 8 + code.toNat)
    let head := ((getTile s t).store.cell (0x3FF600 / 8)).data.toNat
    let rec0 := (0x3FF400 + 32 * (head % 16)) / 8
    t < nTiles s → x.dfault = false → x.hlevel < 15 → x.sb = [] → x.ds.length ≤ 14 → x.rs.length ≤ 14 → s.cm.locks = [] →
    bit ((getTile s t).reg 0x0F8) 31 = false →
    reaches s e (fun d => d.x) 0 (16 * code.toNat) 4 d → soundWord s e ((d.base.toNat + 16 * code.toNat) / 8) = some v → v.tag ≠ 0xF →
    (∀ l ∈ x.lines, l.row ≠ (d.base.toNat + 16 * code.toNat) / 256) →
    (y.hlevel = x.hlevel + 1 ∧ y.ds = ⟨fin, 1⟩ :: ⟨fad, 1⟩ :: x.ds ∧ y.rs = pc :: npc :: x.rs ∧
      y.pc = BitVec.ofNat 64 (16 * code.toNat) ∧ y.npc = BitVec.ofNat 64 (16 * code.toNat + 4) ∧ y.dslot = false ∧ y.dfault = false ∧
      y.lastCode = code ∧ y.x = x.x ∧ y.y = x.y ∧ y.flags = x.flags ∧ y.runstate = x.runstate ∧ y.isSealed = x.isSealed) ∧
    ((getTile u t).store.cell rec0 = ⟨pc, 1, 0⟩ ∧ (getTile u t).store.cell (rec0 + 1) = ⟨fin, 1, 0⟩ ∧
      (getTile u t).store.cell (rec0 + 2) = ⟨fad, 1, 0⟩ ∧
      (getTile u t).store.cell (0x3FF600 / 8) = ⟨BitVec.ofNat 64 ((head / 16 + 1) * 16 + (head % 16 + 1) % 16), 1, 0⟩) ∧
    (∀ w, w < 0x7FE00 → (getTile u t).store.cell w = (getTile s t).store.cell w) ∧
    (∀ p, p ≠ physOf s t → getP u p = getP s p) ∧ u.hbm = s.hbm ∧ u.tenants = s.tenants ∧ u.ports = s.ports

/-- R182, R183: a fault at HLEVEL 15 is a double fault. The summary takes the first fault's PC, NPC, FINFO and FADDR and the second's,
whose FINFO is HLEVEL 15 alone and whose FADDR is 0, then the spill pointers and both depths; the stacks are switched and hold the five
words; DFAULT is set and offset 0 of segment 0 is next; HLEVEL stays. Stated for a tile with an empty store buffer, a cached code
segment and no fetch line holding the handler's row. R185, R194: a fault while DFAULT is 1 is a third fault. Its FINFO and FADDR go to words 10 and 11 of the summary, TX_TRIPLE
counts it up to 255, and the tile is reset: its engine is as after reset, its units and its round are gone, and its store keeps every
word below the system rows; the die's maintenance chute is raised. Stated for a tile that has no owner and no armed injection. -/
def Obligations.SecondAndThirdFault : Prop :=
  (∀ (t : Nat) (s : State) (code : BitVec 8) (half : BitVec 2) (fad pc npc : Word) (ds : Bool) (seen : List Word) (d : Desc) (v : TWord),
      let e : EngineId := .tile t
      let x := (getTile s t).eng
      let u := takeFault e code half fad pc npc ds seen s
      let y := (getTile u t).eng
      let fin := finfo 15 half ds x.flags code
      let at_ (i : Nat) : SWord := (getTile u t).store.cell (0x3FF380 / 8 + i)
      t < nTiles s → x.dfault = false → x.hlevel = 15 → x.sb = [] → s.cm.locks = [] → bit ((getTile s t).reg 0x0F8) 31 = false →
      reaches s e (fun d => d.x) 0 0 4 d → soundWord s e (d.base.toNat / 8) = some v → v.tag ≠ 0xF →
      (∀ l ∈ x.lines, l.row ≠ d.base.toNat / 256) →
      (y.hlevel = 15 ∧ y.dfault = true ∧ y.rs = [] ∧ y.dSpilled = 0 ∧ y.rSpilled = 0 ∧ y.pc = 0 ∧ y.npc = 4 ∧ y.lastCode = 0 ∧
        y.ds = [⟨BitVec.ofNat 64 (15 * 2 ^ 16), 1⟩, ⟨0, 1⟩, ⟨fin, 1⟩, ⟨fad, 1⟩, ⟨pc, 1⟩] ∧ y.x = x.x ∧ y.y = x.y ∧ y.flags = x.flags) ∧
      (at_ 0 = ⟨pc, 1, 0⟩ ∧ at_ 1 = ⟨npc, 1, 0⟩ ∧ at_ 2 = ⟨fin, 1, 0⟩ ∧ at_ 3 = ⟨fad, 1, 0⟩ ∧
        at_ 4 = ⟨BitVec.ofNat 64 (15 * 2 ^ 16), 1, 0⟩ ∧ at_ 5 = ⟨0, 1, 0⟩ ∧ at_ 6 = ⟨x.dspill.getD 0, 1, 0⟩ ∧
        at_ 7 = ⟨x.rspill.getD 0, 1, 0⟩ ∧ at_ 8 = ⟨BitVec.ofNat 64 (x.ds.length + x.dSpilled), 1, 0⟩ ∧
        at_ 9 = ⟨BitVec.ofNat 64 (x.rs.length + x.rSpilled), 1, 0⟩) ∧
      (∀ w, w < 0x7FE00 → (getTile u t).store.cell w = (getTile s t).store.cell w)) ∧
  (∀ (t : Nat) (s : State) (code : BitVec 8) (half : BitVec 2) (fad pc npc : Word) (ds : Bool) (seen : List Word),
      let e : EngineId := .tile t
      let x := (getTile s t).eng
      let u := takeFault e code half fad pc npc ds seen s
      t < nTiles s → x.dfault = true → s.cm.locks = [] → bit ((getTile s t).reg 0x0F8) 31 = false → (getTile s t).owner = none →
      (getTile u t).eng = Engine.reset ∧ (getTile u t).units = [] ∧ (getTile u t).round = none ∧
      (getTile u t).store.cell (0x3FF3D0 / 8) = ⟨finfo x.hlevel half ds x.flags code, 1, 0⟩ ∧
      (getTile u t).store.cell (0x3FF3D8 / 8) = ⟨fad, 1, 0⟩ ∧
      (∀ w, w < 0x7FE00 → (getTile u t).store.cell w = (getTile s t).store.cell w) ∧
      fld ((getTile u t).reg 0x210) 7 0 = min (fld ((getTile s t).reg 0x210) 7 0 + 1) 255 ∧
      (getChute u (144 + physOf s t / 17)).pending = true)

/-- R177, R720: FRET that passes its checks pops FINFO and FADDR and the two CODE words, loads the flags from FINFO, lowers HLEVEL, and
resumes at PC and then NPC, PC being a delay slot when DSLOT is set; with SKIP it resumes at NPC as an ordinary word. It ends a seal when
it leaves the seal's level. Stated where no unit is parked by an interrupt. R165, R166, R178, R180: SEAL in a handler seals it, notes the
level and starts the count from its last cycle, unless it is sealed already; UNSEAL ends a seal; HALT ends it too, drains the store buffer
and leaves the engine halted with HALT_REQ clear. HALT is stated with an empty store buffer. R180, R181: a word that would end the seal in
a cycle past the limit of the count ends nothing in time: the seal clears and F_SEAL_OVERRUN pends instead. -/
def Obligations.HandlerWords : Prop :=
  (∀ (e : EngineId) (s s1 : State) (fi fa : TWord) (r : List TWord) (pc npc : Word) (rr : List Word),
      let x := getEng s1 e
      let bad (g : NFault) : Host.Outcome State Fault Refusal := .next (syncFault e g s1)
      let ends := x.isSealed && decide (x.hlevel - 1 < x.sealLevel)
      let late : Prop := ends = true ∧ sealLimit e < (x.cycles + 5 - x.sealStart).toNat
      longReady e { wspec 0x74 0 6 2 2 0 with illegal := fun x => x.hlevel == 0 || x.dfault, use := ⟨2, 2, 0, 2, 0⟩ } s = some s1 →
      x.ds = fi :: fa :: r → x.rs = pc :: npc :: rr → x.intParked = false → x.dfault = false →
      (fi.tag ≠ 1 → exec (.fret e) s = bad ⟨4, 0, BitVec.ofNat 64 (0x74 * 2 ^ 18 + fi.tag.toNat * 2 ^ 12 + 0xC)⟩) ∧
      (fi.tag = 1 → fa.tag ≠ 1 → exec (.fret e) s = bad ⟨4, 0, BitVec.ofNat 64 (0x74 * 2 ^ 18 + fa.tag.toNat * 2 ^ 12 + 2 ^ 9 + 0xC)⟩) ∧
      (fi.tag = 1 → fa.tag = 1 → 2 ^ 20 ≤ fi.data.toNat → exec (.fret e) s = bad ⟨5, 0, fi.data⟩) ∧
      (fi.tag = 1 → fa.tag = 1 → fi.data.toNat < 2 ^ 20 → late → ∃ u, exec (.fret e) s = .next u ∧ (getEng u e).isSealed = false ∧
        (getEng u e).pending = x.pending ++ [.sealOverrun (x.sealPc &&& ~~~ BitVec.ofNat 64 (15 * 2 ^ 48))] ∧
        (getEng u e).hlevel = x.hlevel - 1) ∧
      (fi.tag = 1 → fa.tag = 1 → fi.data.toNat < 2 ^ 20 → ¬ late →
        let skip := fi.data.getLsbD 13
        exec (.fret e) s = engNext s1 e (fun y => { y with
          ds := r, rs := rr, flags := ⟨fi.data.getLsbD 11, fi.data.getLsbD 10, fi.data.getLsbD 9, fi.data.getLsbD 8⟩,
          hlevel := y.hlevel - 1, svc := y.svc.drop 1, isSealed := y.isSealed && !ends,
          pc := if skip then npc else pc, npc := if skip then codeAdd npc 4 else npc, dslot := !skip && fi.data.getLsbD 12,
          annulled := false, mid := false, waiting := false, busy := false, known := y.cycles + 4, cycles := y.cycles + 5 }))) ∧
  (∀ (e : EngineId) (s s1 : State),
      let late (s : State) : Prop := let x := getEng s e
        x.isSealed = true ∧ x.dfault = false ∧ sealLimit e < (x.cycles + 1 - x.sealStart).toNat
      (longReady e { wspec 0x75 0 2 0 0 0 with illegal := fun x => x.hlevel == 0 } s = some s1 →
        exec (.seal e) s = engNext s1 e (fun x => nextWord 2 (if x.isSealed then x else
          { x with isSealed := true, sealLevel := x.hlevel, sealStart := x.cycles + 1, sealPc := x.pc }))) ∧
      (longReady e (wspec 0x76 0 2 0 0 0) s = some s1 → ¬ late s1 →
        exec (.unseal e) s = engNext s1 e (fun x => nextWord 2 { x with isSealed := false })) ∧
      (longReady e (wspec 0x76 0 2 0 0 0) s = some s1 → late s1 → ∃ u, exec (.unseal e) s = .next u ∧
        getEng u e = nextWord 2 { getEng s1 e with
          isSealed := false,
          pending := (getEng s1 e).pending ++ [.sealOverrun ((getEng s1 e).sealPc &&& ~~~ BitVec.ofNat 64 (15 * 2 ^ 48))] }) ∧
      (longReady e (wspec 0x77 0 2 0 0 0) s = some s1 → (getEng s1 e).sb = [] → ¬ late s1 →
        ∃ u, exec (.halt e) s = .next u ∧ getEng u e = nextWord 2 { getEng s1 e with isSealed := false, runstate := 2, entering := none } ∧
          (∀ t, e = .tile t → bit ((getTile u t).reg 0x200) 1 = false ∧ (getTile u t).store = (getTile s1 t).store) ∧ u.hbm = s1.hbm))

/-- R170, R175, R179, R180, R184, the events of the sequencer: at a boundary of a running engine the first pending asynchronous fault
that may be taken, F_SEAL_OVERRUN before F_REFLECT before F_VECTOR, is taken with the next word as PC; none is taken under DFAULT, and
only a seal overrun while sealed, and none while a fill runs on the tile (R713). Once the count of cycles since SEAL has reached the limit, 4,096 or in a postmaster 2,048, a seal overrun
clears the seal and pends its fault; before that, in an engine that does not wait, the event does nothing. A HALT_REQ is taken at a boundary with no such
fault and no such end of a seal. R162: with TX_DINV.GO set, DESCRIPTOR_INVALIDATE at a boundary, or in an engine that does not run, drops the named descriptor from
the cache, or every one with ALL, and clears GO; with GO clear it does nothing. -/
def Obligations.SequencerEvents : Prop :=
  (∀ (e : EngineId) (s : State) (a : Async), engExists s e = true →
      let x := getEng s e
      let first : Prop := x.dfault = false ∧ a ∈ x.pending ∧
        (match a with
         | .sealOverrun w => x.pending.find? (fun b => match b with | .sealOverrun _ => true | _ => false) = some (.sealOverrun w)
         | .reflect w => x.isSealed = false ∧ (∀ b ∈ x.pending, ∀ v, b ≠ .sealOverrun v) ∧
             x.pending.find? (fun b => match b with | .reflect _ => true | _ => false) = some (.reflect w)
         | .vector w => x.isSealed = false ∧ (∀ b ∈ x.pending, ∃ v, b = .vector v) ∧ x.pending.head? = some (.vector w))
      let next := if x.dslot then x.npc else codeAdd x.pc 4
      (x.runstate = 1 → atBoundary x = true → fillBusy s e = false → first →
        let s1 := updEng s e (fun y => { y with pending := y.pending.erase a })
        exec (.asyncFaultEntry e) s = .next (takeFault e
          (match a with | .sealOverrun _ => 0x0A | .reflect _ => 0x0D | .vector _ => 0x0C) 0
          (match a with | .sealOverrun w => w | .reflect w => w | .vector w => w) x.pc next x.dslot
          (aheadAtBoundary e s1) s1)) ∧
      (fillBusy s e = true → exec (.asyncFaultEntry e) s = .next s) ∧
      (x.dfault = true ∨ x.pending = [] → exec (.asyncFaultEntry e) s = .next s) ∧
      (x.isSealed = true → x.dfault = false → sealLimit e ≤ (x.cycles - x.sealStart).toNat →
        ∃ u, exec (.sealOverrun e) s = .next u ∧
        getEng u e = { x with
          isSealed := false,
          pending := x.pending ++ [.sealOverrun (x.sealPc &&& ~~~ BitVec.ofNat 64 (15 * 2 ^ 48))] }) ∧
      (x.isSealed = false ∨ x.dfault = true → exec (.sealOverrun e) s = .next s) ∧
      ((x.cycles - x.sealStart).toNat < sealLimit e → x.waiting = false → x.busy = false → x.mxWait = none →
        exec (.sealOverrun e) s = .next s) ∧
      (∀ t, e = .tile t → x.runstate = 1 → atBoundary x = true → x.pending = [] →
        (x.isSealed = true → x.dfault = false → (x.cycles - x.sealStart).toNat < sealLimit e) → bit ((getTile s t).reg 0x200) 1 = true → x.sb = [] →
        ∃ u, exec (.engineHalt e) s = .next u ∧ getEng u e = { x with runstate := 2, entering := none } ∧ bit ((getTile u t).reg 0x200) 1 = false) ∧
      (∀ t, e = .tile t → bit ((getTile s t).reg 0x200) 1 = false → exec (.engineHalt e) s = .next s)) ∧
  (∀ (t : Nat) (s : State), t < nTiles s →
      let tl := getTile s t
      let v := tl.reg 0x208
      (bit v 31 = false → exec (.descriptorInvalidate t) s = .next s) ∧
      (bit v 31 = true → (tl.eng.runstate ≠ 1 ∨ atBoundary tl.eng = true) →
        ∃ u, exec (.descriptorInvalidate t) s = .next u ∧ bit ((getTile u t).reg 0x208) 31 = false ∧
          (∀ g d, (g, d) ∈ (getTile u t).eng.dcache ↔ bit v 30 = false ∧ (g, d) ∈ tl.eng.dcache ∧ g.toNat ≠ fld v 11 0) ∧
          (getTile u t).eng = { tl.eng with dcache := (getTile u t).eng.dcache } ∧ (getTile u t).store = tl.store ∧
          (∀ p, p ≠ physOf s t → getP u p = getP s p)))

/-- R137, R138, R585, R586, MXRD and MXWR of a postmaster: a request that the matrix performs ends the word, MXRD with the 32 bits read
as INT; an error completion is recorded and ends it too, MXRD with 0; the cycles for which the word waits for its completion are a free
number (R140, log 10); a request that the matrix holds or never answers joins those that wait and leaves the word waiting, at no boundary,
until it has its answer. R593, R597: MXLOCK by a postmaster at a target that is not locked makes the postmaster its owner, the lock's age beginning then,
and ends the broken state of its own earlier sequence; one by a postmaster that holds a lock already is locked out (R592); MXUNLK by the owner
ends the lock. No request is held. -/
def Obligations.MatrixWords : Prop :=
  (∀ (b : Bool) (s s1 s2 : State) (t v : TWord) (r : List TWord), numeric t → numeric v →
      let e : EngineId := if b then .pmB else .pmA
      let m : Master := if b then .pmB else .pmA
      let a : BitVec 32 := t.data.setWidth 32
      let d : BitVec 32 := v.data.setWidth 32
      let none_ : Prop := (getEng s1 e).mxAnswer = none ∧ s1.cm.hung.any (fun h => h.eng == some e) = false
      let waits (u : State) (wr : Bool) : Host.Outcome State Fault Refusal :=
        engNext u e (fun x => { x with mxWait := some (a, wr), mxAnswer := none, busy := true })
      let done (u : State) (l : List TWord) : Host.Outcome State Fault Refusal :=
        engNext (tick u) e (fun y => nextWord 4 { y with ds := l, cycles := y.cycles + BitVec.ofNat 64 (Config.waits u.free) })
      let taken := updEng s1 e (fun y => { y with mxAnswer := none })
      (longReady e (pspec 0x78 0 4 1 1 1) s = some s1 → (getEng s1 e).ds = t :: r → (getEng s2 e).ds = t :: r →
        (∀ x, none_ → matrixAccess m a none s1 = (.done x, s2) → exec (.mxrd e) s = done s2 (⟨x.setWidth 64, 1⟩ :: r)) ∧
        (∀ k, none_ → matrixAccess m a none s1 = (.err k, s2) → exec (.mxrd e) s = done (recordErr b a k s2) (⟨0, 1⟩ :: r)) ∧
        (none_ → matrixAccess m a none s1 = (.held, s2) ∨ matrixAccess m a none s1 = (.lost, s2) →
          exec (.mxrd e) s = waits (holdReq m a none .access (some e) s2) false) ∧
        (∀ x, (getEng s1 e).mxAnswer = some (0, x) → exec (.mxrd e) s = done taken (⟨x.setWidth 64, 1⟩ :: r)) ∧
        (∀ k x, k ≠ 0 → (getEng s1 e).mxAnswer = some (k, x) → exec (.mxrd e) s = done (recordErr b a k taken) (⟨0, 1⟩ :: r)) ∧
        ((getEng s1 e).mxAnswer = none → s1.cm.hung.any (fun h => h.eng == some e) = true → (getEng (retryHeld s1) e).mxAnswer = none →
          exec (.mxrd e) s = waits (retryHeld s1) false)) ∧
      (longReady e (pspec 0x79 0 4 2 2 0) s = some s1 → (getEng s1 e).ds = t :: v :: r → (getEng s2 e).ds = t :: v :: r →
        (∀ x, none_ → matrixAccess m a (some d) s1 = (.done x, s2) → exec (.mxwr e) s = done s2 r) ∧
        (∀ k, none_ → matrixAccess m a (some d) s1 = (.err k, s2) → exec (.mxwr e) s = done (recordErr b a k s2) r) ∧
        (none_ → matrixAccess m a (some d) s1 = (.held, s2) ∨ matrixAccess m a (some d) s1 = (.lost, s2) →
          exec (.mxwr e) s = waits (holdReq m a (some d) .access (some e) s2) true) ∧
        (∀ x, (getEng s1 e).mxAnswer = some (0, x) → exec (.mxwr e) s = done taken r))) ∧
  (∀ (b : Bool) (s s1 : State) (t : TWord) (r : List TWord) (k : Block) (off : Nat), numeric t →
      let e : EngineId := if b then .pmB else .pmA
      let m : Master := if b then .pmB else .pmA
      let a : BitVec 32 := t.data.setWidth 32
      let x := targetOf k
      let after (u : State) : Engine := nextWord 4 { getEng u e with
        ds := r, cycles := (getEng u e).cycles + BitVec.ofNat 64 (Config.waits u.free) }
      a.toNat % 4 = 0 → decodeAddr s1 a.toNat = some (k, off) → gatedOff s1 k = false → s1.cm.hung = [] → (getEng s1 e).ds = t :: r →
      (getEng s1 e).mxAnswer = none →
      (longReady e (pspec 0x7A 0 4 1 1 0) s = some s1 → (getLock s1 x).owner = none → holdsLock s1 m = false →
        ∃ u, exec (.mxlock e) s = .next u ∧ (getLock u x).owner = some m ∧ (getLock u x).since = s1.sclk ∧ (getLock u x).former ≠ some m ∧
          (∀ y, y ≠ x → getLock u y = getLock s1 y) ∧ getEng u e = after s1 ∧ u.tiles = s1.tiles) ∧
      (longReady e (pspec 0x7A 0 4 1 1 0) s = some s1 → holdsLock s1 m = true →
        ∃ u, exec (.mxlock e) s = .next u ∧ u.cm.locks = s1.cm.locks ∧ getEng u e = after (recordErr b a 3 s1) ∧ u.tiles = s1.tiles) ∧
      (longReady e (pspec 0x7B 0 4 1 1 0) s = some s1 → (getLock s1 x).owner = some m →
        ∃ u, exec (.mxunlk e) s = .next u ∧ (getLock u x).owner = none ∧ (∀ y, y ≠ x → getLock u y = getLock s1 y) ∧
          getEng u e = after s1 ∧ u.tiles = s1.tiles))

/-- R139, R424, R427: KREF pushes a KEYREF of a slot of the table, with its generation, and faults F_RANGE for a reserved slot; KZERO
given a current KEYREF destroys the key and advances the slot's generation; KBIND writes one cipher context; a KEYREF of an older
generation faults F_RANGE, as does a KBIND of a signing key or of a context above 4,111. R643: each of these words reads the slot that it
names; a slot one of whose copies fails is repaired from the other and keeps its key; a slot both of whose copies fail is zeroised, its
generation advances and KS_STATUS.MIRROR_FAIL is set; no other slot changes. -/
def Obligations.KeyWords : Prop :=
  ∀ (b : Bool) (s s1 : State) (slot : BitVec 16) (k c : TWord) (r : List TWord),
    let e : EngineId := if b then .pmB else .pmA
    let n := k.data.toNat % 2 ^ 16
    let s2 := readKey n s1
    let current : Prop := (getKey s2 n).gen.toNat = k.data.toNat / 2 ^ 16 % 2 ^ 16
    let inTable : Prop := slot.toNat ≤ 2 ∨ (0x10 ≤ slot.toNat ∧ slot.toNat < 0x50) ∨ (0x80 ≤ slot.toNat ∧ slot.toNat < 0xB6) ∨
      slot.toNat = 0x100 ∨ (0x400 ≤ slot.toNat ∧ slot.toNat < 0xC00)
    let old (v : Word) : Host.Outcome State Fault Refusal := .next (syncFault e ⟨5, 0, v⟩ s2)
    k.tag = 7 → numeric c →
    (longReady e (pspec 0x7C slot.toNat 4 0 0 1) s = some s1 →
      (inTable → exec (.kref e slot) s = engNext (readKey slot.toNat s1) e (fun x => nextWord 4
        { x with ds := ⟨BitVec.ofNat 64 ((getKey (readKey slot.toNat s1) slot.toNat).gen.toNat * 2 ^ 16 + slot.toNat), 7⟩ :: x.ds })) ∧
      (¬ inTable → exec (.kref e slot) s = .next (syncFault e ⟨5, 0, slot.setWidth 64⟩ s1))) ∧
    (longReady e (pspec 0x7D 0 8 1 1 0) s = some s1 → (getEng s1 e).ds = k :: r →
      (current → exec (.kzero e) s =
        engNext (setKey s2 n ⟨none, (getKey s2 n).gen + 1, false, false⟩) e (fun x => nextWord 8 { x with ds := r })) ∧
      (¬ current → exec (.kzero e) s = old k.data)) ∧
    (longReady e (pspec 0x7E 0 6 2 2 0) s = some s1 → (getEng s1 e).ds = k :: c :: r →
      (current → 2 ≤ n → c.data.toNat < 4112 →
        ∃ u, exec (.kbind e) s = .next u ∧ getEng u e = nextWord 6 { getEng s1 e with ds := r } ∧
          (∀ x, x ≠ c.data.toNat → tget (fun _ => Key.unbound) u.ctxs x = tget (fun _ => Key.unbound) s1.ctxs x) ∧
          tget (fun _ => Key.unbound) u.ctxs c.data.toNat =
            (match (getKey s2 n).key with
             | none => .unbound
             | some (.draw g) => if n < 0x800 then .draw g else
                 .hbm g (c.data.toNat % 4) (tget (fun _ => 0) (getTen s2 (n - 0x800)).keyGens (c.data.toNat % 4))
             | some key => key) ∧
          u.keys = s2.keys ∧ u.tiles = s1.tiles) ∧
      (¬ current → exec (.kbind e) s = old k.data) ∧ (current → n < 2 → exec (.kbind e) s = old k.data) ∧
      (current → 2 ≤ n → 4112 ≤ c.data.toNat → exec (.kbind e) s = old c.data)) ∧
    (∀ (i : Nat) (v : State), let y := getKey v i
      (y.bad0 = false → y.bad1 = false → readKey i v = v) ∧
      (y.bad0 ≠ y.bad1 → getKey (readKey i v) i = { y with bad0 := false, bad1 := false } ∧ ksReg (readKey i v) 0 = ksReg v 0) ∧
      (y.bad0 = true → y.bad1 = true → getKey (readKey i v) i = ⟨none, y.gen + 1, false, false⟩ ∧
        ksReg (readKey i v) 0 = setBit (ksReg v 0) 1) ∧
      (∀ j, j ≠ i → getKey (readKey i v) j = getKey v j))

/-- R130, R195 to R198: VMAKE that passes its checks advances the generation of entry SLOT, writes the entry and pushes its VDESC; no
other entry changes. A stride outside 32 bits, or other than 1 for MASK, faults F_RANGE with S1, any other failing case with T, in the
order of R196. VSETL replaces the LENGTH of a VDESC, and faults F_RANGE above 65,536. -/
def Obligations.StreamWords : Prop :=
  ∀ (t : Nat) (s s1 : State) (tw sw a l d : TWord) (r : List TWord), numeric tw → numeric sw → numeric l → a.tag = 3 → d.tag = 5 →
    let e : EngineId := .tile t
    let z (hi lo : Nat) : Nat := tw.data.toNat / 2 ^ lo % 2 ^ (hi - lo + 1)
    let strideOk : Prop := sw.data.toNat / 2 ^ 31 = 0 ∨ sw.data.toNat / 2 ^ 31 = 2 ^ 33 - 1
    let shapeOk : Prop := z 40 20 = 0 ∧ (z 55 55 = 0 → z 54 41 = 0) ∧ z 19 17 < 6 ∧ z 57 56 ≠ 3 ∧ z 16 0 ≤ 65536
    let maskOk : Prop := z 19 17 = 5 → sw.data = 1
    let farOk : Prop := ¬ (z 55 55 = 1 ∧ named s1 = true ∧ z 54 41 = (ownId s1).toNat)
    let old := streamAt (getTile s1 t) (z 63 58)
    let en : StreamEntry := ⟨true, old.gen + 1, codeSeg a.data, BitVec.ofNat 48 (codeOff a.data), sw.data.setWidth 32, tw.data.getLsbD 55,
      BitVec.ofNat 14 (z 54 41)⟩
    let vd := BitVec.ofNat 64 (z 63 58 * 2 ^ 58 + z 57 56 * 2 ^ 56 + z 19 17 * 2 ^ 49 + z 16 0 * 2 ^ 32 + (old.gen + 1).toNat)
    let bad (v : Word) : Host.Outcome State Fault Refusal := .next (syncFault e ⟨5, 0, v⟩ s1)
    (longReady e (wspec 0x4E 0 4 3 3 1) s = some s1 → (getEng s1 e).ds = tw :: sw :: a :: r →
      (strideOk → shapeOk → maskOk → farOk →
        exec (.vmake e) s = engNext (updTile s1 t (fun tl =>
          { tl with streams := tset (fun _ => StreamEntry.empty) tl.streams (z 63 58) en })) e
          (fun x => nextWord 4 { x with ds := ⟨vd, 5⟩ :: r })) ∧
      (¬ strideOk → exec (.vmake e) s = bad sw.data) ∧ (strideOk → ¬ shapeOk → exec (.vmake e) s = bad tw.data) ∧
      (strideOk → shapeOk → ¬ maskOk → exec (.vmake e) s = bad sw.data) ∧
      (strideOk → shapeOk → maskOk → ¬ farOk → exec (.vmake e) s = bad tw.data)) ∧
    (longReady e (wspec 0x4F 0 3 2 2 1) s = some s1 → (getEng s1 e).ds = l :: d :: r →
      (l.data.toNat ≤ 65536 → ∃ v, exec (.vsetl e) s = engNext s1 e (fun x => nextWord 3 { x with ds := ⟨v, 5⟩ :: r }) ∧
        v.toNat / 2 ^ 32 % 2 ^ 17 = l.data.toNat ∧ v.toNat % 2 ^ 32 = d.data.toNat % 2 ^ 32 ∧
        v.toNat / 2 ^ 49 = d.data.toNat / 2 ^ 49) ∧
      (65536 < l.data.toNat → exec (.vsetl e) s = bad l.data))

/-- R129, R206, R210, R242, R394: a vector instruction whose ID is free and whose operands pass the checks of R206 takes its operand
words off the stack and joins the counter path behind the earlier ones, under its ID, with its VOP, MOD fields and effective mode: the
instruction's own mode or FLOOR, whichever is higher, but no more than CAP. Stated where no resume and no TF_CTRL write is pending, for
all 38 operations. R129, R134, R188, R195, R246, R264, R312, the words that wait for units, and where they wait or stop. VISSUE waits
while its ID is outstanding, VWAIT while an ID of its mask is, VFENCE while any that is not parked is; VWAIT and VFENCE
that need not wait complete in 2 cycles and discard the fetch lines. A handler's VWAIT that names a parked ID faults F_RANGE. In a
postmaster, which has no tile (the model's reading, log 13): VMAKE makes a VDESC of a free generation, VISSUE finds no current VDESC and
faults F_RANGE with the word nearest T, and RCALL is refused for want of a sheet. -/
def Obligations.VectorWords : Prop :=
  (∀ (t : Nat) (s s1 s2 s3 : State) (id : BitVec 4) (md : BitVec 12) (ws : List (Option Role × Word)) (u : VUnit) (b : Instr × Nat),
      let e : EngineId := .tile t
      let table : List (Instr × Nat) :=
        [(.vadd e id md, 0x01), (.vsub e id md, 0x02), (.vmul e id md, 0x03), (.vfma e id md, 0x04), (.vfms e id md, 0x05),
         (.vfnma e id md, 0x06), (.vfnms e id md, 0x07), (.vmin e id md, 0x08), (.vmax e id md, 0x09), (.vabs e id md, 0x0A),
         (.vneg e id md, 0x0B), (.vcmp e id md, 0x0C), (.vcvt e id md, 0x0D), (.vrcpe e id md, 0x0E), (.vrsqe e id md, 0x0F),
         (.vrcps e id md, 0x10), (.vrsqs e id md, 0x11), (.vand e id md, 0x12), (.vor e id md, 0x13), (.vxor e id md, 0x14),
         (.vnot e id md, 0x15), (.vshl e id md, 0x16), (.vshr e id md, 0x17), (.vsar e id md, 0x18), (.vsel e id md, 0x19),
         (.vcopy e id md, 0x1A), (.vgather e id md, 0x40), (.vscatter e id md, 0x41), (.vcompress e id md, 0x42), (.vexpand e id md, 0x43),
         (.vscan e id md, 0x44), (.vred e id md, 0x45), (.vsegred e id md, 0x46), (.vpermb e id md, 0x47), (.vperme e id md, 0x48),
         (.vtrans e id md, 0x49), (.vload e id md, 0x80), (.vstore e id md, 0x81)]
      let roles := issueRoles b.2 (md.getLsbD 8)
      let n := roles.length
      let w : WordSpec := { wspec 0x48 (b.2 * 65536 + id.toNat * 4096 + md.toNat) 4 n n 0 with illegal := fun _ => vIllegal b.2 md }
      let c := longCtx e w
      let ctl := (getTile s3 t).tfInForce.toNat
      let top := max u.mode.toNat (ctl / 4 % 4)
      let mode := min top (ctl % 4)
      b ∈ table → waitReady e w (vissueReady id) s = some s1 →
      (issueWords c roles).run (drainAll e s1) = .ok ws s2 → (issueChecks c t b.2 id md ws).run s2 = .ok u s3 →
      (getEng s3 e).resume = false → (getTile s3 t).reg 0x500 = (getTile s3 t).tfInForce →
      exec b.1 s = engNext (updTile s3 t (fun tl => { tl with units := tl.units ++ [{ u with
          mode := BitVec.ofNat 2 (if pipeClass b.2 = 2 then 0 else if pipeClass b.2 = 1 then min mode 1 else mode) }] })) e
        (fun x => nextWord 4 { x with ds := x.ds.drop n }) ∧
      u.id = id ∧ u.vop = BitVec.ofNat 8 b.2 ∧ u.pred = md.getLsbD 8 ∧ u.merge = md.getLsbD 7 ∧
      u.sub = BitVec.ofNat 4 (md.toNat / 8 % 16) ∧ u.started = false ∧ u.parked = false ∧ u.strip = 0 ∧
      (0 < md.toNat / 512 → u.rm = BitVec.ofNat 3 (md.toNat / 512)) ∧
      (md.toNat / 512 = 0 → u.rm = BitVec.ofNat 3 (fld ((getTile s3 t).reg 0x304) 5 3))) ∧
  (∀ (e : EngineId) (s s1 : State) (mask : BitVec 16) (id : BitVec 4) (md : BitVec 12),
      let units := match e with
        | .tile t => (getTile s1 t).units
        | _ => []
      let named := units.filter (fun u => mask.getLsbD u.id.toNat)
      let waits := units.filter (fun u => !u.parked)
      let x := getEng s e
      let go : Host.Outcome State Fault Refusal := engNext s1 e (fun y => nextWord 2 { y with lines := [], known := y.cycles })
      let hold : Host.Outcome State Fault Refusal := engNext s1 e (fun y => { y with waiting := true, mid := true, busy := false })
      let fresh : Prop := x.mid = false ∧ x.waiting = false ∧ x.busy = false ∧ x.annulled = false
      (longReady e (wspec 0x49 mask.toNat 2 0 0 0) s = some s1 → fresh →
        (named = [] → exec (.vwait e mask) s = go) ∧
        (named ≠ [] → (getEng s1 e).hlevel = 0 → exec (.vwait e mask) s = hold) ∧
        (named.any (·.parked) = true → 0 < (getEng s1 e).hlevel →
          exec (.vwait e mask) s = .next (syncFault e ⟨5, 0, mask.setWidth 64⟩ s1))) ∧
      (longReady e (wspec 0x4A 0 2 0 0 0) s = some s1 → fresh →
        (waits = [] → exec (.vfence e) s = go) ∧ (waits ≠ [] → exec (.vfence e) s = hold)) ∧
      (∀ t u, e = .tile t → vIllegal 0x1A md = false →
        let n := (issueRoles 0x1A (md.getLsbD 8)).length
        let w : WordSpec := { wspec 0x48 (0x1A * 65536 + id.toNat * 4096 + md.toNat) 4 n n 0 with illegal := fun _ => vIllegal 0x1A md }
        passes (waitHead (longCtx e w) w x) s = some s1 → engExists s e = true → runnable s e = true → x.annulled = false →
        u ∈ (getTile s1 t).units → u.id = id → (getEng s1 e).hlevel = 0 → exec (.vcopy e id md) s = hold) ∧
      (∀ (tw sw a h k : TWord) (r : List TWord) (ws : List (Option Role × Word)) (s2 : State), privOf e = true →
        let n := (issueRoles 0x1A (md.getLsbD 8)).length
        let w : WordSpec := { wspec 0x48 (0x1A * 65536 + id.toNat * 4096 + md.toNat) 4 n n 0 with illegal := fun _ => vIllegal 0x1A md }
        (longReady e (wspec 0x4E 0 4 3 3 1) s = some s1 → (getEng s1 e).ds = tw :: sw :: a :: r → numeric tw → numeric sw → a.tag = 3 →
          vmakeBad s1 sw.data tw.data = none → ∃ g : BitVec 32, exec (.vmake e) s =
            engNext (tick s1) e (fun y => nextWord 4 { y with ds := ⟨vdescWord tw.data g, 5⟩ :: r })) ∧
        (waitReady e w (vissueReady id) s = some s1 → (issueWords (longCtx e w) (issueRoles 0x1A (md.getLsbD 8))).run (drainAll e s1) = .ok ws s2 →
          exec (.vcopy e id md) s = .next (syncFault e ⟨5, 0, (ws.head?.map (·.2)).getD 0⟩ s2)) ∧
        (longReady e (wspec 0x4C 0 4 2 2 0) s = some s1 → (getEng s1 e).ds = h :: k :: r → h.tag = 6 → numeric k →
          k.data.toNat < 2 ^ 32 → (getEng s1 e).sb = [] →
          exec (.rcall e) s = engNext s1 e (fun y => nextWord 4 { y with ds := ⟨0x310, 1⟩ :: r, flags := { y.flags with v := true } }))))

/-- R135, R136, R165, R480, R589, R591: ESEND with room in its queue reads the image at the ADDR in S1, 64 bytes and the payload its header gives in
units of 64, and places it in the tile's queue with its tenant in the header and the address of its receipt slot; the last 64 bytes stand in the
tile's inbox port (the model's reading, log 27). Nothing else but the engine, the waits for banks and the pointer of the inbox changes; with an inbox that another master has locked the word waits as a request
of the tile's port. Stated for cached segments of the tile store whose words are sound, an empty store buffer, and no request of the
control matrix waiting. -/
def Obligations.EnvelopeSend : Prop :=
  ∀ (t n : Nat) (s s1 : State) (rc im : TWord) (r : List TWord) (di dr : Desc) (ws : List TWord),
    let e : EngineId := .tile t
    let payload := (nthD ⟨0, 0⟩ ws 0).data.toNat / 2 ^ 32 % 2 ^ 16
    let k := min 63 ((payload + 63) / 64)
    let io := codeOff im.data
    let ro := codeOff rc.data
    waitReady e (wspec 0x50 0 6 2 2 0) esendReady s = some s1 → (getEng s1 e).sb = [] →
    s1.cm.hung = [] → (getEng s1 e).mxAnswer = none → (getEng s1 e).dcache.length ≤ 64 → (getEng s1 e).ds = rc :: im :: r →
    rc.tag = 3 → im.tag = 3 → io % 64 = 0 → ro % 32 = 0 → di.base.toNat % 8 = 0 →
    reaches s1 e (fun d => d.r) (codeSeg im.data) io (64 + 64 * k) di → reaches s1 e (fun d => d.w) (codeSeg rc.data) ro 32 dr →
    ws.length = 8 + 8 * k →
    (∀ i v, ws[i]? = some v → v.tag ≠ 0xF ∧ soundWord s1 e ((di.base.toNat + io) / 8 + i) = some v) →
    (getTile s1 t).owner.map (·.1) = some n →
    let l := getLock s1 0xC0
    (∀ m, l.owner = some m → m ≠ .tilePort t → ∃ u, exec (.esend e) s = .next u ∧ (getEng u e).busy = true ∧ (getEng u e).pc = (getEng s1 e).pc ∧
      (getTile u t).esendq = (getTile s1 t).esendq ∧ (getEng u e).ds = (getEng s1 e).ds ∧
      u.cm.hung.map (fun h => (h.m, h.addr, h.op, h.eng)) = [(.tilePort t, inboxAddr t, .transfer, some e)]) ∧
    (l.owner = none ∨ l.owner = some (.tilePort t) →
    ∃ u, exec (.esend e) s = .next u ∧ (getEng u e).ds = r ∧ (getEng u e).pc = (getEng s1 e).npc ∧
      (getTile u t).esendq = (getTile s1 t).esendq ++ [⟨putTenant n (ws.map (·.data)), dr.base.toNat + ro, false⟩] ∧
      (∀ i, i < 8 → (putTenant n (ws.map (·.data)))[8 * k + i]? = some (readReg u .inbox (64 * t + 8 * i + 4) ++ readReg u .inbox (64 * t + 8 * i))) ∧
      (getTile u t).store = (getTile s1 t).store ∧ (∀ p, p ≠ physOf s1 t → getP u p = getP s1 p) ∧ u.hbm = s1.hbm)

/-- R374, R375, R377, the reflected passes of the FMA pipes on INT and MASK elements: for every operation, passes 1 and 2 give the value
and the flags of pass 0, so that without an upset the comparators always agree. -/
def Obligations.ReflectedIntegers : Prop :=
  ∀ (k vop sub rm dt ty a b m : Nat), k < 3 → vop < 0x1B → sub < 8 → 3 ≤ ty → ty ≤ 5 → a < 2 ^ eBits ty → b < 2 ^ eBits ty →
    elemPass k vop sub rm dt [ty, ty, 5] [a, b, m] = elemPass 0 vop sub rm dt [ty, ty, 5] [a, b, m]

/-- R100, R101, R106, the encoding of short operations: the 15 bits of every short operation, with every operand, are read back as that
operation; two operations never share their bits; and no pair word made of two of them is refused by R103. -/
def Obligations.ShortEncoding : Prop :=
  ∀ (a b : ShortOp), shortBits a < 2 ^ 15 ∧ decodeShort (shortBits a) = some a ∧
    reservedWord (pairWord (shortBits a) (shortBits b)).toNat = false ∧
    (∀ w, w < 2 ^ 15 → decodeShort w = some a → w = shortBits a)

/-- R211, R254 to R258, R390, the events of the pipes. The earliest instruction that has not started takes the lowest-numbered awake free
pipe, or the lowest-numbered sleeping one, which begins to wake; with none free it waits. A waking pipe becomes awake; an awake pipe that
nothing uses goes to sleep; a charge window that has run full closes. Nothing else of the tile changes, and no other tile. The start is
stated for an FMA operation in mode SINGLE whose sources lie in the tile store. R245, R252, R310, R389: held deferrable causes wait while
an in-place instruction is outstanding or a strip awaits its third pass; otherwise every outstanding re-runnable instruction is parked,
stays outstanding, held by those causes, and what it has written stays; an interrupt entry acts once. With no cause held nothing happens,
nor while the engine is sealed or in a double fault (R179, R184). Stated for a tile without a round, outside
element-resume mode. -/
def Obligations.PipeEvents : Prop :=
  (∀ (t pipe : Nat) (s : State) (u : VUnit), t < nTiles s →
      let tl := getTile s t
      let free := (List.range 8).filter (pipeFree tl)
      let awake := free.filter (fun c => bit (tl.reg 0x30C) c)
      let same : Host.Outcome State Fault Refusal := .next (updTile s t (fun x => x))
      let start (p : Nat) (w : List Nat) : Host.Outcome State Fault Refusal :=
        .next (updTile s t (fun x => { beginWork x with
          units := x.units.map (fun v => if v.id == u.id then { u with
            started := true, pipes := [p], courier := none, outPos := 0,
            carry := BitVec.ofNat 64 (identOf (unitOp u 1).ety.toNat u.sub.toNat) } else v),
          waking := w }))
      (tl.units.all (fun v => v.started || v.parked) = true → exec (.vectorStart t) s = .next s) ∧
      (bit (tl.reg 0x004) 0 = false → tl.units.find? (fun v => !v.started && !v.parked) = some u → 0 < u.vl →
        pipeClass u.vop.toNat = 0 → u.mode = 0 → usesStaging u = false →
        (free = [] → exec (.vectorStart t) s = .next s) ∧
        (∀ p, awake.head? = some p → exec (.vectorStart t) s = start p tl.waking) ∧
        (∀ p, awake = [] → free.head? = some p → p ∉ tl.waking → exec (.vectorStart t) s = start p (tl.waking ++ [p]))) ∧
      (pipe < 10 → pipe ∈ tl.waking → exec (.pipeWakeDone t pipe) s = .next (updTile s t (fun x =>
        { x.setReg 0x30C (x.reg 0x30C ||| BitVec.ofNat 32 (2 ^ pipe)) with waking := x.waking.filter (· != pipe) }))) ∧
      (pipe < 10 → pipe ∉ tl.waking → exec (.pipeWakeDone t pipe) s = same) ∧
      (pipe < 10 → (unitCodes tl).contains pipe = false → (roundCodes tl).contains pipe = false →
        exec (.pipeSleep t pipe) s = .next (updTile s t (fun x => x.setReg 0x30C (x.reg 0x30C &&& ~~~ BitVec.ofNat 32 (2 ^ pipe))))) ∧
      (pipe < 10 → (unitCodes tl).contains pipe = true → exec (.pipeSleep t pipe) s = same) ∧
      (pipe < 8 → pipe ∈ tl.closing → ∃ x, exec (.chargeWindowClose t pipe) s = .next x ∧ (getTile x t).reg (0x520 + 4 * pipe) = 0 ∧
        (∀ c, c < 8 → fld ((getTile x t).reg 0x508) (2 * c + 1) (2 * c) = if c = pipe then 0 else fld (tl.reg 0x508) (2 * c + 1) (2 * c)) ∧
        (getTile x t).store = tl.store ∧ (getTile x t).units = tl.units ∧ (∀ p, p ≠ physOf s t → getP x p = getP s p)) ∧
      (pipe < 8 → pipe ∉ tl.closing → exec (.chargeWindowClose t pipe) s = same)) ∧
  (∀ (t : Nat) (s : State), t < nTiles s →
      let tl := getTile s t
      (tl.stops = [] → exec (.deferredCauseAct t) s = .next s) ∧
      (tl.eng.resume = false → tl.units.any (fun u => u.cls != 0 && !u.parked) = true → exec (.deferredCauseAct t) s = .next s) ∧
      (tl.units.any (fun u => u.disputed.isSome) = true → exec (.deferredCauseAct t) s = .next s) ∧
      ((tl.eng.isSealed = true ∨ tl.eng.dfault = true ∨ (tl.stops.all (· == 2) = true ∧ tl.eng.intActed = true)) →
        exec (.deferredCauseAct t) s = .next s) ∧
      (dueCauses tl ≠ [] → tl.eng.resume = false → tl.round = none → tl.units.all (fun u => u.cls == 0 && u.disputed.isNone) = true →
        (tl.units.map (·.id)).Nodup →
        ∃ x, exec (.deferredCauseAct t) s = .next x ∧
          (getTile x t).units = tl.units.map (fun u => { (if u.parked then u else { u with
            parked := true, pipes := [], courier := none, got := [], buf := [], ahead := [], failed := [], remoteLeft := 0 }) with
            holds := (dueCauses tl).foldl addOnce u.holds }) ∧
          (getTile x t).store = tl.store ∧
          (getTile x t).eng = (if tl.stops.contains 2 then { tl.eng with intActed := true } else tl.eng) ∧ (getTile x t).stops = tl.stops ∧
          (∀ p, p ≠ physOf s t → getP x p = getP s p) ∧ x.hbm = s.hbm))

/-- R237, R363, R381 to R388, STRIP_COMMIT and THIRD_PASS. In mode SINGLE the result of pass 0 commits; in PAIR it commits when pass 1
agrees, and otherwise a lens instruction aborts with cause REFLECT and an FMA instruction keeps its strip for a third pass; in TRIAD two
passes that agree decide and the odd one is corrected, and with no two alike the instruction aborts. The third pass commits the majority,
or aborts. A failing word aborts with its own cause (R240, R249); an uncorrectable error in the strip buffer of a reflected strip aborts it
with UNCORR (R372), and comparators that disagree leave no majority (R382). -/
def Obligations.StripCommits : Prop :=
  ∀ (t : Nat) (id : BitVec 4) (ups : Upset) (w3 : Word) (s : State) (w u : VUnit) (i : StripIn), t < nTiles s →
    unitOf (getTile s t) id = some w → w.started = true → w.parked = false →
    w.pipes.any (getTile s t).waking.contains = false → w.refused = false → 256 * w.strip < w.vl → arrived w = true →
    stripInputs t w s = (u, i) → u.id = id →
    let p := physOf i.r.s t
    let out (k : Nat) (up : Word) : SOut := expandPos u i.pos (passOut k u up i.es)
    let o0 := out 0 ups.pass0
    let o1 := out 1 ups.pass1
    let o2 := out 2 ups.pass2
    let counted := updP i.r.s p (fun x => u.pipes.foldl (fun a c => countStrip c a) x)
    let commit (o : SOut) (x : State) : Host.Outcome State Fault Refusal := .next (commitOut t u o i.merged i.r.buf x)
    let odd (k : Nat) (x : State) : State := correctedStrip p 2 (nthD 0 u.pipes k) k u.mode.toNat false id.toNat u.strip x
    let none3 (m : Nat) (x : State) : Host.Outcome State Fault Refusal :=
      .next (abortUnit t u 4 (unitCode u) (noMajority p (unitCode u) m false id.toNat u.strip x))
    (w.disputed = none →
      (∀ c, i.cause = some c → exec (.stripCommit t id ups) s = .next (abortUnit t u c (unitCode u) i.r.s)) ∧
      (i.cause = none →
        (u.mode = 0 → exec (.stripCommit t id ups) s = commit o0 counted) ∧
        (u.mode ≠ 0 → ups.buf = true → exec (.stripCommit t id ups) s = .next (abortUnit t u 1 (unitCode u) counted)) ∧
        (u.mode ≠ 0 → ups.buf = false → ups.cmp = true → exec (.stripCommit t id ups) s = none3 u.mode.toNat (countMismatch p counted)) ∧
        (u.mode = 1 → ups.buf = false → ups.cmp = false →
          let x := countFallback p o1.fb counted
          (sameOut o0 o1 = true → exec (.stripCommit t id ups) s = commit o0 x) ∧
          (sameOut o0 o1 = false → pipeClass u.vop.toNat = 1 → exec (.stripCommit t id ups) s = none3 1 (countMismatch p x)) ∧
          (sameOut o0 o1 = false → pipeClass u.vop.toNat = 0 → exec (.stripCommit t id ups) s =
            .next (putUnit t { u with disputed := some (ups.pass0, ups.pass1), buf := i.r.buf.map (fun x => (x.1, keepCell x.2)) } (countMismatch p x)))) ∧
        (u.mode = 2 → ups.buf = false → ups.cmp = false →
          let x := countFallback p (o1.fb + o2.fb) counted
          let y := countMismatch p x
          (sameOut o0 o1 = true → sameOut o0 o2 = true → exec (.stripCommit t id ups) s = commit o0 x) ∧
          (sameOut o0 o1 = true → sameOut o0 o2 = false → exec (.stripCommit t id ups) s = commit o0 (odd 2 y)) ∧
          (sameOut o0 o1 = false → sameOut o0 o2 = true → exec (.stripCommit t id ups) s = commit o0 (odd 1 y)) ∧
          (sameOut o0 o1 = false → sameOut o0 o2 = false → sameOut o1 o2 = true →
            exec (.stripCommit t id ups) s = commit o1 (odd 0 y)) ∧
          (sameOut o0 o1 = false → sameOut o0 o2 = false → sameOut o1 o2 = false →
            exec (.stripCommit t id ups) s = none3 2 y)))) ∧
    (∀ m0 m1, w.disputed = some (m0, m1) →
      let q := nextPipe (getTile s t) (nthD 0 w.pipes 1)
      let p := physOf s t
      let h := heldInputs t w s
      let a := expandPos w h.pos (passOut 0 w m0 h.es)
      let b := expandPos w h.pos (passOut 1 w m1 h.es)
      let c := expandPos w h.pos (passOut 2 w w3 h.es)
      let x := countFallback p c.fb (updP (countRecompute p h.r.s) p (countStrip q))
      let odd3 (k : Nat) : State := correctedStrip p 3 (nthD 0 w.pipes k) k 1 false id.toNat w.strip x
      exec (.stripCommit t id ups) s = .next s ∧
      (pipeFree (getTile s t) q = true → pipeAwake (getTile s t) q = true →
        (∀ d, h.cause = some d → exec (.thirdPass t id w3) s = .next (abortUnit t w d (unitCode w) h.r.s)) ∧
        (h.cause = none →
          (sameOut a c = true → exec (.thirdPass t id w3) s = .next (commitOut t w a h.merged h.r.buf (odd3 1))) ∧
          (sameOut a c = false → sameOut b c = true →
            exec (.thirdPass t id w3) s = .next (commitOut t w b h.merged h.r.buf (odd3 0))) ∧
          (sameOut a c = false → sameOut b c = false → exec (.thirdPass t id w3) s =
            .next (abortUnit t w 4 (unitCode w) (noMajority p (unitCode w) 1 false id.toNat w.strip x))))))

/-- R202, R212, R214, R216, R237, R262, one strip of VADD, VSUB, VMUL, VAND, VOR or VXOR on INT64 streams of stride 1 in the tile store,
in mode SINGLE and without a predicate: element k of the strip is the result of elements k of a and b, tagged INT; no other word of the
store, no other tile and no line of HBM changes; the next strip is due, or the instruction has completed. The words of a and b are INT,
RAW or FLT and without errors, and d shares no word with them (R242). -/
def Obligations.StripOfWords : Prop :=
  ∀ (t : Nat) (ups : Upset) (s : State) (u : VUnit) (dw aw bw : Nat) (f : Word → Word → Word), t < nTiles s →
    let tl := getTile s t
    let word (w : Nat) : SWord := tl.store.cell w
    let n := min u.vl (256 * (u.strip + 1)) - 256 * u.strip
    let stream (c : CStream) (w : Nat) : Prop := c.remote = false ∧ c.ety = 3 ∧ c.stride = 1 ∧ c.offset % 8 = 0 ∧ 0 ≤ c.offset ∧
      grants c.desc = true ∧ c.desc.space = 0 ∧ c.desc.base.toNat % 8 = 0 ∧ w * 8 = c.desc.base.toNat + c.offset.toNat
    let i := 256 * u.strip
    (u.vop, f) ∈ [((0x01 : BitVec 8), fun x y => x + y), (0x02, fun x y => x - y), (0x03, fun x y => x * y), (0x12, fun x y => x &&& y),
      (0x13, fun x y => x ||| y), (0x14, fun x y => x ^^^ y)] →
    unitOf tl u.id = some u → u.started = true → u.parked = false → u.disputed = none → u.refused = false → u.remoteLeft = 0 →
    u.pred = false → u.mode = 0 → u.cls = 0 → u.buf = [] → u.pipes.any tl.waking.contains = false → i < u.vl →
    (∃ d a b, u.ops = [d, a, b] ∧ stream d dw ∧ stream a aw ∧ stream b bw) → bit (tl.reg 0x0F8) 31 = false → tl.eng.resume = false →
    (∀ k, k < n → (word (aw + i + k)).err = 0 ∧ (word (bw + i + k)).err = 0 ∧ (word (aw + i + k)).tag.toNat < 3 ∧
      (word (bw + i + k)).tag.toNat < 3 ∧ ∀ j, j < n → dw + i + j ≠ aw + i + k ∧ dw + i + j ≠ bw + i + k) →
    ∃ x, exec (.stripCommit t u.id ups) s = .next x ∧
      (∀ k, k < n → (getTile x t).store.cell (dw + i + k) = ⟨f (word (aw + i + k)).data (word (bw + i + k)).data, 1, 0⟩) ∧
      (∀ w, ¬ (dw + i ≤ w ∧ w < dw + i + n) → (getTile x t).store.cell w = word w) ∧
      (∀ p, p ≠ physOf s t → getP x p = getP s p) ∧ x.hbm = s.hbm ∧ (getTile x t).eng = tl.eng ∧
      (u.vl ≤ 256 * (u.strip + 1) → unitOf (getTile x t) u.id = none) ∧
      (256 * (u.strip + 1) < u.vl → ∃ v, unitOf (getTile x t) u.id = some v ∧ v.strip = u.strip + 1)

/-- R131 to R134, R165, R300, R303, R305, R312, the words of rounds. RLOAD of a sheet that passes the checks of R300 puts it in the
lowest free slot, advances that slot's generation, pushes the SHEET and clears V; a sheet that fails pushes the status and the entry
index, sets V and changes nothing else. RCALL refuses with the first status of R305 and V, accepts n = 0 without a round, and accepts any
other count as a round that waits to start. RWAIT and RCALL wait while a round runs, RCALL after its operands have been checked and at no
boundary; both fault in a handler when the round is parked. R41, R292, R297, R298, R305 to R311, R313, R396, R702, the events of a round. A
window whose pipes are awake and free and whose tokens are set is replayed under the sheet's owners, before the first one after a start
the implied reads that precede it: the round runs, its next window is due, and a hand-over follows; a failing strip aborts the round.
Tokens that are not set defer the window by a period and count in TR_STALLS; the throttle defers every window once; a strip that fails
meanwhile aborts the round as one of the last window that ran. A round that waits to
start wakes its sleeping pipes. A cause that is due parks it. After its last window ROUND_END sets DONE, clears TR_RESUME and raises the
tile's chute, or aborts the round when a strip in flight fails. A post-box fetch whose lines have all arrived sets its token. Stated where
no fetch is due. -/
def Obligations.Rounds : Prop :=
  (∀ (t : Nat) (s s1 s2 s3 : State) (h n a : TWord) (r : List TWord) (d : Desc) (hd body : List (BitVec 128)),
      let e : EngineId := .tile t
      let cr := longCtx e (wspec 0x4B 0 1 1 1 1)
      let seg := codeSeg a.data
      let off := codeOff a.data
      let es := hd ++ body
      let cycles := 5 + cdiv body.length 16
      let v (b : Bool) (x : Engine) : Flags := { x.flags with v := b }
      let rd (need : NM Desc) (s s' : State) : Prop := need.run s = .ok d s'
      (longReady e (wspec 0x4B 0 1 1 1 1) s = some s1 → (getEng s1 e).ds = a :: r → a.tag = 3 → (getEng s1 e).sb = [] →
        rd (accessCheck cr 1 (fun d => d.sheet) false seg off 64) s1 s2 → (readEntries cr d seg off 4).run s2 = .ok hd s3 →
        body.length = ((nthD 0 hd 0).toNat / 2 ^ 32 % 2 ^ 16) → 1 ≤ body.length → body.length ≤ 2048 →
        ∀ s4 s5, rd (accessCheck cr 1 (fun d => d.sheet) false seg off (64 + 16 * body.length)) s3 s4 →
        (readEntries cr d seg (off + 64) body.length).run s4 = .ok body s5 → (getEng s5 e).ds = a :: r →
        let s6 := updEng s5 e (fun x => { x with cycles := x.cycles + BitVec.ofNat 64 cycles })
        let tl := getTile s6 t
        let ten := (tl.owner.map (·.1)).getD 0
        (∀ code i, sheetCheck s6 t ten (freeSlot tl).isNone es = some (code, i) →
          exec (.rload e) s = engNext s6 e (fun x => nextWord 1
            { x with ds := ⟨BitVec.ofNat 64 (i * 2 ^ 16 + code), 1⟩ :: r, flags := v true x })) ∧
        (∀ k, sheetCheck s6 t ten (freeSlot tl).isNone es = none → freeSlot tl = some k →
          ∃ x, exec (.rload e) s = .next x ∧ sheetAt (getTile x t) k = ⟨true, (sheetAt tl k).gen + 1, es⟩ ∧
            (∀ j, j ≠ k → sheetAt (getTile x t) j = sheetAt tl j) ∧
            getEng x e = nextWord 1 { getEng s6 e with
              ds := ⟨BitVec.ofNat 64 (((sheetAt tl k).gen + 1).toNat * 2 ^ 8 + k), 6⟩ :: r, flags := v false (getEng s6 e) } ∧
            (∀ p, p ≠ physOf s6 t → getP x p = getP s6 p) ∧ (getTile x t).store = tl.store)) ∧
      (longReady e (wspec 0x4C 0 4 2 2 0) s = some s1 → (getEng s1 e).ds = h :: n :: r → h.tag = 6 → numeric n →
        n.data.toNat < 2 ^ 32 → (getEng s1 e).sb = [] →
        let tl := getTile s1 t
        (∀ q, tl.round = some q →
          (q.st = 4 → 0 < tl.eng.hlevel → exec (.rcall e) s = .next (syncFault e ⟨5, 0, h.data⟩ s1)) ∧
          (q.st ≠ 4 ∨ tl.eng.hlevel = 0 → exec (.rcall e) s = engNext s1 e (fun x => { x with busy := true }))) ∧
        (tl.round = none →
        (∀ code, callStatus tl h.data n.data.toNat = some code →
          exec (.rcall e) s = engNext s1 e (fun x => nextWord 4 { x with ds := ⟨BitVec.ofNat 64 code, 1⟩ :: r, flags := v true x })) ∧
        (callStatus tl h.data n.data.toNat = none → n.data = 0 →
          exec (.rcall e) s = engNext s1 e (fun x => nextWord 4 { x with ds := r, flags := v false x })) ∧
        (callStatus tl h.data n.data.toNat = none → n.data ≠ 0 → tl.eng.resume = false →
          (parseSheet (sheetAt tl (h.data.toNat % 256)).entries).posts = [] →
          ∃ x q, exec (.rcall e) s = .next x ∧ (getTile x t).round = some q ∧ q.slot = h.data.toNat % 256 ∧ q.iters = n.data.toNat ∧
            q.st = 1 ∧ q.window = 0 ∧ q.tokens = [] ∧ getEng x e = nextWord 4 { getEng s1 e with ds := r, flags := v false (getEng s1 e) } ∧
            (getTile x t).store = tl.store ∧ (∀ p, p ≠ physOf s1 t → getP x p = getP s1 p)))) ∧
      (waitReady e (wspec 0x4D 0 2 0 0 0) rwaitReady s = some s1 →
        exec (.rwait e) s = engNext s1 e (fun x => nextWord 2 { x with lines := [], known := x.cycles })) ∧
      (waitHolds e (wspec 0x4D 0 2 0 0 0) rwaitReady s = some s1 →
        exec (.rwait e) s = engNext s1 e (fun x => { x with waiting := true, mid := true, busy := false })) ∧
      (∀ q, longReady e (wspec 0x4D 0 2 0 0 0) s = some s1 → (getEng s e).mid = false → (getEng s e).busy = false → (getEng s e).annulled = false →
        (getTile s1 t).round = some q → q.st = 4 → 0 < (getEng s1 e).hlevel →
        exec (.rwait e) s = .next (syncFault e ⟨5, 0, 0⟩ s1))) ∧
  (∀ (t : Nat) (ups : List (Nat × Nat × Upset)) (tok : BitVec 4) (s s1 : State) (r : Round) (q : Replay), t < nTiles s →
      let tl := getTile s t
      let x := rxOf t r ups s
      let codes := sheetCodes (sheetAt tl r.slot)
      let ready : Prop := bit (tl.reg 0x004) 0 = false ∧ ∀ c ∈ codes, (unitCodes tl).contains c = false ∧ pipeAwake tl c = true
      let due : Prop := dueCauses tl = [] ∧ r.window < windowsOf x ∧ (r.iters ≤ r.nextFetch ∨ r.window + x.v.lead < r.nextFetch)
      let begun := setOwners t (some x.v.owners) (passBoundary t s)
      let q0 := if r.replay.since = r.window then leadReads x (begun, r.replay) else (begun, r.replay)
      let ran (c : Instr) : Prop :=
        (throttled t s = true → r.spaced = false → roundRun x .none x.v.period (s, r.replay) = (s1, q) →
          let u := putRound t { r with spaced := true, replay := shiftReplay x.v.period q } s1
          exec c s = .next (if q.fail = none then u else settleRound t u)) ∧
        (throttled t s = false ∨ r.spaced = true →
          (tokensSet x r r.window = true → roundRun x .all x.v.period q0 = (s1, q) → q.fail = none →
            let u := putRound t { r with st := 2, window := r.window + 1, spaced := false, replay := shiftReplay x.v.period q } s1
            exec c s = .next (handOver x.p true (passBoundary t (if windowsOf x ≤ r.window + 1 then setOwners t none u else u)))) ∧
          (tokensSet x r r.window = false → roundRun x .none x.v.period (s, r.replay) = (s1, q) →
            let u := updP (putRound t { r with st := 3, spaced := true, replay := shiftReplay x.v.period q } s1) x.p
              (fun y => y.setReg 0x420 (y.reg 0x420 + 1))
            exec c s = .next (if q.fail = none then u else settleRound t u)) ∧
          (∀ f, tokensSet x r r.window = true → (roundRun x .all x.v.period q0).2.fail = some f →
            ∃ y, exec c s = .next y ∧ (getTile y t).round = none ∧ bit ((getTile y t).reg 0x300) 3 = true))
      let drained (f : Option RFail) : Prop := ∀ z, (getTile (drainRound t s) t).round = some z → z.replay.fail = f
      tl.round = some r →
      (r.st = 1 → due → ready → ran (.roundWindow0Start t ups)) ∧
      (r.st = 1 → due → ¬ ready → ∃ y, exec (.roundWindow0Start t ups) s = .next y ∧ (getTile y t).round = some r ∧
        (∀ c ∈ codes, c < 10 → pipeAwake tl c = false → c ∈ (getTile y t).waking) ∧ (getTile y t).store = tl.store) ∧
      (r.st = 2 ∨ r.st = 3 → due → ran (.roundWindowStart t ups)) ∧
      (r.st = 1 ∨ r.st = 2 ∨ r.st = 3 → dueCauses tl ≠ [] → tl.eng.resume = false → drained none →
        ∃ y z, (if r.st = 1 then exec (.roundWindow0Start t ups) s else exec (.roundWindowStart t ups) s) = .next y ∧
          (getTile y t).round = some z ∧ z.st = 4 ∧ z.window = r.window ∧ z.tokens = r.tokens) ∧
      (r.st = 2 → windowsOf x ≤ r.window → drained none →
        ∃ y, exec (.roundEnd t) s = .next y ∧ (getTile y t).round = none ∧ bit ((getTile y t).reg 0x400) 0 = true ∧
          (getTile y t).reg 0x418 = 0 ∧ (getChute y t).pending = true) ∧
      (∀ f, r.st = 2 → windowsOf x ≤ r.window → drained (some f) → ∃ y, exec (.roundEnd t) s = .next y ∧ (getTile y t).round = none ∧
        bit ((getTile y t).reg 0x300) 3 = true ∧ bit ((getTile y t).reg 0x400) 0 = bit ((getTile (drainRound t s) t).reg 0x400) 0) ∧
      (r.st ≠ 2 ∨ r.window < windowsOf x → exec (.roundEnd t) s = .next s) ∧
      (∀ f i, r.fetches.find? (fun f => f.1 == tok.toNat && f.2.2 == 0) = some f → f.2.1 = i →
        ∃ y z, exec (.postboxFetchDone t tok) s = .next y ∧ (getTile y t).round = some z ∧
          z.tokens = r.tokens ++ [(tok.toNat, i % copiesOf x.v)] ∧ z.fetches = r.fetches.erase f ∧
          (r.st = 1 ∨ r.st = 4 → (getChute y t).pending = true) ∧ (getTile y t).store = tl.store) ∧
      (r.fetches.all (fun f => f.1 != tok.toNat || f.2.2 != 0) = true → exec (.postboxFetchDone t tok) s = .next s))

/-- R327, R328, the prism map: for k from 0 to 20, the 128 lines L0 + j × 2^k of a LOCAL segment, and the 1,024 of a GLOBAL one, whose
first has bits k + 6 to k, or k + 9 to k, zero, lie on distinct pseudo-channels; and each lies on a pseudo-channel of the die, or of the
package. -/
def Obligations.PrismSpread : Prop :=
  ∀ (d : Desc) (k l0 i j : Nat), k ≤ 20 →
    (d.global = false → l0 / 2 ^ k % 128 = 0 → i < 128 → j < 128 →
      (linePlace d (l0 + i * 2 ^ k)).1 = (linePlace d (l0 + j * 2 ^ k)).1 → i = j) ∧
    (d.global = true → l0 / 2 ^ k % 1024 = 0 → i < 1024 → j < 1024 →
      (linePlace d (l0 + i * 2 ^ k)).1 = (linePlace d (l0 + j * 2 ^ k)).1 → i = j) ∧
    (d.global = false → (linePlace d l0).1 / 128 = d.homedie.toNat) ∧ (d.global = true → (linePlace d l0).1 < 1024)

/-- R270 to R278, R322, R335, R336, R356, the positions of the post cycle. A boundary begins a new post cycle, switches a checked plan
in and brings the scrub rates that were written into force (R23, R24). A counter slot is granted to the first requester from the pointer that has a request, whose earliest request it serves, and the
pointer moves past it; a fixed or a scheduled position, and one that a read-modify-write holds, does nothing for it. A fill writes zero
INT, a pool rewrite the unwritten state. The write half of an atomic stores the held line. Stated with no repair asked and no injection
armed. -/
def Obligations.PostCyclePositions : Prop :=
  ∀ (pc pos n r j : Nat) (s : State) (q : HReq) (b : Job) (pl : Plan) (p : Option Place), pc < 1024 → pos < 1024 → postCyclesRun s = true →
    let c := getChan s pc
    let pool : Prop := pos % 16 ≠ 15 ∧ pos % 64 ≠ 7 ∧ pos % 64 ≠ 39 ∧ planTenant s.plan (pc / 128) pos = none
    let scan (i : Nat) : Nat := (c.ptr + i) % 131
    let asks (n : Nat) : Bool := c.reqs.any (fun q => q.requester == n)
    let granted := updChan s pc (fun c => { c with ptr := (n + 1) % 131, reqs := c.reqs.erase q })
    let only (u : State) (r : Nat) (l : HLine) : Prop :=
      getLine u pc r = l ∧ ∀ pc' r', lineKey pc' r' ≠ lineKey pc r → getLine u pc' r' = getLine s pc' r'
    let rates (u : State) : Prop := ∀ k, k < 16 → getStack u k = { getStack s k with rate := fld (hcReg s k 0x008) 28 24 }
    (exec (.hbmRefresh pc pos) s = .next s) ∧
    ((∀ k, k < 16 → bit (hcReg s k 0x010) 31 = false) →
      ((s.nextPlan = none → ∃ u, exec .postCycleBoundary s = .next u ∧ u = { s with postCycle := s.postCycle + 1, hcStacks := u.hcStacks } ∧
          rates u) ∧
        (s.nextPlan = some (pl, p) → (∀ a, p = some a → running s a = none) → ∃ u, exec .postCycleBoundary s = .next u ∧
          u = { s with postCycle := s.postCycle + 1, plan := pl, nextPlan := none, hcStacks := u.hcStacks } ∧ rates u))) ∧
    (¬ pool ∨ c.held.isSome = true ∨ c.reqs.all (fun q => decide (131 ≤ q.requester)) = true →
      exec (.counterSlot pc pos) s = .next s) ∧
    (pool → c.held = none → n < 131 → asks n = true → (∃ i, i < 131 ∧ scan i = n ∧ ∀ m, m < i → asks (scan m) = false) →
      c.reqs.find? (fun q => q.requester == n) = some q →
      exec (.counterSlot pc pos) s = .next (serveSlot pc q granted) ∧
      (q.op = .job j → jobOf s j = some b → q.r = r → bit (hcReg s (pc / 64) 0x028) 31 = false →
        (b.kind = .fill → only (serveSlot pc q granted) r ⟨0, BitVec.ofNat 32 0x11111111, 0, keyAt s b.tenant b.keyidx pc r⟩) ∧
        (b.kind = .unwritten → only (serveSlot pc q granted) r HLine.unwritten))) ∧
    (c.held = none → exec (.atomicLineWrite pc) s = .next s) ∧
    (∀ h, c.held = some h → h.job = none → h.written = false → bit (hcReg s (pc / 64) 0x028) 31 = false →
      ∃ u, exec (.atomicLineWrite pc) s = .next u ∧ (getChan u pc).held = none ∧ only u h.r h.line ∧ (getChan u pc).reqs = c.reqs)

/-- R319, R338, R339, R347, R348, R351 to R355, R700, the upkeep of HBM. A used scrub position reads and moves the cursor, and writes
nothing; a corrected line is written back without its errors; an uncorrectable one becomes a POISON line; a repaired unit is mapped to a
spare, is recorded as a soft fuse and keeps its lines; a temperature is recorded, and at its limit sets HOT and the alert. Stated with no
injection armed; the repair for lines without errors; the temperature below 105 °C. R53, R56, R64 to R66, R69 to R73, R85, the upkeep of
a tile store. A fill leaves every word zero INT and ends; a scrub attempt under the TS_SCRUB in force (R23), of words without errors moves on to the next row and changes no
word; a write-back stores the corrected words of one row; at a data-face boundary a repair moves a row whose words are without errors to a spare and changes none
of them, adding an entry to the soft-fuse table, or is refused for want of a spare. Stated with no injection armed. -/
def Obligations.MemoryUpkeep : Prop :=
  (∀ (pc pos stack u : Nat) (temp : BitVec 8) (s : State), pc < 1024 → pos < 1024 → stack < 16 → postCyclesRun s = true →
      let c := getChan s pc
      let cur := fld (hcReg s stack 0x00C) 23 0
      let g := hcReg s stack 0x010
      let rp := 64 * stack + fld g 30 25
      let only (x : State) (r : Nat) (l : HLine) : Prop :=
        getLine x pc r = l ∧ ∀ pc' r', lineKey pc' r' ≠ lineKey pc r → getLine x pc' r' = getLine s pc' r'
      (pos % 64 ≠ 7 ∨ (getStack s stack).rate ≤ pos / 64 → exec (.hbmScrubPosition stack pos) s = .next s) ∧
      (pos % 64 = 7 → pos / 64 < (getStack s stack).rate → ∃ x, exec (.hbmScrubPosition stack pos) s = .next x ∧ x.hbm = s.hbm ∧
        (hcReg x stack 0x00C).toNat = if cur + 1 < userLines s then cur + 1 else 0) ∧
      (bit (hcReg s (pc / 64) 0x028) 31 = false →
        (c.writeBacks = [] → exec (.hbmCorrectionWriteback pc) s = .next s) ∧
        (∀ r l, c.writeBacks = r :: l → ∃ x, exec (.hbmCorrectionWriteback pc) s = .next x ∧
          only x r ⟨(checkLine (getLine s pc r)).2.1, (checkLine (getLine s pc r)).2.2, 0, (getLine s pc r).key⟩ ∧
          (∀ a, a ∈ (getChan x pc).writeBacks ↔ a ∈ c.writeBacks ∧ a ≠ r)) ∧
        (c.poison = [] → exec (.hbmPoisonRewrite pc) s = .next s) ∧
        (∀ r l, c.poison = r :: l → ∃ x, exec (.hbmPoisonRewrite pc) s = .next x ∧
          only x r ⟨0, BitVec.ofNat 32 0xFFFFFFFF, 0, .raw⟩ ∧ (∀ a, a ∈ (getChan x pc).poison ↔ a ∈ c.poison ∧ a ≠ r))) ∧
      ((getChan s rp).copying = none → exec (.hbmRepairDone stack) s = .next s) ∧
      ((getChan s rp).copying = some u → bit (hcReg s stack 0x028) 31 = false → (∀ i, i < 16 → getLine s rp (16 * u + i) = HLine.unwritten ∨ (getLine s rp (16 * u + i)).err = 0) →
        ∃ x, exec (.hbmRepairDone stack) s = .next x ∧ (∀ c r, getLine x c r = getLine s c r) ∧ (getChan x rp).copying = none ∧
          (getChan x rp).sparesUsed = (getChan s rp).sparesUsed + 1 ∧ u ∈ (getChan x rp).spared ∧
          x.sys.softUnits = s.sys.softUnits ++ [(rp, u)] ∧ bit (hcReg x stack 0x010) 31 = false ∧ fld (hcReg x stack 0x010) 4 3 = 1 ∧
          bit (hcReg x stack 0x004) 0 = false ∧ bit (hcReg x stack 0x004) 2 = true) ∧
      (temp.toNat < 105 → ∃ x, exec (.stackTempRead stack temp) s = .next x ∧ fld (hcReg x stack 0x018) 7 0 = temp.toNat ∧
        fld (hcReg x stack 0x018) 23 16 = fld (hcReg s stack 0x018) 23 16 ∧
        (fld (hcReg s stack 0x018) 23 16 ≤ temp.toNat → bit (hcReg x stack 0x004) 6 = true ∧ x.sys.thermAlert = true) ∧
        x.hbm = s.hbm ∧ x.tiles = s.tiles)) ∧
  (∀ (t bank w : Nat) (s : State), t < nTiles s → bank < 16 → bit ((getTile s t).reg 0x0F8) 31 = false →
      let tl := getTile s t
      let st := tl.reg 0x004
      let g := tl.reg 0x0E0
      let b := fld g 30 27
      let row := 1024 * b + fld g 26 17
      let nxt := scrubNext (tl.reg 0x008) tl.scrubRow
      let sound (r : Nat) : Prop := ∀ i, i < 32 → (tl.store.cell (32 * r + i)).err = 0
      let others (u : State) : Prop := (∀ p, p ≠ physOf s t → getP u p = getP s p) ∧ u.hbm = s.hbm
      let ended (u : State) (result : Nat) : Prop := bit ((getTile u t).reg 0x0E0) 31 = false ∧ fld ((getTile u t).reg 0x0E0) 16 15 = result ∧
        bit ((getTile u t).reg 0x004) 3 = true ∧ bit ((getTile u t).reg 0x004) 1 = false
      (bit st 0 = false → exec (.fillDone t) s = .next s) ∧
      (bit st 0 = true → ∃ u, exec (.fillDone t) s = .next u ∧ (∀ w, (getTile u t).store.cell w = ⟨0, 1, 0⟩) ∧
        bit ((getTile u t).reg 0x004) 0 = false ∧ bit ((getTile u t).reg 0x004) 2 = true ∧ (getTile u t).eng = tl.eng ∧ others u) ∧
      (bit (setupOf tl).2 31 = false ∨ tl.owner = none ∨ bit st 0 = true ∨ inDoze s = true →
        exec (.tileScrubAttempt t) s = .next s) ∧
      (bit (setupOf tl).2 31 = true → tl.owner.isSome = true → bit st 0 = false → inDoze s = false → sound nxt →
        exec (.tileScrubAttempt t) s = .next (updTile s t (fun x => { x with scrubRow := (nxt + 1) % 16384 })) ∧
        (tl.scrubRow ≤ nxt ∨ nxt = 0x3FF0) ∧ ((tl.reg 0x008).getLsbD (nxt / 1024) = true ∨ 0x3FF0 ≤ nxt)) ∧
      (tl.writeBacks.all (fun v => v / 32768 != bank) = true → exec (.tsCorrectionWriteback t bank) s = .next s) ∧
      (tl.writeBacks.find? (fun v => v / 32768 == bank) = some w → ∃ u, exec (.tsCorrectionWriteback t bank) s = .next u ∧
        (∀ v, (getTile u t).store.cell v =
          if v ∈ tl.writeBacks ∧ v / 32 = w / 32 then ⟨(checkWord (tl.store.cell v)).2.data, (checkWord (tl.store.cell v)).2.tag, 0⟩
          else tl.store.cell v) ∧
        (getTile u t).writeBacks = tl.writeBacks.filter (fun v => v / 32 != w / 32) ∧ others u) ∧
      (bit g 31 = false ∨ bit st 0 = true ∨ tileBoundary tl = false → exec (.tileRowRepair t) s = .next s) ∧
      (bit g 31 = true → bit st 0 = false → tileBoundary tl = true →
        (32 ≤ tget (fun _ => 0) tl.sparesUsed b → ∃ u, exec (.tileRowRepair t) s = .next u ∧ ended u 2 ∧ (getTile u t).store = tl.store) ∧
        (tget (fun _ => 0) tl.sparesUsed b < 32 → sound row → ∃ u, exec (.tileRowRepair t) s = .next u ∧ ended u 1 ∧
          (∀ w, (getTile u t).store.cell w = tl.store.cell w) ∧ row ∈ (getTile u t).spared ∧ u.sys.softRows = s.sys.softRows ++ [(physOf s t, row)] ∧
          tget (fun _ => 0) (getTile u t).sparesUsed b = tget (fun _ => 0) tl.sparesUsed b + 1 ∧ others u)))

/-- R54, R63, R69, R73, R81, R395, and the clears of R58 and R400: what a postmaster's register commands write in a tile's TS, TV, TR and
TF registers, and what a refused one writes. Nothing else changes. R162, R191 to R193: START of an engine that is not running and has no
double fault starts or resumes it; START while it runs, together with HALT_REQ, or after a double fault changes only CFG_REJECT; HALT_REQ
is set; TX_DINV with GO on an engine that is not running discards the descriptor named, or all, at once, and on a running one stays
pending; a change of SEG or ALL while GO is 1 is refused. -/
def Obligations.TileAndEngineRegisters : Prop :=
  (∀ (m : Master) (t : Nat) (bank : BitVec 4) (row : BitVec 10) (word : BitVec 5) (free : BitVec 8) (data : BitVec 32) (z : State),
      t < nTiles z → mxOpen m (.tile t) z →
      let s := movePtr (targetOf (.tile t)) m z
      let x := getTile s t
      let r (u : State) (o : Nat) : BitVec 32 := (getTile u t).reg o
      let reject (c : Instr) (o b : Nat) : Prop := ∃ u, exec c z = .next u ∧ tileRegs s u t [o] ∧ r u o = setBit (x.reg o) b
      (x.eng.runstate ≠ 1 → x.round = none → x.units = [] → ∃ u, exec (.tsFillGo m t) z = .next u ∧ tileRegs s u t [0x0E4, 0x004] ∧
        bit (r u 0x0E4) 31 = true ∧ r u 0x004 = setBit (x.reg 0x004) 0) ∧
      (x.eng.runstate = 1 ∨ x.round.isSome = true ∨ x.units ≠ [] → reject (.tsFillGo m t) 0x004 6) ∧
      (bit (x.reg 0x0E0) 31 = false ∨ (fld (x.reg 0x0E0) 30 27 = bank.toNat ∧ fld (x.reg 0x0E0) 26 17 = row.toNat) →
        ∃ u, exec (.tsRepairGo m t bank row) z = .next u ∧ tileRegs s u t [0x0E0, 0x004] ∧ bit (r u 0x0E0) 31 = true ∧
          fld (r u 0x0E0) 30 27 = bank.toNat ∧ fld (r u 0x0E0) 26 17 = row.toNat ∧ fld (r u 0x0E0) 16 0 = fld (x.reg 0x0E0) 16 0 ∧
          r u 0x004 = setBit (x.reg 0x004) 1) ∧
      (bit (x.reg 0x0E0) 31 = true → ¬ (fld (x.reg 0x0E0) 30 27 = bank.toNat ∧ fld (x.reg 0x0E0) 26 17 = row.toNat) →
        reject (.tsRepairGo m t bank row) 0x004 6) ∧
      (∃ u, exec (.tsClogClear m t) z = .next u ∧ tileRegs s u t (0x0F0 :: (List.range 16).map (fun e => 0x100 + 8 * e)) ∧
        fld (r u 0x0F0) 3 0 = 0 ∧ fld (r u 0x0F0) 31 16 = fld (x.reg 0x0F0) 31 16 ∧
        ∀ e, e < 16 → r u (0x100 + 8 * e) = clrBit (x.reg (0x100 + 8 * e)) 31) ∧
      (∃ u, exec (.tsInjectArm m t bank row word) z = .next u ∧ tileRegs s u t [0x0F8] ∧ bit (r u 0x0F8) 31 = true ∧
        fld (r u 0x0F8) 22 19 = bank.toNat ∧ fld (r u 0x0F8) 18 9 = row.toNat ∧ fld (r u 0x0F8) 8 4 = word.toNat) ∧
      (∃ u, exec (.tsUeSeenClear m t) z = .next u ∧ tileRegs s u t [0x004, 0x0F4] ∧ r u 0x004 = clrBit (x.reg 0x004) 5 ∧
        r u 0x0F4 = clrBit (x.reg 0x0F4) 31) ∧
      (∃ u, exec (.tvAbortedClear m t) z = .next u ∧ tileRegs s u t [0x300, 0x318, 0x414] ∧ r u 0x300 = clrBit (x.reg 0x300) 3 ∧
        r u 0x318 = clrBit (x.reg 0x318) 31 ∧ r u 0x414 = clrBit (x.reg 0x414) 31) ∧
      (fld data 1 0 ≠ 3 → fld data 3 2 ≤ fld data 1 0 → fld data 31 4 = 0 → ∃ u, exec (.tfCtrlWrite m t data) z = .next u ∧
        tileRegs s u t [0x500] ∧ fld (r u 0x500) 3 0 = fld data 3 0 ∧ fld (r u 0x500) 31 4 = fld (x.reg 0x500) 31 4) ∧
      (fld data 3 2 = 3 ∨ fld data 1 0 = 3 ∨ fld data 1 0 < fld data 3 2 → reject (.tfCtrlWrite m t data) 0x504 4) ∧
      (∃ u, exec (.tfLogClear m t) z = .next u ∧ tileRegs s u t (0x514 :: (List.range 16).map (fun e => 0x580 + 8 * e)) ∧
        fld (r u 0x514) 3 0 = 0 ∧ fld (r u 0x514) 31 16 = fld (x.reg 0x514) 31 16 ∧
        ∀ e, e < 16 → r u (0x580 + 8 * e) = clrBit (x.reg (0x580 + 8 * e)) 31) ∧
      ((∀ p, x.round = some p → free.getLsbD p.slot = false) → ∃ u, exec (.trSheetsFree m t free) z = .next u ∧ tileOnly s u t ∧
        getTile u t = { x with sheets := (getTile u t).sheets } ∧
        ∀ i, i < 8 → sheetAt (getTile u t) i = if free.getLsbD i then ⟨false, (sheetAt x i).gen + 1, []⟩ else sheetAt x i) ∧
      (∀ p, x.round = some p → free.getLsbD p.slot = true → reject (.trSheetsFree m t free) 0x400 4)) ∧
  (∀ (m : Master) (t : Nat) (all : Bool) (seg : BitVec 12) (z : State),
      t < nTiles z → mxOpen m (.tile t) z →
      let s := movePtr (targetOf (.tile t)) m z
      let x := getTile s t
      let r (u : State) (o : Nat) : BitVec 32 := (getTile u t).reg o
      let reject (c : Instr) : Prop := ∃ u, exec c z = .next u ∧ tileRegs s u t [0x204] ∧ r u 0x204 = setBit (x.reg 0x204) 31
      let same : Prop := bit (x.reg 0x208) 30 = all ∧ fld (x.reg 0x208) 11 0 = seg.toNat
      (x.eng.runstate ≠ 1 → x.eng.dfault = false → ∃ u, exec (.txStart m t false) z = .next u ∧ tileOnly s u t ∧
        (getTile u t).eng = { x.eng with runstate := 1, known := x.eng.cycles } ∧ (getTile u t).store = x.store ∧ r u 0x200 = x.reg 0x200 ∧
        (x.stops = [] → (∀ v ∈ x.units, 1 ∉ v.holds) → (∀ v, x.round = some v → 1 ∉ v.holds) → getTile u t = { x with eng := { x.eng with runstate := 1, known := x.eng.cycles }, regs := (getTile u t).regs })) ∧
      (x.eng.runstate = 1 ∨ x.eng.dfault = true → reject (.txStart m t false)) ∧ reject (.txStart m t true) ∧
      (∃ u, exec (.txHaltReq m t) z = .next u ∧ tileRegs s u t [0x200] ∧ r u 0x200 = setBit (x.reg 0x200) 1) ∧
      (bit (x.reg 0x208) 31 = false ∨ same → ∃ u, exec (.txDinvGo m t all seg) z = .next u ∧ tileOnly s u t ∧
        bit (r u 0x208) 30 = all ∧ fld (r u 0x208) 11 0 = seg.toNat ∧ (∀ o, o ≠ 0x208 → r u o = x.reg o) ∧
        (x.eng.runstate = 1 → bit (r u 0x208) 31 = true ∧ (getTile u t).eng = x.eng) ∧
        (x.eng.runstate ≠ 1 → bit (r u 0x208) 31 = false ∧ (getTile u t).eng =
          { x.eng with dcache := if all then [] else x.eng.dcache.filter (fun p => p.1 != seg) })) ∧
      (bit (x.reg 0x208) 31 = true → ¬ same → reject (.txDinvGo m t all seg)))

/-- R339, R341, R345, R351, R354, R360, R714: HC_REPAIR with GO arms the repair of the unit named, or ends at once with RESULT 2 where
the pseudo-channel has no spare unit; a write that would change PC or UNIT while GO is 1 is refused; the clears and the injection arm.
R601, R603 to R606, R641, R642, R660, R714, register commands of a postmaster on the system blocks. A fuse commit with a TARGET above the
fused SVN sets GO and BUSY; one that the rules reserve leaves TARGET; a flash operation starts, or sets ERROR where it passes the end of
the device, is not aligned, or would change the active image; PM_FENCE_GO engages the fence, which a fenced device ignores; the timeout
record is cleared; a general write of a steward's register writes each RW field but one with a reserved value, clears W1C bits and leaves
RO fields, and sets CFG_REJECT exactly where a reserved value or bit was written. (The block that a general write reaches is decoded from
its address.) -/
def Obligations.SystemRegisters : Prop :=
  (∀ (m : Master) (k : Nat) (pc : BitVec 6) (unit : BitVec 20) (line : BitVec 24) (z : State), k < 16 → mxOpen m (.hc k) z →
      let s := movePtr (targetOf (.hc k)) m z
      let old := hcReg s k 0x010
      let go : Instr := .hcRepairGo m k pc unit
      let same : Prop := fld old 30 25 = pc.toNat ∧ fld old 24 5 = unit.toNat
      let set (u : State) : Prop := fld (hcReg u k 0x010) 30 25 = pc.toNat ∧ fld (hcReg u k 0x010) 24 5 = unit.toNat
      (bit old 31 = false → unit.toNat < hcUnits s → (getChan s (64 * k + pc.toNat)).sparesUsed < 1024 →
        ∃ u, exec go z = .next u ∧ hcRegs s u k [0x010, 0x004] ∧ bit (hcReg u k 0x010) 31 = true ∧ set u ∧
          fld (hcReg u k 0x010) 4 0 = fld old 4 0 ∧ hcReg u k 0x004 = setBit (hcReg s k 0x004) 0) ∧
      (bit old 31 = false → unit.toNat < hcUnits s → 1024 ≤ (getChan s (64 * k + pc.toNat)).sparesUsed →
        ∃ u, exec go z = .next u ∧ bit (hcReg u k 0x010) 31 = false ∧ set u ∧ fld (hcReg u k 0x010) 4 3 = 2 ∧
          hcReg u k 0x004 = setBit (clrBit (hcReg s k 0x004) 0) 2 ∧ u.chans = s.chans ∧ u.hbm = s.hbm) ∧
      (bit old 31 = true → ¬ same → ∃ u, exec go z = .next u ∧ hcRegs s u k [0x004] ∧ hcReg u k 0x004 = setBit (hcReg s k 0x004) 7) ∧
      (bit old 31 = true → same → unit.toNat < hcUnits s → ∃ u, exec go z = .next u ∧ hcRegs s u k []) ∧
      (∃ u, exec (.hcClogClear m k) z = .next u ∧ hcRegs s u k (0x01C :: (List.range 64).map (fun e => 0x400 + 16 * e)) ∧
        fld (hcReg u k 0x01C) 5 0 = 0 ∧ fld (hcReg u k 0x01C) 31 16 = fld (hcReg s k 0x01C) 31 16 ∧
        ∀ e, e < 64 → hcReg u k (0x400 + 16 * e) = clrBit (hcReg s k (0x400 + 16 * e)) 31) ∧
      (∃ u, exec (.hcInjectArm m k pc line) z = .next u ∧ hcRegs s u k [0x028] ∧ bit (hcReg u k 0x028) 31 = true ∧
        fld (hcReg u k 0x028) 30 25 = pc.toNat ∧ fld (hcReg u k 0x028) 24 1 = line.toNat) ∧
      (∃ u, exec (.hcUeSeenClear m k) z = .next u ∧ hcRegs s u k [0x004, 0x020] ∧ hcReg u k 0x004 = clrBit (hcReg s k 0x004) 4 ∧
        hcReg u k 0x020 = clrBit (hcReg s k 0x020) 31)) ∧
  (∀ (m : Master) (target : BitVec 7) (dev : Bool) (count : BitVec 16) (d : BitVec 32) (n off : Nat) (k : Block) (z : State), mxOpen m k z →
      let s := movePtr (targetOf k) m z
      let fl (u : State) (o : Nat) : BitVec 32 := flReg u o
      let flash (i : Instr) (op : Nat) : Prop :=
        let a := (fl s 8).toNat
        let unit := if op = 2 then 65536 else 256
        let bad : Prop := 2 ^ (Config.flashSizeLog2 dev).toNat < a + count.toNat * unit ∨ a % unit ≠ 0 ∨
          (op ≠ 0 ∧ dev = s.sys.active ∧ s.sys.handover = none)
        let fields (u : State) : Prop := fld (fl u 4) 30 29 = op ∧ bit (fl u 4) 28 = dev ∧ fld (fl u 4) 15 0 = count.toNat
        0 < count.toNat → bit (fl s 4) 31 = false →
          (¬ bad → ∃ u, exec i z = .next u ∧ fields u ∧ bit (fl u 4) 31 = true ∧ fl u 0 = setBit (fl s 0) 0 ∧ fl u 8 = fl s 8 ∧
            fl u 12 = fl s 12 ∧ u.sys.flBy = (m == .pmB) ∧ u = { s with sys := { s.sys with fl := u.sys.fl, flBy := u.sys.flBy } }) ∧
          (bad → ∃ u, exec i z = .next u ∧ fields u ∧ bit (fl u 4) 31 = false ∧ fl u 0 = setBit (fl s 0) 3 ∧ fl u 8 = fl s 8 ∧
            fl u 12 = fl s 12 ∧ u = { s with sys := { s.sys with fl := u.sys.fl } })
      (k = .fuse →
        (s.fuses.svn.toNat < target.toNat → target.toNat ≤ 64 → ∃ u, exec (.fcCommitGo m target) z = .next u ∧ fcRegs s u [0x008, 0x000] ∧
          bit (fcReg u 0x008) 31 = true ∧ fld (fcReg u 0x008) 6 0 = target.toNat ∧ fcReg u 0 = setBit (fcReg s 0) 0) ∧
        (target.toNat ≤ s.fuses.svn.toNat ∨ 64 < target.toNat → ∃ u, exec (.fcCommitGo m target) z = .next u ∧
          fld (fcReg u 0x008) 6 0 = fld (fcReg s 0x008) 6 0 ∧ bit (fcReg u 0) 3 = true) ∧
        (s.sys.fenced = false → ∃ u, exec (.pmFenceGo m) z = .next u ∧ u.sys.fenced = true ∧ u.sys.ready = false ∧
          ((s.tiles.all (fun kv => kv.2.round.isNone)) = true → u.hbm = s.hbm ∧ ∀ t, t < nTiles s →
            (getTile u t).eng.runstate = (getTile s t).eng.runstate ∧ ((getTile s t).eng.runstate = 1 → bit ((getTile u t).reg 0x200) 1 = true))) ∧
        (s.sys.fenced = true → ∃ u, exec (.pmFenceGo m) z = .next u ∧ fcRegs s u [0xA00])) ∧
      (k = .flash → flash (.flashRead m dev count) 0 ∧ flash (.flashProgram m dev count) 1 ∧ flash (.flashErase m dev count) 2) ∧
      (k = .cm → ∃ u, exec (.cmTimeoutClear m) z = .next u ∧ cmReg u 0 = clrBit (cmReg s 0) 2 ∧
        cmReg u 0x028 = clrBit (cmReg s 0x028) 31 ∧ (∀ o, o ≠ 0 → o ≠ 0x028 → cmReg u o = cmReg s o) ∧
        u = { s with cm := { s.cm with regs := u.cm.regs } }) ∧
      (n < 8 → off < 4096 → off % 4 = 0 → stSpec off ≠ [] → k = .st n →
        let r := stReg s n off
        let bad : Prop := (∃ f, f ∈ stSpec off ∧ f.kind = .rw ∧ f.bad (fld d f.hi f.lo) = true) ∨ d &&& ~~~ specBits (stSpec off) ≠ 0
        ∃ u v, exec (.registerWrite m (BitVec.ofNat 32 (0x40000 + 4096 * n + off)) d) s = .next u ∧
          (∀ f, f ∈ stSpec off → fld v f.hi f.lo = match f.kind with
            | .rw => if f.bad (fld d f.hi f.lo) then fld r f.hi f.lo else fld d f.hi f.lo
            | .w1c => fld (r &&& ~~~ d) f.hi f.lo
            | .ro => fld r f.hi f.lo
            | .wo => fld r f.hi f.lo
            | .w1s => fld (r ||| d) f.hi f.lo) ∧
          (off ≠ 0 → stReg u n off = v ∧ (bad → stReg u n 0 = setBit (stReg s n 0) 3) ∧ (¬ bad → stReg u n 0 = stReg s n 0)) ∧
          (off = 0 → (bad → stReg u n off = setBit v 3) ∧ (¬ bad → stReg u n off = v)) ∧ u = { s with stewards := u.stewards }))

/-- R587, R594 to R597, R601: a read of the LO half of a pair that hardware updates answers it and captures the HI half of that moment,
which the master's next read of HI answers, once; the hang timer of a postmaster or tile that waits, once it reaches the limit that stood
at the request's issue, abandons the request with F_MATRIX_TIMEOUT, and that of another master abandons its oldest request, each counted,
the first one recorded; a lock whose age is 256 MCLK is broken and its former owner noted, and a younger one stands. (R590: a request that
is performed moves the target's pointer past its master; z is the state before that.) -/
def Obligations.MatrixEvents : Prop :=
  ∀ (m : Master) (a x : BitVec 32) (k : Block) (off h : Nat) (v : BitVec 32) (s z : State) (target : BitVec 8) (e : EngineId)
    (q : HeldReq) (since limit : Nat),
    (a.toNat % 4 = 0 → decodeAddr z a.toNat = some (k, off) → mxOpen m k z →
      let s := movePtr (targetOf k) m z
      (s.cm.captured = [] → hiOf k off = some h → exec (.pairLoRead m a) z = .next (emit (.completion m (readReg s k off))
        { s with cm := { s.cm with captured := [(m, a + 4, readReg s k h)] } })) ∧
      (s.cm.captured = [(m, a, v)] → exec (.pairLoRead m a) z = .next (emit (.completion m v)
        { s with cm := { s.cm with captured := [] } })) ∧
      (s.cm.captured = [] → hiOf k off = none → exec (.pairLoRead m a) z =
        .next (emit (.completion m (readReg s k off)) (readBack k off s)))) ∧
    (m = masterOf e → engExists s e = true → s.cm.hung = [q] → q.m = m → q.eng = some e →
      10 * (s.sclk - q.since) < q.limit → exec (.matrixHangTimeout m) s = .next s) ∧
    (m = masterOf e → engExists s e = true → s.cm.hung = [q] → q.m = m → q.eng = some e →
      q.limit ≤ 10 * (s.sclk - q.since) → ∃ u, exec (.matrixHangTimeout m) s = .next u ∧ cmReg u 0x020 = cmReg s 0x020 + 1 ∧ bit (cmReg u 0) 2 = true ∧
        (bit (cmReg s 0x028) 31 = false → cmReg u 0x024 = q.addr ∧ bit (cmReg u 0x028) 8 = (q.data.isSome || q.op != .access) ∧ bit (cmReg u 0x028) 31 = true ∧
          fld (cmReg u 0x028) 7 0 = masterId m) ∧
        (bit (cmReg s 0x028) 31 = true → cmReg u 0x024 = cmReg s 0x024 ∧ cmReg u 0x028 = cmReg s 0x028) ∧
        ∃ s1, u = syncFault e ⟨0x0B, 0, BitVec.ofNat 64 (q.addr.toNat + (if q.op = .transfer then 2 ^ 32 else 0))⟩ s1 ∧
          (getEng s1 e).mxWait = none ∧ s1.cm.hung = [] ∧ s1.hbm = s.hbm) ∧
    (s.cm.hung = [⟨.pcie .pf, x, none, since, limit, .access, none⟩] → 10 * (s.sclk - since) < limit → exec (.matrixHangTimeout (.pcie .pf)) s = .next s) ∧
    (s.cm.hung = [⟨.pcie .pf, x, none, since, limit, .access, none⟩] → limit ≤ 10 * (s.sclk - since) → exec (.matrixHangTimeout (.pcie .pf)) s =
      .next (emit .aerCompleterAbort (emit .completerAbort
        (recordTimeout (.pcie .pf) x false { s with cm := { s.cm with hung := [] } })))) ∧
    ((getLock s target.toNat).owner.isSome = true → lockAge s (getLock s target.toNat) < 256 → exec (.lockAgeLimit target) s = .next s) ∧
    (s.cm.hung = [] → (getLock s target.toNat).owner = some m → lockAge s (getLock s target.toNat) = 256 → ∃ u, exec (.lockAgeLimit target) s = .next u ∧
      (getLock u target.toNat).owner = none ∧ (getLock u target.toNat).broken = true ∧ (getLock u target.toNat).former = some m ∧
      (∀ y, y ≠ target.toNat → getLock u y = getLock s y) ∧ cmReg u 0 = setBit (cmReg s 0) 1) ∧
    ((getLock s target.toNat).owner = none → exec (.lockAgeLimit target) s = .next s)

/-- R502 to R511, R548, R549, the links. A frame that is uncorrectable, cannot be opened under the receive key at its batch number, is out of
order or finds no room delivers nothing and is answered with NAK; one in order delivers its letters and, when it carries anything, advances
the FSEQ expected. A port goes DOWN, its letters dropped and counted and its keys destroyed, at 16 failures of the FSEQ expected, at a loss of
block lock, and when fewer than six lanes remain; a lane with more than 64 corrected symbols within 65,536 frames, or one dropped, leaves
service and RETRAIN brings it back; a port that is DOWN trains once its back-off is over, and a training port keys, while the device has
power; a new-key exchange begins once 2^31 batches or 360,000,000,000 SCLK have passed, and a count of 2^32 before one ends stops the port.
(That an idle frame takes no FSEQ, and which failures count against the FSEQ expected, are the model's choices, log 22.) -/
def Obligations.LinkPorts : Prop :=
  ∀ (p lane : Nat) (fr : Frame) (cs : List PortCell) (vc : BitVec 2) (cls : BitVec 3) (lanes : BitVec 8) (s : State), p < 32 → lane < 8 →
    let q := getPort s p
    let st := portState s p
    let on : Prop := 2 ≤ st
    let calm : Prop := (∀ x, x ≠ p → (getPort s x).owed = [] ∧ (getPort s x).outq.all (·.input != p) = true ∧
      (getPort s x).sending.all (·.2.input != p) = true) ∧ q.outq.all (·.hold == 0) = true ∧ q.sending.all (·.2.hold == 0) = true
    let silent : Prop := calm ∧ q.outq = [] ∧ q.sending = [] ∧ q.owed = []
    let others (u : State) : Prop := ∀ x, x ≠ p → getPort u x = getPort s x
    let answer (u : State) (ack : BitVec 16) (nak : Bool) : Prop := ∃ f, u.out = .frame p f :: s.out ∧ frameIdle f = true ∧
      frameAck f = ack ∧ frameNak f = nak ∧ framePhase f = q.txPhase
    let down (c : Instr) : Prop := ∃ u, exec c s = .next u ∧ portState u p = 0 ∧ (getPort u p).resend = [] ∧ (getPort u p).outq = [] ∧
      (getPort u p).sending = [] ∧ (getPort u p).rxKey = none ∧ (∀ rx, (getKey u (linkSlot p rx)).key = none) ∧
      (∀ n, count (getTen u n).deficit p = 0) ∧
      bit (getPort u p).status 4 = true ∧ fld (fxReg u 0x14) 15 0 = (fld (fxReg s 0x14) 15 0 + heldLetters q) % 65536 ∧
      (calm → others u) ∧ u.tiles = s.tiles
    let opened := openFrame s p fr
    let nak (failed : Bool) : Prop := ∃ u, exec (.frameReceive p fr) s = .next u ∧ (getPort u p).rxFseq = q.rxFseq ∧
      (getPort u p).rxq = q.rxq ∧ (getPort u p).nakSet = true ∧
      (getPort u p).fails = (if failed = true ∧ frameFseq fr = q.rxFseq then q.fails + 1 else q.fails) ∧ u.tiles = s.tiles ∧
      (silent → others u ∧ (maySend s p = true → answer u q.rxFseq true) ∧ (maySend s p = false → u.out = s.out)) ∧
      fld (getPort u p).fec 31 16 = (fld q.fec 31 16 + if frameBad fr then 1 else 0) % 65536 ∧
      fld (getPort u p).fec 15 0 = (fld q.fec 15 0 + if 1 ≤ fr.failing.length ∧ fr.failing.length ≤ 6 then 1 else 0) % 65536 ∧
      fld (getPort u p).retry 15 0 = (fld q.retry 15 0 + if frameBad fr = false ∧ opened = none then 1 else 0) % 65536
    let now := framesNow s q / 512
    let symbols := if frameCorrected fr then
        (q.laneErrs ++ fr.failing.map (fun l => (now, l))).filter (fun x => decide (now < x.1 + 65536)) else q.laneErrs
    let errs (l : Nat) : Nat := (symbols.filter (fun x => x.2 == l)).length
    let quiet : Prop := ∀ l, l < 8 → errs l ≤ 64
    let left := q.usable &&& ~~~ (1#8 <<< lane)
    let batches := batchCount s q
    let due : Prop := 2 ^ 31 ≤ batches ∨ q.keyTime + 360000000000 ≤ s.sclk
    let sole (u : State) : Prop := ∃ x, u = setPort s p x
    (¬ on → exec (.frameReceive p fr) s = .next s) ∧
    (frameBad fr = true ↔ 6 < fr.failing.length) ∧
    (on → q.usable.getLsbD lane = true → 64 < errs lane → ∃ u, exec (.frameReceive p fr) s = .next u ∧
      (portState u p = 0 ∨ (getPort u p).usable.getLsbD lane = false)) ∧
    (on → quiet → frameBad fr = true ∨ opened = none → nak true) ∧
    (on → quiet → frameBad fr = false → opened = some cs → frameFseq fr ≠ q.rxFseq ∨ hasRoom q cs = false → nak false) ∧
    (on → quiet → frameBad fr = false → opened = some cs → frameFseq fr = q.rxFseq → hasRoom q cs = true →
      ∃ u, exec (.frameReceive p fr) s = .next u ∧ (getPort u p).rxFseq = (if frameIdle fr then q.rxFseq else q.rxFseq + 1) ∧
        (getPort u p).fails = 0 ∧ (getPort u p).nakSet = false ∧ (getPort u p).rxPhase = framePhase fr ∧ u.tiles = s.tiles ∧
        (cs = [] → (getPort u p).rxq = q.rxq) ∧
        (cs ≠ [] → (∀ i c, cs[i]? = some c → c.head = (i == 0) ∧ c.tail = (i + 1 == cs.length) ∧ c.vc = vc ∧ c.cls = cls) →
          tget (fun _ => []) q.part (8 * vc.toNat + cls.toNat) = [] → cs.length ≤ 15 →
          (getPort u p).rxq = q.rxq ++ [letterOf vc cls (stampNow s) s.sclk (cs.map (·.data))] ∧
          count (getPort u p).held (8 * vc.toNat + cls.toNat) = count q.held (8 * vc.toNat + cls.toNat) + cs.length ∧
          (silent → frameNak fr = false → frameIdle fr = false → others u ∧
            (getPort u p).resend = q.resend.filter (fun k => !acked (frameAck fr) k.fseq) ∧
            (maySend s p = true → answer u (q.rxFseq + 1) false)))) ∧
    (on → 16 ≤ q.fails → down (.fseqRetryLimit p)) ∧ (on → q.fails < 16 → exec (.fseqRetryLimit p) s = .next s) ∧
    (on → down (.blockLockLoss p)) ∧ (¬ on → exec (.blockLockLoss p) s = .next s) ∧
    (on → q.usable.getLsbD lane = true → (st = 5 ∧ lane = 0) ∨ lanesOff left.toNat < 6 → down (.laneDrop p lane)) ∧
    (on → q.usable.getLsbD lane = true → ¬ (st = 5 ∧ lane = 0) → 6 ≤ lanesOff left.toNat → ∃ u, exec (.laneDrop p lane) s = .next u ∧
      (getPort u p).usable = left ∧ portState u p = st ∧ bit (getPort u p).status 5 = true ∧ (getPort u p).rxq = q.rxq ∧
      (st ≠ 5 → fld (getPort u p).status 19 12 = left.toNat ∧ fld (getPort u p).status 11 8 = lanesOff left.toNat)) ∧
    (bit q.ctrl 31 = false → exec (.laneRetrainDone p) s = .next s) ∧
    (bit q.ctrl 31 = true → on → ∃ u, exec (.laneRetrainDone p) s = .next u ∧ sole u ∧ bit (getPort u p).ctrl 31 = false ∧
      (getPort u p).usable.toNat = 255 - fld q.ctrl 7 0 ∧ portState u p = st) ∧
    (powered s = true → st = 0 → bit q.ctrl 30 = false → q.retryAt ≤ s.sclk → ∃ u, exec (.trainingRetry p) s = .next u ∧ sole u ∧ portState u p = 1) ∧
    (powered s = false ∨ st ≠ 0 ∨ bit q.ctrl 30 = true ∨ s.sclk < q.retryAt → exec (.trainingRetry p) s = .next s) ∧
    (st = 1 → ∃ u, exec (.trainingAttemptFailed p) s = .next u ∧ sole u ∧ portState u p = 0 ∧ (getPort u p).attempts = q.attempts + 1 ∧
      (getPort u p).retryAt = s.sclk + 2 ^ min q.attempts 6 * 100000 + (32 * (ownId s).toNat + p) % 4096 * 100) ∧
    (powered s = true → st = 1 → 6 ≤ lanesOff (lanes &&& ~~~ BitVec.ofNat 8 (fld q.ctrl 7 0)).toNat → ∃ u, exec (.linkTrained p lanes) s = .next u ∧
      portState u p = 2 ∧ (getPort u p).usable = lanes &&& ~~~ BitVec.ofNat 8 (fld q.ctrl 7 0) ∧ (getPort u p).rxFseq = 0 ∧
      (getPort u p).rxKey = none ∧ (calm → others u)) ∧
    (powered s = false → exec (.linkTrained p lanes) s = .next s) ∧
    (3 ≤ st → q.rekeying = false → due → ∃ u, exec (.rekeyStart p) s = .next u ∧ (getPort u p).rekeying = true ∧ portState u p = st ∧
      (getPort u p).hs = [[], [], []] ∧ (calm → others u)) ∧
    (st < 3 ∨ q.rekeying = true ∨ ¬ due → exec (.rekeyStart p) s = .next s) ∧
    (3 ≤ st → 2 ^ 32 ≤ batches → exec (.batchCountLimit p) s = .next (setPort s p { q with stopped := true })) ∧
    (st < 3 ∨ batches < 2 ^ 32 → exec (.batchCountLimit p) s = .next s) ∧
    (∀ m, mxOpen m .fabric s → fld q.ctrl 29 8 = 0 → bit q.ctrl 30 = false → lanesOff (fld q.ctrl 7 0) ≤ 2 → 6 ≤ lanesOff (q.usable &&&
        ~~~ BitVec.ofNat 8 (fld q.ctrl 7 0)).toNat → ∃ u, exec (.fpRetrain m p) s = .next u ∧
      (∃ x, u = setPort (movePtr (targetOf .fabric) m s) p x) ∧ (getPort u p).ctrl = setBit q.ctrl 31 ∧ portState u p = st)

/-- R517, R526, R528, R530 to R537, the requests of the sorting office and their replies. A request that has reached this device is
refused by the first check of R531 that fails, its status sent back, or served: its lines are asked of their pseudo-channels in order. A
reply ends its request, or a part of it; one that no request waits for is counted. A malformed letter is dropped and counted, and one that its port does not carry. R537:
TA_CMD with GO. For a segment of the tile's tenant on this device the descriptor is checked: one that fails completes with SEGMENT and
sends nothing, one that passes asks the word's line of its pseudo-channel, the operands travelling with it. For another device a request
leaves, or it completes with NO_ROUTE or WEIGHT. (The old word of a completion without one is a free value, log 14.) -/
def Obligations.RequestLetters : Prop :=
  (∀ (port op : Nat) (c : Instr) (l : Letter) (q : RemoteReq) (s : State) (mk : Nat → Nat → HOp) (t : Nat) (id : BitVec 4) (u0 : VUnit)
      (p : Place) (env : Env),
      let n := l.tenant.toNat
      let s1 := takeLetter port l s
      let answers : Prop := s.book.isSome = true ∨ (peerValid (getPort s port) = true ∧ peerId (getPort s port) = l.src)
      let d := tenDesc s n (letterSeg l)
      let dest := if s.sys.fenced then 9 else if (getTen s n).st = .disabled then 3 else if (getTen s n).st = .resetting then 4 else 0
      let status := if dest ≠ 0 then dest else if (getTen s n).boundKey.isNone || keyTag s n != l.keytag then 5
        else if segmentOk d l then 0 else 6
      let lines := if op = 5 then 1 else argField l 0 4
      let places := (List.range lines).map (fun i => ((linePlace d (letterOff l / 64 + i)).1, (linePlace d (letterOff l / 64 + i)).2, i))
      let b := getBag s (.vf n) 63
      let room : Prop := bagEnabled b = true ∧ ringHeld b + l.body.length ≤ ringSize b
      let ends (v : State) : Prop := v.reqs = s.reqs.erase q
      let done (v : State) (code : Nat) (old : TWord) : Prop := ends v ∧ bit ((getTile v t).reg 0x600) 31 = false ∧
        fld ((getTile v t).reg 0x600) 13 10 = old.tag.toNat ∧ fld ((getTile v t).reg 0x604) 7 0 = code ∧
        bit ((getTile v t).reg 0x604) 8 = true ∧ (getTile v t).reg 0x610 = old.data.extractLsb' 0 32 ∧
        (getTile v t).reg 0x614 = old.data.extractLsb' 32 32 ∧ (getChute v t).pending = true ∧ (getTile v t).eng = (getTile s t).eng
      ((c, op) ∈ [(Instr.read port l, 1), (.write port l, 3), (.atomic port l, 5)] →
        ((op = 1 → mk = .remoteRead) ∧ (op = 3 → mk = .remoteWrite) ∧ (op = 5 → mk = fun k _ => .atomic k)) → arrives port l op s →
        (answers → status = 0 → ∃ v, exec c s = .next v ∧
          v.served = s.served ++ [⟨s.nextServed, port, l, d, [], lines, none, false⟩] ∧ v.nextServed = s.nextServed + 1 ∧
          (∀ pc, (getChan v pc).reqs = (getChan s pc).reqs ++ (places.filter (fun x => x.1 == pc)).map (fun x =>
            ⟨if port < 16 then 129 else 130, x.2.1, mk s.nextServed x.2.2⟩)) ∧ v.hbm = s.hbm ∧ v.tiles = s.tiles) ∧
        (answers → status ≠ 0 → op ≠ 5 → exec c s = .next (sendReply port l status [] s1)) ∧
        (answers → status ≠ 0 → op = 5 → ∃ args s2, exec c s = .next (sendReply port l args [] s2) ∧ args % 256 = status ∧
          s2 = { s1 with free := s2.free }) ∧
        (¬ answers → exec c s = .next (dropLetters (1 + l.body.length) s1))) ∧
      (port < 32 → (getPort s port).rxq.contains l = true → l.op.toNat = op → malformed l = true ∨ barred s port l = true →
        (c, op) ∈ [(Instr.read port l, 1), (.write port l, 3), (.atomic port l, 5), (.envelope port l, 7), (.readReply port l, 2),
          (.writeAck port l, 4), (.atomicReply port l, 6), (.envelopeAck port l, 8), (.hello port l, 0x10), (.book port l, 0x12),
          (.bookAck port l, 0x13), (.transitLetter port l, op)] → exec c s = .next (dropLetters (1 + l.body.length) s1)) ∧
      (arrives port l 7 s → answers →
        (dest ≠ 0 → exec (.envelope port l) s = .next (sendReply port l dest [] s1)) ∧
        (dest = 0 → ¬ room → exec (.envelope port l) s = .next (sendReply port l 7 [] s1)) ∧
        (dest = 0 → room → ∃ s2, exec (.envelope port l) s = .next (sendReply port l 0 [] s2) ∧
          (getBag s2 (.vf n) 63).tail = (b.tail + l.body.length) % 131072 ∧
          (getBag s2 (.vf n) 63).posted = b.posted ++ [l.body.length] ∧ s2.tiles = s.tiles ∧ s2.envs = s.envs)) ∧
      ((c, op) ∈ [(Instr.readReply port l, 2), (.writeAck port l, 4), (.atomicReply port l, 6), (.envelopeAck port l, 8)] →
        arrives port l op s → s.reqs.find? (fun q => q.xtag == l.xtag) = none →
        exec c s = .next (setFx 0x14 (setFld (fxReg s 0x14) 31 16 ((fld (fxReg s 0x14) 31 16 + 1) % 65536)) s1)) ∧
      (s.reqs.find? (fun q => q.xtag == l.xtag) = some q → argField l 0 1 = 0 →
        (arrives port l 2 s → q.kind = .unitRead t id → ∃ v, exec (.readReply port l) s = .next v ∧
          (s.reqs = [q] → v.reqs = if q.left ≤ (bodyLines l.body).length then [] else
            [{ q with left := q.left - (bodyLines l.body).length }]) ∧
          ((getTile s t).units = [u0] → u0.id = id → u0.got = [] → (getTile v t).units = [{ u0 with
            got := (List.range (bodyLines l.body).length).map (fun i =>
              (q.base + argField l 4 4 + i, nthD (0, 0) (bodyLines l.body) i)) }])) ∧
        (arrives port l 4 s → q.kind = .unitWrite t id → (getTile s t).units = [u0] → u0.id = id → q.left < u0.remoteLeft →
          ∃ v, exec (.writeAck port l) s = .next v ∧ ends v ∧
            (getTile v t).units = [{ u0 with remoteLeft := u0.remoteLeft - q.left }]) ∧
        (arrives port l 6 s → q.kind = .atomic t → ∃ v, exec (.atomicReply port l) s = .next v ∧
          done v 0 ⟨BitVec.ofNat 64 (argField l 8 8), BitVec.ofNat 4 (argField l 1 1)⟩) ∧
        (arrives port l 8 s → q.kind = .envelope p → runningOn s p 0x30 q.xtag.toNat = some env →
          exec (.envelopeAck port l) s = .next (finishEnv env 0 0 { s1 with reqs := s.reqs.erase q })) ∧
        (arrives port l 8 s → q.kind = .envelope p → runningOn s p 0x30 q.xtag.toNat = none →
          exec (.envelopeAck port l) s = .next { s1 with reqs := s.reqs.erase q })) ∧
      (s.reqs.find? (fun q => q.xtag == l.xtag) = some q →
        (s.sclk - q.sentAt < fld (fxReg s 0x08) 23 0 → exec (.requestTimeout l.xtag) s = .next s) ∧
        (fld (fxReg s 0x08) 23 0 ≤ s.sclk - q.sentAt →
          (q.kind = .unitRead t id ∨ q.kind = .unitWrite t id → ∃ v, exec (.requestTimeout l.xtag) s = .next v ∧ ends v ∧
            (getTile v t).units = (getTile s t).units.map (fun x => if x.id = id then { x with
              refused := true, strip := if q.kind = .unitWrite t id then min x.strip (storeStrip x q.base) else x.strip } else x)) ∧
          (q.kind = .envelope p → runningOn s p 0x30 q.xtag.toNat = some env →
            exec (.requestTimeout l.xtag) s = .next (finishEnv env 0x010E 0x0A { s with reqs := s.reqs.erase q })) ∧
          (q.kind = .atomic t → ∃ v old, exec (.requestTimeout l.xtag) s = .next v ∧ done v 0x0A old)))) ∧
  (∀ (m : Master) (t n i sub : Nat) (c : Instr) (data : BitVec 32) (z : State), t < nTiles z → mxOpen m (.tile t) z →
      let s := movePtr (targetOf (.tile t)) m z
      (c, sub) ∈ [(Instr.atomicFetchAdd m t data, 0), (.atomicCompareSwap m t data, 1), (.atomicSwap m t data, 2)] →
      let x := getTile s t
      let r (v : State) (o : Nat) : BitVec 32 := (getTile v t).reg o
      let seg := fld (x.reg 0x60C) 31 20
      let off := fld (x.reg 0x60C) 15 0 * 2 ^ 32 + (x.reg 0x608).toNat
      let d := tenDesc s n seg
      let ok : Prop := grants d = true ∧ d.space = 1 ∧ d.r = true ∧ d.w = true ∧ off + 7 ≤ d.limit.toNat
      let dev := fld data 27 14
      let ends (code : Nat) : Prop := ∃ v, exec c z = .next v ∧ bit (r v 0x600) 31 = false ∧ fld (r v 0x604) 7 0 = code ∧
        bit (r v 0x604) 8 = true ∧ (getChute v t).pending = true ∧ v.served = s.served ∧ v.reqs = s.reqs ∧ v.chans = s.chans ∧
        (getTile v t).eng = x.eng ∧ (getTile v t).store = x.store
      let going (v : State) : Prop := bit (r v 0x600) 31 = true ∧ fld (r v 0x600) 30 29 = sub ∧ fld (r v 0x600) 28 6 = fld data 28 6 ∧
        (getTile v t).eng = x.eng ∧ (getTile v t).store = x.store
      bit (x.reg 0x600) 31 = false → fld (x.reg 0x600) 5 0 = 0 → fld data 5 0 = 0 → x.owner = some (n, i) → n < 1024 →
      (bit data 28 = false → dev = 0 →
        (ok → ∃ v y, exec c z = .next v ∧ going v ∧ v.served = s.served ++ [y] ∧ y.k = s.nextServed ∧ y.desc = d ∧ y.localTile = some t ∧
          y.left = 1 ∧ y.letter.op = 5 ∧ y.letter.tenant.toNat = n ∧ letterSeg y.letter = seg ∧ letterOff y.letter = off ∧
          argField y.letter 0 1 = sub ∧ argField y.letter 1 1 = fld data 13 10 + fld data 9 6 * 16 ∧
          argField y.letter 8 8 = (x.reg 0x610).toNat + (x.reg 0x614).toNat * 2 ^ 32 ∧
          argField y.letter 16 8 = (x.reg 0x618).toNat + (x.reg 0x61C).toNat * 2 ^ 32 ∧
          (∀ pc, (getChan v pc).reqs = (getChan s pc).reqs ++ if pc = (linePlace d (off / 64)).1 then
            [⟨129, (linePlace d (off / 64)).2, .atomic s.nextServed⟩] else [])) ∧
        (¬ ok → ends 6)) ∧
      (bit data 28 = true → candidates s dev = [] → ends 1) ∧
      (bit data 28 = true → candidates s dev ≠ [] → (getTen s n).contract.fabricWeight = 0 → ends 0x0B) ∧
      (bit data 28 = true → candidates s dev ≠ [] → (getTen s n).contract.fabricWeight ≠ 0 → ∃ v, exec c z = .next v ∧ going v ∧
        v.reqs = s.reqs ++ [⟨s.nextXtag, .atomic t, n, 0, 1, s.sclk⟩] ∧ v.nextXtag = s.nextXtag + 1 ∧ v.served = s.served))

/-- R437, R506, R517, R518, R539, R541, R543 to R546, R548, the letters between neighbours. HELLO reports the peer; HELLO, KEYSHARE and
CERT join the transcript, KEYSHARE on a link in service beginning the exchange at this end too, and CERT is answered with SIGN; SIGN with a
chain that verifies brings a keying port UP, ends a new-key exchange, writes the new transmit key and keeps the receive key for the peer's
change of KEYPHASE, and takes the port DOWN, its keys destroyed, when it does not; RATE makes the port follow its peer and answer, and an
answer changes nothing; TIME is sent, once READY has asserted, every 100,000 SCLK on every port that is UP, stamped as it leaves, and, on the port of the time parent,
moves fabric time toward the parent's, never backward; WAKE latches the cause of a device that is not in RUN
and does nothing in RUN; FX_WAKE sends a WAKE to the device it names, at most one in 100,000 SCLK. (What HELLO and RATE bodies say is a free reading of Config, log
51.) R520 to R525, the address book. A device without a book takes BOOK messages on any port, one with a book on the port of its time
parent alone; an image that is still incomplete is kept; a complete one that the checks of R521 pass is in force, and SORTED is set; one
that fails leaves the book in force; the sender is answered. BOOK_ACK ends the remote load with S_OK or S_BOOK_FORMAT; another code
leaves it waiting (the model's choice, log 22). A letter that is
not for this device goes on by its path, or comes back dead where it asks for a reply, or is dropped. -/
def Obligations.LinkLettersAndBooks : Prop :=
  (∀ (m : Master) (port : Nat) (l : Letter) (dev : BitVec 14) (hop : Nat × BitVec 40) (s z : State),
      let s1 := takeLetter port l s
      let q := getPort s1 port
      let st := portState s port
      let sub := argField l 0 1
      let set (f : Port → Port) : State := setPort s1 port (f q)
      let calm : Prop := (∀ x, x ≠ port → (getPort s x).owed = [] ∧ (getPort s x).outq.all (·.input != port) = true ∧
        (getPort s x).sending.all (·.2.input != port) = true) ∧
        (getPort s port).outq.all (·.hold == 0) = true ∧ (getPort s port).sending.all (·.2.hold == 0) = true
      let others (v : State) : Prop := calm → ∀ x, x ≠ port → getPort v x = getPort s x
      let recent : Prop := count s.wokeAt dev.toNat ≠ 0 ∧ s.sclk < count s.wokeAt dev.toNat + 99999
      let now : Nat := s.time.ft / 2 ^ 32
      let e1 : Nat := argField l 0 8
      let t3 : Nat := argField l 16 8
      let o : Int := (((argField l 8 8 : Int) - e1) - ((l.stamp : Int) - t3)) / 2
      let parent : Prop := s.book.bind (·.timeParent) = some port
      (arrives port l 0x10 s →
        (sub = 1 → ∃ v, exec (.hello port l) s = .next v ∧ others v ∧ bit (getPort v port).peer 31 = true ∧
          fld (getPort v port).peer 18 5 = (Config.helloOf l.body).1.toNat ∧ fld (getPort v port).peer 4 0 = (Config.helloOf l.body).2.1.toNat ∧
          bit (getPort v port).peer 30 = (Config.helloOf l.body).2.2.2 ∧ (getPort v port).hs = setAt q.hs 0 l.body ∧
          (getPort v port).status = q.status) ∧
        (sub = 2 → st < 3 ∨ q.rekeying = true → exec (.keyshare port l) s = .next (set (fun x => { x with hs := setAt x.hs 1 l.body }))) ∧
        (sub = 2 → 3 ≤ st → q.rekeying = false → ∃ v, exec (.keyshare port l) s = .next v ∧ others v ∧ (getPort v port).rekeying = true ∧
          (getPort v port).hs = setAt q.hs 1 l.body ∧
          (getPort v port).own = [Config.helloBody (ownId s) port (named s) s.sys.fenced, Config.keyshareBody s.free]) ∧
        (sub = 3 → ∃ v, exec (.cert port l) s = .next v ∧ others v ∧ (getPort v port).hs = setAt q.hs 2 l.body ∧
          (getPort v port).status = q.status) ∧
        (sub = 4 → q.hs.length < 3 ∨ (keyless s port = false ∧ q.rekeying = false) → exec (.sign port l) s = .next s1) ∧
        (sub = 4 → 3 ≤ q.hs.length → keyless s port = true ∨ q.rekeying = true →
          (q.hs.any (·.isEmpty) = true ∨ Config.chainAccepted (nthD [] q.hs 2) (transcript q) l.body = false →
            ∃ v, exec (.sign port l) s = .next v ∧ others v ∧ portState v port = 0 ∧ (getPort v port).hs = [] ∧
            ∀ rx, (getKey v (linkSlot port rx)).key = none) ∧
          (q.hs.any (·.isEmpty) = false → Config.chainAccepted (nthD [] q.hs 2) (transcript q) l.body = true →
            ∃ v, exec (.sign port l) s = .next v ∧
            others v ∧ portState v port = (if st = 2 then 3 else st) ∧ (getPort v port).rekeying = false ∧ (getPort v port).hs = [[], [], []] ∧
            (getPort v port).txPhase = !q.txPhase ∧ (getPort v port).keyTime = s.sclk ∧
            (getKey v (linkSlot port false)).key = some (linkKey q false) ∧ (getPort v port).rxKey = some (linkKey q true) ∧
            getKey v (linkSlot port true) = getKey s (linkSlot port true))) ∧
        (sub = 5 → q.asked = true → exec (.rate port l) s = .next (set (fun x => { x with asked := false }))) ∧
        (sub = 5 → q.asked = false → ∃ v, exec (.rate port l) s = .next v ∧ others v ∧ bit (getPort v port).peer 29 = Config.rateLow l.body ∧
          (portState v port = if Config.rateLow l.body = true ∧ st = 3 then 5
            else if Config.rateLow l.body = false ∧ st = 5 then 3 else st))) ∧
      (arrives port l 0x11 s → ∃ v, exec (.time port l) s = .next v ∧ others v ∧ (getPort v port).echo1 = t3 ∧
        (getPort v port).echo2 = l.stamp ∧ v.time.ft ≥ s.time.ft ∧
        (¬ (parent ∧ e1 ≠ 0) → v.time = s.time ∧ fxReg v 0x04 = fxReg s 0x04) ∧
        (parent → e1 ≠ 0 →
          v.time.ft = (if 2 ^ 24 < o then s.time.ft + o.toNat * 2 ^ 32 else s.time.ft) ∧
          v.time.trim = (if 2 ^ 24 < o ∨ o = 0 then 0 else if 0 < o then 1 else 2) ∧
          v.time.good = (if o.natAbs ≤ 16 then min (s.time.good + 1) 3 else 0) ∧
          bit (fxReg v 0x04) 3 = (if 64 < o.natAbs then false
            else if o.natAbs ≤ 16 ∧ 2 ≤ s.time.good then true else bit (fxReg s 0x04) 3))) ∧
      (named s = true → s.sys.phase ≠ .booting → ∃ v, exec .timeSend s = .next v ∧ ∀ p, p < 32 →
        let due : Prop := (portState s p = 3 ∨ portState s p = 5) ∧ (getPort s p).timeDue ≤ s.sclk
        (due → (getPort v p).timeDue = s.sclk + 100000) ∧ (¬ due → (getPort v p).timeDue = (getPort s p).timeDue) ∧
        (due → (∀ x, (getPort s x).owed = [] ∧ (getPort s x).outq = [] ∧ (getPort s x).sending = []) → maySend s p = true →
          (getPort s p).resend.length < 128 → 0 < count (getPort s p).credits 16 → (getPort v p).t1 = now)) ∧
      (named s = false ∨ s.sys.phase = .booting → exec .timeSend s = .next s) ∧
      (arrives port l 0x18 s → s.sys.doze = .run → exec (.wake port l) s = .next s1) ∧
      (port < 32 → (getPort s port).rxq.contains l = true → l.op = 0x18 → malformed l = false → barred s port l = false → forUs s l = true →
        s.sys.doze = .dozing →
        ∃ v, exec (.wake port l) s = .next v ∧ (getChute v 162).pending = true ∧
          (if (fcReg s 0x804).getLsbD 1 then v.sys.doze = .exiting ∧ v.sys.latched = s.sys.latched ||| 2 else v.sys = s.sys) ∧ v.tiles = s.tiles) ∧
      (mxOpen m .fabric z →
        let s := movePtr (targetOf .fabric) m z
        bit (fxReg s 0x0C) 31 = false → fld (fxReg s 0x0C) 30 14 = 0 →
        (named s = false ∨ recent ∨ candidates s dev.toNat = [] → ∃ v, exec (.fxWakeGo m dev) z = .next v ∧ fxReg v 0x0C = dev.setWidth 32 ∧
          v.ports = s.ports ∧ v.wokeAt = s.wokeAt) ∧
        (named s = true → ¬ recent → choosePath s none false dev.toNat = some hop → exec (.fxWakeGo m dev) z =
          .next (enqueue (hopPort hop.2 0) (headFor s hop dev 0 0x18) { setFx 0x0C (dev.setWidth 32) s with
            pmMsgCtr := s.pmMsgCtr + 1, wokeAt := setCount s.wokeAt dev.toNat (s.sclk + 1) })))) ∧
  (∀ (port : Nat) (l : Letter) (s : State) (q : RemoteReq) (p : Place) (e : Env) (len : Nat) (got : List (Nat × BitVec 512)),
      let s1 := takeLetter port l s
      let at_ := argField l 0 4
      let g := forN l.body.length (fun i g => execBook.insBook (at_ / 64 + i) (nthD 0 l.body i) g) got
      let ws := bodyWords (g.map (·.2))
      (arrives port l 0x12 s →
        ((∃ b, s.book = some b ∧ b.timeParent ≠ some port) → exec (.book port l) s = .next s1) ∧
        (argField l 4 4 = len → s.bookRx = some (len, got) → s.book = none ∨ (∃ b, s.book = some b ∧ b.timeParent = some port) →
          (g.length < (len + 63) / 64 → exec (.book port l) s = .next { s1 with bookRx := some (len, g) }) ∧
          ((len + 63) / 64 ≤ g.length → bookOk s len ws = false → ∃ v, exec (.book port l) s = .next v ∧ v.book = s.book ∧ v.bookRx = none ∧
            v.time = s.time) ∧
          ((len + 63) / 64 ≤ g.length → bookOk s len ws = true → ∃ v, exec (.book port l) s = .next v ∧ v.bookRx = none ∧
            v.book.map (·.words) = some ws ∧ v.book.map (·.version.toNat) = some (wfld (wordAt ws 0) 63 32) ∧ bit (fxReg v 0x04) 2 = true ∧
            fxReg v 0x10 = BitVec.ofNat 32 (wfld (wordAt ws 0) 63 32) ∧ v.tiles = s.tiles ∧ v.hbm = s.hbm))) ∧
      (arrives port l 0x13 s → s.reqs.find? (fun r => r.xtag == l.xtag) = some q → q.kind = .bookLoad p →
        (argField l 0 2 ≠ 0 → argField l 0 2 ≠ 0x0410 → exec (.bookAck port l) s = .next s1) ∧
        (argField l 0 2 = 0 ∨ argField l 0 2 = 0x0410 →
          (runningOn s p 0x43 q.xtag.toNat = some e → exec (.bookAck port l) s =
            .next (finishEnv e (argField l 0 2) 0 { s1 with reqs := s.reqs.erase q })) ∧
          (runningOn s p 0x43 q.xtag.toNat = none → exec (.bookAck port l) s = .next { s1 with reqs := s.reqs.erase q }))) ∧
      (port < 32 → (getPort s port).rxq.contains l = true → malformed l = false → barred s port l = false → forUs s l = false → named s = true →
        let o := hopPort l.ports l.hop.toNat
        let drop : Prop := exec (.transitLetter port l) s = .next (dropLetters (1 + l.body.length) s1)
        let dead (code : Nat) : Prop := exec (.transitLetter port l) s = .next (deadLetter port l code s1)
        (s.book = none → l.vc.toNat < 2 → drop) ∧
        (s.book.isSome = true ∨ 2 ≤ l.vc.toNat →
          (l.hop = l.hops → (l.vc = 0 → dead 2) ∧ (l.vc ≠ 0 → drop)) ∧
          (l.hop ≠ l.hops → portCarries s o l.vc.toNat = true → exec (.transitLetter port l) s =
            .next (enqueueFrom o ⟨port, rxKeyOf l, bufCells l, l⟩ (updPort s port (fun q => { q with rxq := q.rxq.erase l })))) ∧
          (l.hop ≠ l.hops → portCarries s o l.vc.toNat = false → (l.vc = 0 → dead 1) ∧ (l.vc ≠ 0 → drop)))))

/-- R553, R555, R558, R563, R581, R582, the registers of chutes, input filters and vectors: an owner's change returns the chute to its
reset configuration and clears PENDING; a reserved value leaves the register and sets CFG_REJECT, as a reserved bit does; SIGNAL raises an event of a chute above
191, and PENDING is cleared by writing 1. -/
def Obligations.ChuteRegisters : Prop :=
  ∀ (m : Master) (c i v : Nat) (f : Fn) (data : BitVec 32) (s : State), c < 256 → i < 6 →
    let x := getChute s c
    let kind := fld x.owner 31 30
    let z := movePtr (targetOf .ch) m s
    let zi := movePtr (targetOf (.ic true)) m s
    let zf := movePtr (targetOf (.bar0 f)) (.pcie f) s
    let vec := getVec s f v
    let rejected (u : State) : Prop := u = { z with chStatus := setBit s.chStatus 0 }
    let k := fld data 31 30
    let badOwner : Prop := k = 3 ∨ (k ≠ 2 ∧ fld data 9 0 ≠ 0) ∨ (k = 2 ∧ (getTen s (fld data 9 0)).st = .disabled)
    let ck := fld data 23 21
    let ci := fld data 20 10
    let okConsumer : Prop := (ck = 0 ∧ ci = 0) ∨ (ck = 2 ∧ kind = 0 ∧ ci = 0) ∨ (ck = 3 ∧ kind = 1 ∧ ci < 2048) ∨ (ck = 3 ∧ kind = 2 ∧ ci < 16) ∨
      (ck = 4 ∧ kind = 2 ∧ ci < 2) ∨ (ck = 5 ∧ kind ≠ 2 ∧ ci = 0)
    let okBits : Prop := ¬ (kind = 1 ∧ bit data 30 = true) ∧ (kind = 1 ∨ fld data 3 0 = 0)
    (mxOpen m .ch s →
      (c < 192 → fld data 29 10 = 0 → exec (.chOwnerWrite m c data) s = .next z) ∧
      (c < 192 → fld data 29 10 ≠ 0 → ∃ u, exec (.chOwnerWrite m c data) s = .next u ∧ rejected u) ∧
      (192 ≤ c → badOwner → ∃ u, exec (.chOwnerWrite m c data) s = .next u ∧ rejected u) ∧
      (192 ≤ c → ¬ badOwner → fld data 29 10 = 0 → ∃ u, exec (.chOwnerWrite m c data) s = .next u ∧ chuteOnly z u c ∧
        (getChute u c).owner = data ∧ (getChute u c).pending = false ∧ (getChute u c).cfg = (if k = 0 then 0xC0000000 else 0x80000000)) ∧
      (c < 192 → exec (.chSignal m c) s = .next z) ∧
      (192 ≤ c → takesEvent s c = none → ∃ u, exec (.chSignal m c) s = .next u ∧ chuteOnly z u c ∧
        getChute u c = { x with pending := true }) ∧
      (∃ u, exec (.chPendingClear m c) s = .next u ∧ chuteOnly z u c ∧ getChute u c = { x with pending := false, presented := none }) ∧
      (192 ≤ c → okConsumer → okBits → fld data 29 28 = 0 → fld data 9 4 = 0 → fld x.cfg 29 28 = 0 → fld x.cfg 9 4 = 0 → x.pending = false →
        ∃ u, exec (.chCfgWrite m c data) s = .next u ∧ chuteOnly z u c ∧ (getChute u c).cfg = (if kind = 0 then setBit data 30 else data) ∧
          (getChute u c).owner = x.owner ∧ (getChute u c).pending = false) ∧
      (192 ≤ c → ¬ okConsumer ∨ ¬ okBits → ∃ u, exec (.chCfgWrite m c data) s = .next u ∧ rejected u)) ∧
    (mxOpen m (.ic true) s →
      (fld data 7 0 ≠ 0 → fld data 31 9 = 0 → ∃ u, exec (.icFilterWrite m i data) s = .next u ∧ (getFilter u i).length.toNat = fld data 7 0 ∧
        (getFilter u i).since = s.sclk + 2 ∧ (getFilter u i).level = (getFilter s i).level ∧ u = { zi with filters := u.filters }) ∧
      (fld data 7 0 = 0 → exec (.icFilterWrite m i data) s = .next { zi with ic1 := setBit s.ic1 0 })) ∧
    (v < vecsOf f → fnOpen f s →
      (fld data 23 16 ≠ 0 → fld data 15 0 ≠ 0 → fld data 31 24 = 0 → fld vec.coal 31 24 = 0 →
        exec (.vcCoalWrite f v data) s = .next (setVec zf f v { vec with
          coal := data, reached := if vec.events < (vecTerms s f vec).1 then s.sclk else vec.reached })) ∧
      (fld data 23 16 = 0 ∨ fld data 15 0 = 0 → ∃ u, exec (.vcCoalWrite f v data) s = .next u ∧
        bit (getBag u f 0).status 0 = true ∧ u = { zf with bags := u.bags }))

/-- R552, R553, R562, R565, R570 to R572: an event of a chute sets PENDING, or is one event of the vector that takes it at once; a
filtered input's assertion, once LENGTH samples in a row have shown it, is one event of its chute; a vector whose count or time is reached sends its message when its spacing allows,
in its turn among those that become due at once, and a masked one sets its Pending Bit; unmasking it sends the message that waits, and its events count from 0 again; a pool chute's presentation moves on. R565 to R567,
R569, R570, R576, R578, the grant of an interrupt. The chute presented is pending, not masked, of higher priority than the service
priority, and no other such chute has a higher priority, or the same and a lower number. A grant clears its PENDING and enters the
handler, FADDR naming chute and priority; in phase 1 it replaces the interrupt being entered, whose chute is pending again; in phase 2 it
takes over the frame of the FRET; in phase 3 it comes before the FRET has begun, and only its priority above the service that the FRET would
leave counts. An engine that accepts none stays as it is. (The phases name the moment, log 48; the entry is stated
where no fetch line holds the handler's row.) -/
def Obligations.InterruptDelivery : Prop :=
  (∀ (c v : Nat) (f : Fn) (level : Bool) (s : State), c < 256 → vecExists f v = true →
      let x := getChute s c
      let produced : Prop := ¬ ((c < 128 ∧ nTiles s ≤ c) ∨ (164 ≤ c ∧ c < 192))
      let vec := getVec s f v
      let own := fnTenant f
      let minCount := (own.map (fun n => (getTen s n).contract.intMinCount)).getD 0
      let minTime := (own.map (fun n => (getTen s n).contract.intMinTime)).getD 0
      let count := max (fld vec.coal 23 16) minCount
      let time := 100 * max (fld vec.coal 15 0) minTime
      let apart : Prop := vec.last = none ∨ (∃ t, vec.last = some t ∧ t + 100 * minTime ≤ s.sclk)
      let due : Prop := 1 ≤ vec.events ∧ (count ≤ vec.events ∨ vec.first + time ≤ s.sclk) ∧ apart
      let masked : Prop := vecMask vec = true ∨ fnMasked s f = true
      let onFilter (i : Nat) : State := setFilter i { getFilter s i with level := level } s
      let settled (i : Nat) : Prop := (getFilter s i).since + (getFilter s i).length.toNat ≤ s.sclk
      let rises (i : Nat) : Prop := level = true ∧ (getFilter s i).raw = true ∧ (getFilter s i).level = false ∧ settled i
      (¬ produced → exec (.chuteEvent c) s = .next s) ∧
      (produced → takesEvent s c = none → exec (.chuteEvent c) s = .next (setChute s c { x with pending := true })) ∧
      (produced → takesEvent s c = some f → chuteIndex x = v → ∃ u, exec (.chuteEvent c) s = .next u ∧
        getChute u c = { x with pending := false } ∧ (∀ d, d ≠ c → getChute u d = getChute s d) ∧
        getVec u f v = { vec with
          events := min (vec.events + 1) 255, first := if vec.events = 0 then s.sclk else vec.first,
          reached := if vec.events < count then s.sclk else vec.reached, prio := max vec.prio (chutePrio x + 1) }) ∧
      (∀ i, i < 6 → level ≠ (getFilter s i).raw → exec (.inputFilterChange i level) s =
        .next (setFilter i { getFilter s i with raw := level, since := s.sclk + 2 } s)) ∧
      (∀ i, i < 6 → level = (getFilter s i).raw → level = (getFilter s i).level ∨ ¬ settled i → exec (.inputFilterChange i level) s = .next s) ∧
      (∀ i, i < 6 → level = false → (getFilter s i).raw = false → (getFilter s i).level = true → settled i → exec (.inputFilterChange i level) s = .next (onFilter i)) ∧
      (rises 0 → takesEvent s 163 = none → exec (.inputFilterChange 0 level) s =
        .next (setChute (onFilter 0) 163 { getChute s 163 with pending := true })) ∧
      (rises 5 → takesEvent s 161 = none → exec (.inputFilterChange 5 level) s =
        .next (setChute (onFilter 5) 161 { getChute s 161 with pending := true })) ∧
      (∀ i, 1 ≤ i → i < 5 → rises i → (∀ d, 192 ≤ d → d < 256 → takesEvent s d = none) →
        ∃ u, exec (.inputFilterChange i level) s = .next u ∧ u = { onFilter i with chutes := u.chutes } ∧ ∀ d, d < 256 → getChute u d =
          if 192 ≤ d ∧ fld (getChute s d).owner 31 30 = 1 ∧ bit (getChute s d).cfg (i - 1) = true then { getChute s d with pending := true }
          else getChute s d) ∧
      (bit s.ic0 31 = true ∨ inDoze s = true → exec (.msixMessage f v) s = .next s) ∧
      (bit s.ic0 31 = false → inDoze s = false →
        (masked → due → exec (.msixMessage f v) s = .next (setVec s f v { vec with events := 0, pendingBit := true, prio := 0 })) ∧
        (masked → ¬ due → exec (.msixMessage f v) s = .next s) ∧
        (¬ masked → (due ∧ givesWay s f v = false) ∨ (vec.pendingBit = true ∧ apart) → ∃ u, exec (.msixMessage f v) s = .next u ∧ u.out = .msix f v :: s.out ∧
          getVec u f v = { vec with events := 0, last := some s.sclk, pendingBit := false, prio := 0 } ∧ u = { s with vecs := u.vecs, out := u.out }) ∧
        (¬ masked → ¬ due ∨ givesWay s f v = true → ¬ (vec.pendingBit = true ∧ apart) → exec (.msixMessage f v) s = .next s)) ∧
      (∀ w y, (vecKey f w, y) ∈ s.vecs → vecOfKey (vecKey f w) = (f, w) → vecMask y = false → fnMasked s f = false → vecDue s f y = true →
        dueAt s f y = dueAt s f vec → vec.prio < y.prio ∨ (vec.prio = 0 ∧ y.prio = 0 ∧ w < v) → givesWay s f v = true) ∧
      (vec.pendingBit = true → fnMasked s f = false → bit s.ic0 31 = false → inDoze s = false → apart → ∃ u, exec (.msixVectorUnmask f v) s = .next u ∧
        u.out = .msix f v :: s.out ∧ getVec u f v = { vec with mask := false, masking := false, pendingBit := false, events := 0, last := some s.sclk, prio := 0 } ∧
        u = { s with vecs := u.vecs, out := u.out }) ∧
      (vec.pendingBit = false ∨ fnMasked s f = true ∨ bit s.ic0 31 = true ∨ inDoze s = true ∨ ¬ apart → exec (.msixVectorUnmask f v) s =
        .next (setVec s f v { vec with mask := false, masking := false })) ∧
      ((poolTenant x).isSome = true → x.pending = true → chuteMask x = false → ∃ t, exec (.poolPresentationTimeout c) s =
        .next (setChute s c { x with presented := t }) ∧
        (∀ k, t = some k → (getTile s k).owner.map (·.1) = poolTenant x ∧ (getTile s k).eng.runstate = 1 ∧ k < nTiles s)) ∧
      (poolTenant x = none ∨ x.pending = false ∨ chuteMask x = true → exec (.poolPresentationTimeout c) s = .next s)) ∧
  (∀ (e : EngineId) (s : State) (c d l : Nat) (p : Option Nat) (r : List (Option Nat)) (desc : Desc) (v : TWord), engExists s e = true →
      let x := getEng s e
      let prio := chutePrio (getChute s c)
      let can (n : Nat) (k : Nat) : Prop := targets s e k = true ∧ (getChute s k).pending = true ∧ chuteMask (getChute s k) = false ∧
        n ≤ chutePrio (getChute s k)
      let fad : Word := BitVec.ofNat 64 (prio * 2 ^ 8 + c)
      let chuteAfter (u : State) : Prop := (getChute u c).pending = false ∧ (∀ k, k ≠ c → getChute u k = getChute s k)
      (∀ n, presentedTo s e n = some c → c < 256 ∧ can n c ∧ (d < 256 → can n d →
        chutePrio (getChute s d) < prio ∨ (chutePrio (getChute s d) = prio ∧ c ≤ d))) ∧
      (canAccept s e = false → exec (.interruptGrant e 0) s = .next s) ∧
      (canAccept s e = true → presentedTo s e (serviceOf x) = none → exec (.interruptGrant e 0) s = .next s) ∧
      (canAccept s e = false ∨ (∀ q t, x.svc ≠ some q :: t) → exec (.interruptGrant e 3) s = .next s) ∧
      (∀ q t, canAccept s e = true → x.svc = some q :: t → presentedTo s e (serviceOf { x with svc := t }) = none →
        exec (.interruptGrant e 3) s = .next s) ∧
      (∀ (ph : BitVec 2) (n : Nat), canAccept s e = true →
        (ph = 0 ∧ n = serviceOf x) ∨ (ph = 3 ∧ ∃ q t, x.svc = some q :: t ∧ n = serviceOf { x with svc := t }) →
        presentedTo s e n = some c → x.sb = [] → x.ds.length ≤ 14 → x.rs.length ≤ 14 → s.cm.locks = [] →
        (∀ t, e = .tile t → bit ((getTile s t).reg 0x0F8) 31 = false ∧ bit ((getTile s t).reg 0x304) 2 = false) →
        reaches s e (fun d => d.x) 0 0x100 4 desc → soundWord s e ((desc.base.toNat + 0x100) / 8) = some v → v.tag ≠ 0xF →
        (∀ l ∈ x.lines, l.row ≠ (desc.base.toNat + 0x100) / 256) →
        ∃ u, exec (.interruptGrant e ph) s = .next u ∧ chuteAfter u ∧ (getEng u e).hlevel = x.hlevel + 1 ∧
          (getEng u e).ds.drop 1 = ⟨fad, 1⟩ :: x.ds ∧ (getEng u e).rs.drop 1 = npcOf x :: x.rs ∧ (getEng u e).rs.headD 0 = x.pc ∧
          (getEng u e).pc = 0x100 ∧ (getEng u e).npc = 0x104 ∧ (getEng u e).svc = some prio :: x.svc ∧ (getEng u e).entering = some c ∧
          (getEng u e).x = x.x ∧ (getEng u e).y = x.y ∧ u.hbm = s.hbm) ∧
      (x.entering = some l → mayTake s e = true → presentedTo s e (serviceOf x) = some c → l ≠ c → ∃ u, exec (.interruptGrant e 1) s = .next u ∧
        (getChute u c).pending = false ∧ (getChute u l).pending = true ∧ (∀ k, k ≠ c → k ≠ l → getChute u k = getChute s k) ∧
        getEng u e = { x with
          ds := setAt x.ds 1 ⟨fad, 1⟩, svc := some prio :: x.svc.drop 1, entering := some c,
          cycles := x.cycles + BitVec.ofNat 64 (Config.waits s.free % 2) }) ∧
      (x.entering = none ∨ mayTake s e = false ∨ presentedTo s e (serviceOf x) = none → exec (.interruptGrant e 1) s = .next s) ∧
      (∀ (s1 : State) (fi fa : TWord) (q : List TWord), x.svc = p :: r → p ≠ none → mayTake s e = true → atBoundary x = true → x.annulled = false → x.mid = false → x.waiting = false →
        x.hlevel < 15 → x.isSealed = false → x.dfault = false → presentedTo s e (serviceOf { x with svc := r }) = some c →
        longReady e fretSpec s = some s1 → (getEng s1 e).ds = fi :: fa :: q → fi.tag = 1 → fa.tag = 1 → fi.data.toNat < 2 ^ 20 →
        reaches s1 e (fun d => d.x) 0 0x100 4 desc → soundWord s1 e ((desc.base.toNat + 0x100) / 8) = some v → v.tag ≠ 0xF →
        (∀ l ∈ (getEng s1 e).lines, l.row ≠ (desc.base.toNat + 0x100) / 256) →
        let y := getEng s1 e
        let best := chutePrio (getChute s1 c)
        ∃ u, exec (.interruptGrant e 2) s = .next u ∧ (getChute u c).pending = false ∧ (∀ k, k ≠ c → getChute u k = getChute s1 k) ∧
          (getEng u e).ds = fi :: ⟨BitVec.ofNat 64 (best * 2 ^ 8 + c), 1⟩ :: q ∧ (getEng u e).svc = some best :: y.svc.drop 1 ∧
          (getEng u e).pc = 0x100 ∧ (getEng u e).npc = 0x104 ∧ (getEng u e).rs = y.rs ∧ (getEng u e).hlevel = y.hlevel ∧
          (getEng u e).entering = some c ∧ (getEng u e).x = y.x ∧ (getEng u e).y = y.y) ∧
      ((∀ q t, x.svc ≠ some q :: t) ∨ mayTake s e = false → exec (.interruptGrant e 2) s = .next s))

/-- R432, R455 to R457, R459, R461, R462, R464 to R469: a letterbox write is dropped, rejected or posted by the first row of R461 that
applies; MB_CFG takes a configuration only while the mailbag is disabled, enables it with its counts at 0 where its rings are well
placed, and is cleared while it is enabled; MB_TRAY_HEAD takes a count up to TRAY_TAIL. A receipt is two words, its PHASE and its tag, in
the next entry of the tray. (Stated for rings in host memory and, for the head of a tray, where nothing waits for room; the tag is free
of reading, log 51.) -/
def Obligations.Mailbags : Prop :=
  ∀ (f : Fn) (m : Nat) (data : BitVec 32) (key : Option Key) (old : Option Word) (w0 w1 : Word) (s : State), m < bagsOf f →
    let b := getBag s f m
    let n := fld data 6 0
    let size := 2 ^ fld b.cfg 4 0
    let held := (b.tail + 131072 - b.head) % 131072
    let full : Prop := 2 ^ fld b.cfg 12 8 ≤ (b.trayTail + 131072 - b.trayHead) % 131072
    let z := movePtr (targetOf (.bar0 f)) (.pcie f) s
    let flag (c : Instr) (k : Nat) : Prop := exec c s = .next (setBag z f m { b with status := setBit b.status k })
    let post : Instr := .mbLetterbox f m data
    let refuses (status : Nat) : Prop := (full → flag post 2) ∧ (¬ full → exec post s =
      .next (writeReceipt f m (frankKey s f) none (BitVec.ofNat 64 status) (BitVec.ofNat 64 (n * 2 ^ 32)) z))
    let dropped : Prop := bit b.cfg 31 = false ∨ (∃ t, f = .vf t ∧ ((getTen s t).st = .resetting ∨ m = 63))
    let badSize : Prop := fld data 31 7 ≠ 0 ∨ n = 0 ∨ 64 < n
    let cfgGood : Prop := 4 ≤ fld data 4 0 ∧ fld data 4 0 ≤ 16 ∧ 4 ≤ fld data 12 8 ∧ fld data 12 8 ≤ 16 ∧ fld data 7 5 = 0 ∧
      fld data 15 13 = 0 ∧ fld data 29 20 = 0
    let aligned : Prop := bit data 30 = false ∧ b.ring.toNat % 64 = 0 ∧ b.tray.toNat % 32 = 0
    (fnOpen f s →
      (dropped → flag post 1) ∧ (¬ dropped → badSize → flag post 0) ∧ (¬ dropped → ¬ badSize → size < n → refuses 0x0101) ∧
      (¬ dropped → ¬ badSize → n ≤ size → size - held < n → refuses 0x0102) ∧
      (¬ dropped → ¬ badSize → n ≤ size → n ≤ size - held → ∃ u, exec post s = .next u ∧
        getBag u f m = { b with tail := (b.tail + n) % 131072, posted := b.posted ++ [n] } ∧ u.tiles = s.tiles ∧ u.envs = s.envs ∧
        (s.sys.doze = .run → u = setBag z f m { b with tail := (b.tail + n) % 131072, posted := b.posted ++ [n] })) ∧
      (bit b.cfg 31 = true → data ≠ clrBit b.cfg 31 → flag (.mbCfgWrite f m data) 0) ∧
      (bit b.cfg 31 = true → data = clrBit b.cfg 31 → ∃ u, exec (.mbCfgWrite f m data) s = .next u ∧ getBag u f m = { b with cfg := data } ∧
        u = { setBag z f m { b with cfg := data } with envs := s.envs.filter (fun e => !(placeBag e.place == some (f, m) && e.st == .fetching)) }) ∧
      (bit b.cfg 31 = false → bit data 31 = true → bit b.status 3 = true → flag (.mbCfgWrite f m data) 0) ∧
      (bit b.cfg 31 = false → cfgGood → fld b.cfg 7 5 = 0 → fld b.cfg 15 13 = 0 → fld b.cfg 29 20 = 0 →
        (bit data 31 = false → exec (.mbCfgWrite f m data) s = .next (setBag z f m { b with cfg := data })) ∧
        (bit data 31 = true → bit b.status 3 = false → aligned → exec (.mbCfgWrite f m data) s = .next (setBag z f m { b with
          cfg := data, head := 0, tail := 0, trayHead := 0, trayTail := 0, posted := [] })) ∧
        (bit data 31 = true → bit b.status 3 = false → bit data 30 = false → ¬ aligned → ∃ u, exec (.mbCfgWrite f m data) s = .next u ∧
          getBag u f m = { b with cfg := clrBit data 31, status := setBit b.status 0 })) ∧
      ((fld data 16 0 + 131072 - b.trayHead) % 131072 ≤ (b.trayTail + 131072 - b.trayHead) % 131072 → fld data 31 17 = 0 →
        s.envs.all (fun e => placeBag e.place != some (f, m) || e.st != .answered) = true → unsolOf s f = ([], 0) →
        exec (.mbTrayHeadWrite f m data) s = .next (setBag z f m { b with trayHead := fld data 16 0 })) ∧
      ((b.trayTail + 131072 - b.trayHead) % 131072 < (fld data 16 0 + 131072 - b.trayHead) % 131072 → flag (.mbTrayHeadWrite f m data) 0)) ∧
    (bit b.cfg 30 = false →
      let u := writeReceipt f m key old w0 w1 s
      let entries := 2 ^ fld b.cfg 12 8
      let phase := if b.trayTail / entries % 2 = 0 then w0 ||| BitVec.ofNat 64 (2 ^ 31) else w0
      let ctr := old.getD b.rcptCtr
      let vec := (match f with | .pf => 16 * m | .vf _ => 0) + fld b.cfg 19 16
      u.out = .hostWrite f (b.tray.toNat + 32 * (b.trayTail % entries)) ([phase, w1] ++ (match key with
        | some k => frankWords k (BitVec.ofNat 96 (ctr.toNat + (m % 64 + 128) * 2 ^ 64)) [phase, w1, 0, 0]
        | none => [0, 0])) (translates s f (b.tray.toNat + 32 * (b.trayTail % entries))) :: s.out ∧
      getBag u f m = { b with
        trayTail := (b.trayTail + 1) % 131072, rcptCtr := if key.isSome && old.isNone then (if b.rcptCtr.toNat + 1 = 2 ^ 64 then b.rcptCtr else b.rcptCtr + 1) else b.rcptCtr } ∧
      (getVec u f vec).events = min ((getVec s f vec).events + 1) 255 ∧ u = { s with out := u.out, bags := u.bags, vecs := u.vecs })

/-- R433, R435, R453, R454, R470 to R481, R501, R654, the service of envelopes. While the postmaster serves and fewer than 256 envelopes
execute, a fetch takes an eligible PF mailbag first, and otherwise a tenant's, with its credits and pointers; a fetch that comes back is
checked in the order of R471 and rejected, held or begun; one that failed has its receipt; the first held envelope of a place whose
wait is over goes on;
an ESEND receipt is written into the tile that holds its index, whose chute is raised, or into the index's context area; waiting unsolicited receipts are written while the
tray has room; records of the journal are committed in order, a line of the journal area each (the model's layout, log 60). (Rings in host memory; when a fetch's words come back is a command of its
own, log 31.) -/
def Obligations.EnvelopeService : Prop :=
  ∀ (p : Place) (n m i t a : Nat) (f : Fn) (e : Env) (ws : List Word) (g : Nat) (x : BitVec 16 × Word) (s : State),
    let jour (u : State) : State := { u with sys := { u.sys with journal := u.sys.journal + 1 } }
    let idle : Prop := pmServes s = false ∨ 256 ≤ executing s
    let pf := firstAfter 16 s.pfPtr (bagEligible s .pf)
    let ten := getTen s n
    let fetched (u : State) (place : Place) (fn : Fn) (mb : Nat) : Prop :=
      let b := getBag s fn mb
      let k := b.posted.headD 1
      u.envs = s.envs ++ [newEnv s.nextEnv place .fetching [] k (0, 0) 0 (keyNow s fn) b.expSeq.toNat] ∧ u.nextEnv = s.nextEnv + 1 ∧ u.sys.journal = s.sys.journal + 1 ∧
        u.bags = s.bags ∧ (b.head % 2 ^ fld b.cfg 4 0 + k ≤ 2 ^ fld b.cfg 4 0 →
          u.out = .hostRead fn (b.ring.toNat + 64 * (b.head % 2 ^ fld b.cfg 4 0)) (64 * k)
          (translates s fn (b.ring.toNat + 64 * (b.head % 2 ^ fld b.cfg 4 0))) :: s.out)
    (idle → exec .envelopeFetch s = .next s) ∧
    (¬ idle → pf = some m → bagSpace (getBag s .pf m) = false → ∃ u, exec .envelopeFetch s = .next u ∧ fetched u (.pfBag m) .pf m ∧
      u.pfPtr = m ∧ u.tPtr = s.tPtr) ∧
    (¬ idle → pf = none → nextTenant s = some n → tenantSource s n = some i → i < 64 → bagSpace (getBag s (.vf n) i) = false →
      ∃ u, exec .envelopeFetch s = .next u ∧ fetched u (.tenantBag n i) (.vf n) i ∧ (getTen u n).svcPtr = i ∧
        (getTen u n).svcCredit = (if ten.svcCredit = 0 then ten.contract.serviceWeight else ten.svcCredit) - 1 ∧
        u.tPtr = (if (getTen u n).svcCredit = 0 then (n + 1) % 1024 else n)) ∧
    (¬ idle → pf = none → nextTenant s = none → ∃ u, exec .envelopeFetch s = .next u ∧ u = { s with tenants := u.tenants } ∧
      ∀ k, k < 1024 → getTen u k = { getTen s k with svcCredit := 0 }) ∧
    (envAt s p .fetching = some e → placeBag p = some (f, m) → e.place = p → s.envs.count e = 1 →
      let words := (List.range (8 * e.slots)).map (wordAt ws)
      let e1 := { e with words := words }
      let s1 := passHead f m e.slots (putEnv e e1 s)
      let accept := if e.franking = .raw then 0x0104
        else if frankWords e.franking (BitVec.ofNat 96 ((hSeq e1).toNat + m % 64 * 2 ^ 64)) (frankText words) ≠ (words.drop 6).take 2 then 0x0105
        else if (hSeq e1).toNat ≠ e.wait ∨ e.wait = 2 ^ 64 - 1 ∨ (getBag s f m).rcptCtr.toNat = 2 ^ 64 - 1 then 0x0106 else 0
      let now := (postmark s).toNat
      let late := if hDeliver e1 = 0 then 0 else now - (hDeliver e1).toNat
      let header := match opRow (hOpcode e1) with
        | none => 0x0107
        | some r => if !fromOk r e1.place then 0x0108 else if !reservedOk r e1 then 0x0109 else if !tenantOk r e1 then 0x010A
          else if hPayload e1 ≠ 64 * (e.slots - 1) ∨ e.slots - 1 < r.lo ∨ r.hi < e.slots - 1 then 0x010B
          else if now + 2 ^ 40 < (hDeliver e1).toNat then 0x010C else if 0 < late ∧ (hFlags e1).testBit 1 then 0x010D else 0
      (∀ k w, exec (.hostReadCompletion p (.err k w)) s = .next (jour (finishEnv e 0x0103 0 (passHead f m e.slots s)))) ∧
      (accept ≠ 0 → exec (.hostReadCompletion p (.ok ws)) s =
        .next (jour (finishEnv e1 accept 0 (if accept = 0x0105 then bumpFaults f s1 else s1)))) ∧
      (accept = 0 → e.oldCtr = none → ∃ u, exec (.hostReadCompletion p (.ok ws)) s = .next u ∧
        (getBag u f m).head = ((getBag s f m).head + e.slots) % 131072 ∧ (getBag u f m).expSeq = (getBag s f m).expSeq + 1 ∧
        (header = 0 → bit (getBag u f m).status 3 = true ∧ (∃ y, y ∈ u.envs ∧ y.place = p ∧ y.words = words ∧ y.late = late ∧
          y.st = (if seqMet s1 e1 = false then .heldSeq else if now < (hDeliver e1).toNat ∨ 256 ≤ executing s then .heldTime
            else .executing))))) ∧
    (s.envs.all (fun y => y.place != p || y.st != .heldSeq || !seqMet s y) = true → exec (.sequenceWaitMet p) s = .next s) ∧
    (s.envs.find? (fun y => y.place == p && y.st == .heldSeq && seqMet s y) = some e → e.place = p → pmServes s = true →
      (seqMet s e = true → (postmark s).toNat < (hDeliver e).toNat ∨ 256 ≤ executing s →
        exec (.sequenceWaitMet p) s = .next (jour (putEnv e { e with st := .heldTime } s))) ∧
      (seqMet s e = true → (hDeliver e).toNat ≤ (postmark s).toNat → executing s < 256 → exec (.sequenceWaitMet p) s = .next (jour
        { s with envs := s.envs.erase e ++ [{ e with st := .executing, ran := true, startedAt := s.sclk, phase := 0, wait := 0 }] }))) ∧
    (s.envs.all (fun y => y.place != p || y.st != .heldTime || !timeMet s y) = true → exec (.deliverAtReached p) s = .next s) ∧
    (s.envs.find? (fun y => y.place == p && y.st == .heldTime && timeMet s y) = some e → e.place = p → pmServes s = true →
      ((hDeliver e).toNat ≤ (postmark s).toNat → seqMet s e = true → executing s < 256 → exec (.deliverAtReached p) s = .next (jour
        { s with envs := s.envs.erase e ++ [{ e with st := .executing, ran := true, startedAt := s.sclk, phase := 0, wait := 0 }] }))) ∧
    ((∀ k, f = .vf k → k < 1024) →
      (unsolReady s f = false → exec (.unsolicitedReceiptFlush f) s = .next s) ∧
      (unsolReady s f = true → unsolOf s f = ([], 0) → exec (.unsolicitedReceiptFlush f) s = .next s) ∧
      (unsolReady s f = true → unsolOf s f = ([x], 0) → exec (.unsolicitedReceiptFlush f) s =
        .next (writeReceipt f 0 (frankKey s f) none (x.1.setWidth 64) x.2 (setUnsol f [] 0 s))) ∧
      (unsolReady s f = true → unsolOf s f = ([], g + 1) → exec (.unsolicitedReceiptFlush f) s =
        .next (writeReceipt f 0 (frankKey s f) none 0x0605 (BitVec.ofNat 64 (g + 1)) (setUnsol f [] 0 s)))) ∧
    (s.esendReceipts = [(n, i, a, ws)] → a % 32 = 0 → a < 0x3FF000 → ws.length = 4 →
      (tileOf s n i = some t → bit ((getTile s t).reg 0x0F8) 31 = false → ∃ u, exec (.esendReceiptArrival n i) s = .next u ∧ u.esendReceipts = [] ∧
        (getChute u t).pending = true ∧ (∀ k, k < 4 → (getTile u t).store.cell (a / 8 + k) = ⟨wordAt ws k, 0, 0⟩) ∧
        (∀ w, w < a / 8 ∨ a / 8 + 4 ≤ w → (getTile u t).store.cell w = (getTile s t).store.cell w)) ∧
      (tileOf s n i = none → ∃ u, exec (.esendReceiptArrival n i) s = .next u ∧ u.esendReceipts = [] ∧ u.tiles = s.tiles ∧ u.chutes = s.chutes ∧
        (tenantArea s n i = none → u = { s with esendReceipts := [] }) ∧
        (∀ d l tg s1, tenantArea s n i = some d → segReadLine (some n) d (a / 64) 2 pmRequester { s with esendReceipts := [] } = (some (l, tg), s1) →
          s.chans.all (fun kv => kv.2.held.isNone) = true → bit (hcReg s ((linePlace d (a / 64)).1 / 64) 0x028) 31 = false →
          let h := getLine u (linePlace d (a / 64)).1 (linePlace d (a / 64)).2
          h.err = 0 ∧ h.key = segKey s (some n) d (linePlace d (a / 64)).1 (linePlace d (a / 64)).2 ∧ ∀ k, k < 8 → lineWord h.data h.tags k =
            if a / 8 % 8 ≤ k ∧ k < a / 8 % 8 + 4 then ⟨wordAt ws (k - a / 8 % 8), 0⟩ else lineWord l tg k))) ∧
    (s.sys.journalCommitted < s.sys.journal → ∃ u, exec .journalCommit s = .next u ∧ u.sys.journalCommitted = s.sys.journalCommitted + 1 ∧
      areaWritten s u (journalLine s s.sys.journalCommitted) (rawWords ((List.range 8).map (Config.journalWord s.sys.journalCommitted))) ∧
      u.tiles = s.tiles ∧ u.envs = s.envs ∧ linesKept s u (fun pr => pr = journalLine s s.sys.journalCommitted)) ∧
    (s.sys.journal ≤ s.sys.journalCommitted → exec .journalCommit s = .next s)

/-- R155, R229, R335, R336, R343, R476, R482, R484 to R489, R492 to R494, R499, R716, the envelopes that move data and allocate memory:
what each does, its STATUS and its RESULT; the lines of a buffer and of a descriptor table are written in HBM, a buffer's lines are read
with their checks, and a line that cannot be read ends the envelope; a PCIe error ends DMA_OUT with the lines moved (whether one comes is a
free value, log 64); SEG_FREE's receipt waits until GO has cleared on every tile of the tenant; an HBM_QUOTA of 0 allocates nothing. (Which free buffer and which free stripes the postmaster takes is its own choice, a free value of log 14.) -/
def Obligations.DataEnvelopes : Prop :=
  ∀ (p : Place) (e x : Env) (k : DmaEnd) (d : Desc) (s : State),
    let n := envTenant e
    let o := match p with | .pfBag _ => 1024 | _ => n
    let i := argB e 0 4 % 1024
    let b := getBuf s i
    let logged (k : Nat) (u : State) : State := { u with sys := { u.sys with eventLog := u.sys.eventLog ++ [(k, o)] } }
    let wrong (st : Nat) (u : State) : State := if st = 0x0204 then bumpFaults (envFn e) u else if st = 0x0202 then logged 0x0202 u else u
    let stale : Prop := b.owner = none ∨ b.gen.toNat ≠ argB e 0 4 / 1024
    let held := (s.buffers.filter (fun kv => kv.2.owner == some o)).length
    let v := argB e 0 1
    let len := (payWord e 0).toNat
    let seg := argB e 0 2
    let old := tenDesc s n seg
    let row := areaLine s (2 * n) (seg / 2)
    let put (u : State) (d : Desc) : Prop := tenDesc u n seg = d ∧ (∀ g, g ≠ seg → tenDesc u n g = tenDesc s n g) ∧
      areaWritten s u row (intWords (descWords (tenDesc u n (2 * (seg / 2))) ++ descWords (tenDesc u n (2 * (seg / 2) + 1)))) ∧
      (n < 1024 → linesKept s u (fun pr => pr = row))
    let unused : Prop := s.jobs.all (fun j => !(j.2.kind == .fill && j.2.tenant == n && j.2.seg.toNat == seg)) = true
    e.place = p →
    (serving p 0x01 s e → exec (.envelopeNop p) s = endsWith e 0 0 s) ∧
    (serving p 0x02 s e → exec (.fpflagsRead p) s = endsWith e 0 (getTen s n).fpflags.toNat
      (if argB e 0 1 % 2 = 1 then setTen s n { getTen s n with fpflags := 0 } else s)) ∧
    (serving p 0x03 s e →
      (0x40 ≤ v → v < 0x80 → exec (.mbCancel p) s = endsWith e 4 0 s) ∧
      (v < 0x40 → s.envs.find? (fun x => x.place == .tenantBag n v && (x.st == .heldSeq || x.st == .heldTime)) = some x →
        exec (.mbCancel p) s = endsWith e 0 1 (finishEnv x 2 0 s)) ∧
      (v < 0x40 → s.envs.find? (fun x => x.place == .tenantBag n v && (x.st == .heldSeq || x.st == .heldTime)) = none →
        exec (.mbCancel p) s = endsWith e 0 0 s) ∧
      (0x80 ≤ v → (queueOf n (v - 0x80) s).all (fun y => !y.wasHeld) = true → exec (.mbCancel p) s =
        endsWith e 0 (if heldOf n (v - 0x80) s = [] then 0 else 1) (forL (heldOf n (v - 0x80) s) (fun y u => finishEnv y 2 0 u) s)) ∧
      (∀ y, 0x80 ≤ v → heldOf n (v - 0x80) s = [] → (queueOf n (v - 0x80) s).filter (·.wasHeld) = [y] → exec (.mbCancel p) s =
        endsWith e 0 1 (cancelReceipt n (v - 0x80) y (setQueue n (v - 0x80) ((queueOf n (v - 0x80) s).filter (fun y => !y.wasHeld)) s)))) ∧
    (serving p 0x08 s e →
      ((if o = 1024 then 64 else 16) ≤ held → exec (.bufAlloc p) s = endsWith e 0x0201 0 s) ∧
      (held < (if o = 1024 then 64 else 16) → (∀ j, j < 1024 → (getBuf s j).owner ≠ none) → exec (.bufAlloc p) s = endsWith e 0x0201 0 s) ∧
      (held < (if o = 1024 then 64 else 16) → (∃ j, j < 1024 ∧ (getBuf s j).owner = none) → ∃ j, j < 1024 ∧ (getBuf s j).owner = none ∧
        exec (.bufAlloc p) s = endsWith e 0 ((getBuf s j).gen.toNat * 1024 + j)
          (setBuf (clearArea (4096 + 16 * j) 16 { s with free := s.free + 1 }) j ⟨some o, (getBuf s j).gen, []⟩))) ∧
    (∀ j l c, (∀ y, l ≤ y → y < l + c → areaSound s (bufLine s j y)) → s.chans.all (fun kv => kv.2.held.isNone) = true →
      ∃ u, bufGood j l c s = (c, u) ∧ u = { s with chans := u.chans }) ∧
    (serving p 0x09 s e → s.envs = [e] →
      (stale → exec (.bufReturn p) s = endsWith e 0x0203 0 (logged 0x0203 s)) ∧
      (¬ stale → b.owner ≠ some o → exec (.bufReturn p) s = endsWith e 0x0204 0 (bumpFaults (envFn e) s)) ∧
      (¬ stale → b.owner = some o → exec (.bufReturn p) s = endsWith e 0 0 (setBuf s i ⟨none, b.gen + 1, []⟩))) ∧
    (serving p 0x09 s e → x ∈ s.envs → x.st = .executing → handleOf x = some (argB e 0 4) → exec (.bufReturn p) s = stepped s) ∧
    (serving p 0x0A s e →
      (stale → exec (.bufWrite p) s = endsWith e 0x0202 0 (logged 0x0202 s)) ∧
      (¬ stale → b.owner ≠ some o → exec (.bufWrite p) s = endsWith e 0x0204 0 (bumpFaults (envFn e) s)) ∧
      (¬ stale → b.owner = some o → argB e 4 4 % 64 ≠ 0 ∨ 2 ^ 20 < argB e 4 4 + hPayload e → exec (.bufWrite p) s = endsWith e 4 0 s) ∧
      (¬ stale → b.owner = some o → argB e 4 4 % 64 = 0 → argB e 4 4 + hPayload e ≤ 2 ^ 20 → hPayload e = 64 * (e.slots - 1) →
        e.words.length = 8 * e.slots → ∃ u, exec (.bufWrite p) s = endsWith e 0 0 u ∧
        (∀ w, w < 2 ^ 17 → bufWord u i w = if argB e 4 4 / 8 ≤ w ∧ w < (argB e 4 4 + hPayload e) / 8 then payWord e (w - argB e 4 4 / 8)
          else bufWord s i w) ∧ (getBuf u i).owner = b.owner ∧ (getBuf u i).gen = b.gen ∧ (∀ j, j ≠ i → getBuf u j = getBuf s j) ∧
        (∀ l, argB e 4 4 / 64 ≤ l → l < (argB e 4 4 + hPayload e) / 64 → areaWritten s u (bufLine s i l)
          (rawWords ((List.range 8).map (fun k => payWord e (8 * l + k - argB e 4 4 / 8))))) ∧
        linesKept s u (fun pr => ∃ l, argB e 4 4 / 64 ≤ l ∧ l < (argB e 4 4 + hPayload e) / 64 ∧ bufLine s i l = pr) ∧ u.tiles = s.tiles)) ∧
    (serving p 0x10 s e →
      (∀ st, e.phase = 0 → dmaTarget s e true = .inl st → exec (.dmaIn p) s = endsWith e st 0 (wrong st s)) ∧
      (e.phase = 0 → dmaTarget s e true = .inr k → exec (.dmaIn p) s = stepped { s with
        envs := s.envs.map (fun y => if y == e then { e with phase := 1 } else y), out := .hostRead (envFn e) (hArg0 e).toNat len
          (translates s (envFn e) (hArg0 e).toNat) :: s.out }) ∧
      (e.phase = 1 → exec (.dmaIn p) s = stepped s) ∧
      (e.phase = 1 → dmaTarget s e true = .inr k → envAt s p .fetching = none → ∀ ws g,
        exec (.hostReadCompletion p (.ok ws)) s = endsWith e 0 0 (dmaStore e k ((List.range (8 * (len / 64))).map (wordAt ws)) s) ∧
        exec (.hostReadCompletion p (.err g ws)) s = endsWith e 6 (min g (len / 64))
          (dmaStore e k ((List.range (8 * min g (len / 64))).map (wordAt ws)) s))) ∧
    (serving p 0x11 s e →
      (∀ st, dmaTarget s e false = .inl st → exec (.dmaOut p) s = endsWith e st 0 (wrong st s)) ∧
      (∀ j off g u, dmaTarget s e false = .inr (.buf j off) → g ≤ len / 64 → bufGood j (off / 64) (len / 64) s = (g, u) →
        let sent := Config.pcieTakes u.free
        let moved (k : Nat) : State := if k = 0 then { u with free := u.free + 1 } else { u with
          free := u.free + 1, out := .hostWrite (envFn e) (hArg0 e).toNat ((List.range (8 * k)).map (fun w => bufWord s j (off / 8 + w)))
            (translates s (envFn e) (hArg0 e).toNat) :: u.out }
        (sent < g → exec (.dmaOut p) s = endsWith e 6 sent (moved sent)) ∧
        (g ≤ sent → g < len / 64 → exec (.dmaOut p) s = endsWith e 5 0 (moved g)) ∧
        (g ≤ sent → g = len / 64 → exec (.dmaOut p) s = endsWith e 0 0 (moved g)))) ∧
    (serving p 0x18 s e → e.phase = 0 →
      (4096 ≤ seg → exec (.segAlloc p) s = endsWith e 4 0 s) ∧
      (seg < 4096 → old.valid = true → exec (.segAlloc p) s = endsWith e 0x0211 0 s) ∧
      (seg < 4096 → old.valid = false → unused → allocDesc e = none → exec (.segAlloc p) s = endsWith e 0x0210 0 s) ∧
      (seg < 4096 → old.valid = false → unused → allocDesc e = some d →
        ((getTen s n).contract.quota = 0 → exec (.segAlloc p) s = endsWith e 0x0213 0 s) ∧
        (d.space = 0 → (getTen s n).contract.quota ≠ 0 → ∃ u, exec (.segAlloc p) s = endsWith e 0 (old.gen + 1).toNat u ∧ put u { d with gen := old.gen + 1 } ∧
          u.jobs = s.jobs ∧ u.tiles = s.tiles) ∧
        (d.space = 1 → (getTen s n).contract.quota < quotaUsed s n + quotaOf d → exec (.segAlloc p) s = endsWith e 0x0213 0 s) ∧
        (d.space = 1 → (getTen s n).contract.quota ≠ 0 → quotaUsed s n + quotaOf d ≤ (getTen s n).contract.quota → (∃ r, findRun s d.global d.homedie.toNat (segStripes d) = some r) →
          s.rotation = none → ∃ r u, runFree s ⟨d.global, d.homedie.toNat, r, segStripes d⟩ = true ∧
          ((payWord e 4).getLsbD 0 = false → exec (.segAlloc p) s = endsWith e 0 (old.gen + 1).toNat u ∧
            put u { d with base := BitVec.ofNat 48 (r * if d.global then 65536 else 8192), gen := old.gen + 1 } ∧ u.jobs = s.jobs) ∧
          ((payWord e 4).getLsbD 0 = true → exec (.segAlloc p) s = stepped u ∧ u.tenants = s.tenants ∧ u.nextJob = s.nextJob + 1 ∧
            u.jobs = s.jobs ++ [(s.nextJob, ⟨.fill, n, BitVec.ofNat 12 seg, d.keyidx.toNat, d.global, d.homedie.toNat, r, segStripes d, []⟩)])) ∧
        (d.space = 1 → (getTen s n).contract.quota ≠ 0 → quotaUsed s n + quotaOf d ≤ (getTen s n).contract.quota → findRun s d.global d.homedie.toNat (segStripes d) = none →
          exec (.segAlloc p) s = endsWith e 0x0214 0 s))) ∧
    (serving p 0x19 s e → e.phase = 0 →
      (4096 ≤ seg → exec (.segFree p) s = endsWith e 4 0 s) ∧
      (seg < 4096 → old.valid = false → exec (.segFree p) s = endsWith e 0x0215 0 s) ∧
      (seg < 4096 → old.valid = true → segBusy s n seg = true → exec (.segFree p) s = endsWith e 0x0212 0 s) ∧
      (seg < 4096 → old.valid = true → segBusy s n seg = false →
        let freed (u : State) : Prop := put u { old with valid := false, gen := old.gen + 1 } ∧ (old.space = 0 → u.jobs = s.jobs) ∧
          (old.space = 1 → u.jobs = s.jobs ++ [(s.nextJob,
            ⟨.unwritten, n, BitVec.ofNat 12 seg, 0, old.global, old.homedie.toNat, segR0 old, segStripes old, []⟩)])
        ((∀ t, t ∈ tilesOf s n → (getTile s t).eng.runstate ≠ 1 ∧ bit ((getTile s t).reg 0x208) 31 = false) →
          ∃ u, exec (.segFree p) s = endsWith e 0 0 u ∧ freed u ∧ ∀ t, t ∈ tilesOf s n → caches u seg t = false) ∧
        ((∃ t, t ∈ tilesOf s n ∧ (getTile s t).eng.runstate = 1) → ∃ u, exec (.segFree p) s = stepped u ∧ freed u ∧
          u.envs = s.envs.map (fun y => if y == e then { e with phase := 1 } else y) ∧
          ∀ t, t ∈ tilesOf s n → (getTile s t).eng.runstate = 1 → bit ((getTile u t).reg 0x208) 31 = true))) ∧
    (serving p 0x19 s e → e.phase = 1 → dinvDone s n seg = true → exec (.segFree p) s = endsWith e 0 0 s) ∧
    (serving p 0x19 s e → e.phase = 1 → dinvDone s n seg = false →
      exec (.segFree p) s = stepped (forL ((tilesOf s n).filter (caches s seg)) (askDinv seg) s)) ∧
    exec .poolRewriteDone s = .next { s with jobs := s.jobs.filter (fun j => !(j.2.kind == .unwritten && jobDone j.2)) } ∧
    (serving p 0x30 s e → e.phase = 0 →
      let dev := argB e 0 2 % 2 ^ 14
      (candidates s dev = [] → exec (.remoteSend p) s = endsWith e 0x010E 1 s) ∧
      (candidates s dev ≠ [] → (getTen s n).contract.fabricWeight = 0 → exec (.remoteSend p) s = endsWith e 0x010E 0x0B s) ∧
      (candidates s dev ≠ [] → (getTen s n).contract.fabricWeight ≠ 0 → ∃ u, exec (.remoteSend p) s = stepped u ∧
        u.reqs = s.reqs ++ [⟨s.nextXtag, .envelope p, n, 0, 0, s.sclk⟩] ∧ u.nextXtag = s.nextXtag + 1 ∧ u.tiles = s.tiles ∧
        u.pmMsgCtr = s.pmMsgCtr ∧ u.envs = s.envs.map (fun y => if y == e then { e with phase := 1, wait := s.nextXtag.toNat } else y)))

/-- R31, R191, R244, R245, R409, R495 to R498, R652, the envelopes that act on tiles: a tile that runs refuses TILE_WRITE, TILE_READ and
TILE_VECTOR, words must lie in its banks, a sheet that fails leaves its slot, the receipt of a launch waits for the round's end and that
of a stop for the halt, and a tile that is reset meanwhile ends for it. Stated for a TILE_SET of one tile, whose first failure in tile
order is its own. -/
def Obligations.TileEnvelopes : Prop :=
  ∀ (p : Place) (e : Env) (t i stage : Nat) (s : State),
    let n := envTenant e
    let tl := getTile s t
    let halted : Prop := tl.eng.runstate ≠ 1
    let one : Prop := tileSet e = [i] ∧ tileOf s n i = some t ∧ i < (getTen s n).contract.tiles ∧ e.lost = []
    let first : Prop := one ∧ e.prog = []
    let later : Prop := one ∧ e.prog = [⟨i, stage, none⟩]
    let keeps (k : Nat) (u : State) : Host.Outcome State Fault Refusal := stepped (putEnv e { e with prog := [⟨i, k, none⟩] } u)
    let count := payB e 4 2
    let a := payB e 0 4
    let b := argB e 4 4
    let words := argB e 12 4
    let buf := argB e 8 4 % 1024
    let bufOk : Prop := (getBuf s buf).owner = some n ∧ (getBuf s buf).gen.toNat = argB e 8 4 / 1024
    let slot := payB e 0 1
    let iters := payB e 4 4
    e.place = p → t < nTiles s → (∀ m, p ≠ .pfBag m) →
    (serving p 0x20 s e → first →
      (tileWriteOk e = false → exec (.tileWrite p) s = endsWith e 4 0 s) ∧
      (tileWriteOk e = true → ¬ halted → exec (.tileWrite p) s = endsWith e 0x0220 0 s) ∧
      (tileWriteOk e = true → halted → wordsInside s t a count = false → exec (.tileWrite p) s = endsWith e 4 0 s) ∧
      (tileWriteOk e = true → halted → wordsInside s t a count = true → filling s t = true → exec (.tileWrite p) s = keeps 0 s) ∧
      (tileWriteOk e = true → halted → wordsInside s t a count = true → filling s t = false → bit (tl.reg 0x0F8) 31 = false → ∃ u, exec (.tileWrite p) s = endsWith e 0 0 u ∧
        (∀ w, (getTile u t).store.cell w = if a / 8 ≤ w ∧ w < a / 8 + count then ⟨payWord e (8 + (w - a / 8)), BitVec.ofNat 4 (payB e 6 1), 0⟩
          else tl.store.cell w) ∧ (∀ q, q ≠ physOf s t → getP u q = getP s q) ∧ u.hbm = s.hbm)) ∧
    (serving p 0x21 s e → argB e 0 1 = i → tileOf s n i = some t → i < (getTen s n).contract.tiles → e.lost = [] → bufOk →
      (¬ halted → exec (.tileRead p) s = endsWith e 0x0220 0 s) ∧
      (halted → b % 8 ≠ 0 ∨ 131072 < words ∨ wordsInside s t b words = false → exec (.tileRead p) s = endsWith e 4 0 s) ∧
      (halted → b % 8 = 0 → words ≤ 131072 → wordsInside s t b words = true → filling s t = true → exec (.tileRead p) s = stepped s) ∧
      (halted → b % 8 = 0 → words ≤ 131072 → wordsInside s t b words = true → filling s t = false →
        (∀ w, w < words → soundWord s (.tile t) (b / 8 + w) ≠ none ∧ (tl.store.cell (b / 8 + w)).tag ≠ 0xF) →
        ∃ u, exec (.tileRead p) s = endsWith e 0 0 u ∧ u.tiles = s.tiles ∧ (∀ j, j ≠ buf → getBuf u j = getBuf s j) ∧
          (∀ w, w < 2 ^ 17 → bufWord u buf w = if w < words then (tl.store.cell (b / 8 + w)).data else bufWord s buf w) ∧
          (∀ l, l < cdiv words 8 → areaWritten s u (bufLine s buf l) (rawWords ((List.range 8).map (fun k => bufWord u buf (8 * l + k))))) ∧
          linesKept s u (fun pr => ∃ l, l < cdiv words 8 ∧ bufLine s buf l = pr))) ∧
    (serving p 0x22 s e → first → payB e 8 1 < 8 → payB e 9 7 = 0 → payZeroFrom e 2 = true → filling s t = true →
      exec (.roundLoad p) s = keeps 0 s) ∧
    (serving p 0x22 s e → first → payB e 8 1 < 8 → payB e 9 7 = 0 → payZeroFrom e 2 = true → filling s t = false →
      ∀ u, (∀ st x, loadInto t n (payB e 8 1) (payWord e 0) s = (some (st, x), u) → st ≠ 0 →
          exec (.roundLoad p) s = endsWith e st (i + x * 65536) u) ∧
        (loadInto t n (payB e 8 1) (payWord e 0) s = (none, u) → exec (.roundLoad p) s = endsWith e 0 0 u)) ∧
    (serving p 0x23 s e → slot < 8 → payB e 1 3 = 0 → payZeroFrom e 1 = true →
      let d := drainAll (.tile t) s
      let td := getTile d t
      let handle := sheetHandle td slot
      (first → td.round.isSome = true ∨ filling d t = true → exec (.roundLaunch p) s = keeps 0 d) ∧
      (first → td.round = none → filling d t = false → (∀ st, callStatus td handle iters = some st → st ≠ 0 →
          exec (.roundLaunch p) s = endsWith e st i d) ∧
        (callStatus td handle iters = none → iters = 0 → exec (.roundLaunch p) s = endsWith e 0 0 d) ∧
        (callStatus td handle iters = none → iters ≠ 0 → exec (.roundLaunch p) s = keeps (td.roundNo + 1) (acceptRound t handle iters d))) ∧
      (later → 0 < stage → (tl.round.all (fun r => r.no + 1 != stage) = true → exec (.roundLaunch p) s = endsWith e 0 0 s) ∧
        (tl.round.any (fun r => r.no + 1 == stage) = true → exec (.roundLaunch p) s = keeps stage s))) ∧
    (serving p 0x24 s e →
      (first → tvCountOk e = false → exec (.tileVector p) s = endsWith e 4 0 s) ∧
      (first → tvCountOk e = true → ¬ halted → exec (.tileVector p) s = endsWith e 0x0220 0 s) ∧
      (first → tvCountOk e = true → halted →
        (∀ f u, (tvMakes (tvWord t e) t e 0 (tvN e)).run s = .error f u → exec (.tileVector p) s = endsWith e 0x0221 (i + f.code.toNat * 256) u) ∧
        (∀ ws u, (tvMakes (tvWord t e) t e 0 (tvN e)).run s = .ok ws u → exec (.tileVector p) s = keeps (4 * packGens ws + 1) u)) ∧
      (later → stage % 4 = 1 →
        (∀ f u, (tvIssue t e (tvWords e (stage / 4))).run s = .error f u → exec (.tileVector p) s = endsWith e 0x0221 (i + f.code.toNat * 256) u) ∧
        (∀ u, (tvIssue t e (tvWords e (stage / 4))).run s = .ok false u → exec (.tileVector p) s = keeps stage u) ∧
        (∀ u, (tvIssue t e (tvWords e (stage / 4))).run s = .ok true u → exec (.tileVector p) s = keeps (4 * (idFaults u t (tvId e)).length + 2) u)) ∧
      (later → stage % 4 = 2 →
        (∀ f u, (tvWait t e).run s = .error f u → exec (.tileVector p) s = endsWith e 0x0221 (i + f.code.toNat * 256) u) ∧
        (∀ u, (tvWait t e).run s = .ok false u → exec (.tileVector p) s = keeps stage u) ∧
        (∀ u, (tvWait t e).run s = .ok true u → (idFaults u t (tvId e)).length ≤ stage / 4 → exec (.tileVector p) s = endsWith e 0 0 u))) ∧
    (serving p 0x25 s e → first →
      (substituting s t = false → halted → tl.eng.dfault = false → ∃ u, exec (.tileStart p) s = endsWith e 0 0 u ∧
        (getTile u t).eng = { tl.eng with runstate := 1, known := tl.eng.cycles } ∧ (getTile u t).store = tl.store ∧ tileOnly s u t) ∧
      (substituting s t = false → ¬ halted ∨ tl.eng.dfault = true → ∃ u, exec (.tileStart p) s = endsWith e 0 0 u ∧ tileRegs s u t [0x204]) ∧
      (substituting s t = true → exec (.tileStart p) s = keeps 0 s)) ∧
    (serving p 0x26 s e →
      (first → exec (.tileStop p) s = keeps 1 (setTile s t { tl with stops := addOnce tl.stops 1 })) ∧
      (later → 0 < stage → tileParked s t = false → exec (.tileStop p) s = keeps 1 s) ∧
      (later → 0 < stage → tileParked s t = true → halted → exec (.tileStop p) s =
        endsWith e 0 0 (setTile s t { tl with stops := dropAll tl.stops 1 })) ∧
      (later → 0 < stage → tileParked s t = true → ¬ halted → ∃ u, exec (.tileStop p) s = keeps 2 u ∧ tileRegs s u t [0x200] ∧
        (getTile u t).reg 0x200 = setBit (tl.reg 0x200) 1))

/-- R402, R404, R405, R426, R444, R448, R451, R630, the life of a tenant: enabling its VF makes it RESIDENT with the default contract and
keys of its own, an FLR, the loss of its VF, alone or with those above it, and TENANT_RESET begin its reset (a second cause is merged), an FLR of the PF resets every
tenant, and the last steps erase it and give it back, or dismiss it. (Steps 1 to 3 at once: log 35. Stated where no tile runs a round.) -/
def Obligations.TenantLife : Prop :=
  ∀ (p : Place) (e : Env) (n : Nat) (s : State), n < 1024 →
    let t := getTen s n
    let takes : Prop := s.sys.phase = .ready ∧ s.sys.doze = .run
    let live : Prop := t.st = .resident ∨ t.st = .computing
    let noRound : Prop := (List.range (nTiles s)).all (fun t => (getTile s t).round.isNone) = true
    let k := envTenant e
    let root (u : State) (d : Nat) : Prop := (getKey u (0x800 + n)).key = some (.draw d) ∧
      ∀ i, i < 4 → tget (fun _ => Key.unbound) u.ctxs (4 * n + i) = .hbm d i 0
    let mine := (s.reqs.filter (fun q => q.tenant == n && q.kind == .gone)).length
    (takes → t.st = .disabled → drbgOk s = true → ∃ u, exec (.vfEnable n) s = .next u ∧ root u s.free ∧
      getTen u n = { Tenant.reset with
        st := .resident, contract := ⟨false, 0, 0, 0, 1, 1, 0, 0, 0, (getTen u n).contract.slots, (getTen u n).contract.image⟩ } ∧
      (∀ d, nthD 0 (getTen u n).contract.slots d = 0) ∧ (∀ m, m ≠ n → getTen u m = getTen s m)) ∧
    (takes → t.st ≠ .disabled →
      exec (.vfFlr n) s = .next (updTen (beginReset n s) n (fun t => { t with unlockTdi := true })) ∧
      ((contracted s).filter (fun m => decide (n ≤ m)) = [n] → t.tdi ≠ .configLocked → t.tdi ≠ .run → exec (.vfDisable n) s = .next (updTen
        (beginReset n { s with numVfs := min s.numVfs n, vfEnable := s.vfEnable && decide (0 < n) }) n (fun t => { t with disabling := true })))) ∧
    (takes → noRound → s.envs = [] → s.rotation = none → ∃ u, exec (.vfDisable n) s = .next u ∧ u.numVfs = min s.numVfs n ∧
      u.vfEnable = (s.vfEnable && decide (0 < n)) ∧ (∀ m, n ≤ m → (getTen s m).st ≠ .disabled → (getTen u m).st = .resetting ∧
        (getTen u m).disabling = true ∧ ((getTen s m).tdi = .configLocked ∨ (getTen s m).tdi = .run → (getTen u m).tdi = .error)) ∧
      (∀ m, m < n → getTen u m = getTen s m)) ∧
    (live → noRound → ∃ u, beginReset n s = u ∧
      (getTen u n).st = .resetting ∧ (getTen u n).saved = [] ∧ (getTen u n).contract = t.contract ∧
      (∀ c, c ∈ ownedChutes s n → bit (getChute u c).cfg 31 = true) ∧
      (∀ v, v < 16 → (getVec u (.vf n) v).mask = true ∧ (getVec u (.vf n) v).events = 0) ∧
      u.envs.all (fun e => !sentBy n e) = true ∧
      (∀ i, i ∈ tilesOf s n → (getTile u i).eng.runstate = 0 ∧ (getTile u i).units = [] ∧ (getTile u i).esendq = []) ∧
      (∀ m, m ≠ n → getTen u m = getTen s m)) ∧
    (t.st = .resetting → beginReset n s = s) ∧
    (takes → noRound → s.envs = [] → s.rotation = none → ∃ u, exec .pfFlr s = .next u ∧ u.vfEnable = false ∧ u.numVfs = 0 ∧
      getSpdm u .pf = Spdm.empty ∧ (∀ m, m < 16 → bit (getBag u .pf m).cfg 31 = false) ∧
      (t.st ≠ .disabled → (getTen u n).st = .resetting ∧ (getTen u n).disabling = true)) ∧
    (serving p 0x41 s e →
      (e.phase = 0 → (getTen s k).st = .disabled → exec (.tenantReset p) s = endsWith e 0x040E 0 s) ∧
      (e.phase = 0 → (getTen s k).st ≠ .disabled →
        exec (.tenantReset p) s = stepped (beginReset k (putEnv e { e with phase := 1 } s))) ∧
      (e.phase = 1 → exec (.tenantReset p) s = stepped s)) ∧
    (t.st = .resetting → slotsQuiet s n = true → drbgOk s = true → ∃ u, exec (.tenantKeyErase n) s = stepped (answerReset n mine u) ∧
      (getKey u (0x400 + n)).key = none ∧ (∀ i, i ∈ tilesOf s n → (getTile u i).owner = none) ∧
      (t.disabling = false → (∃ d, root u d ∧ s.free ≤ d) ∧ (getTen u n).st = .resident ∧ (getTen u n).contract = t.contract ∧
        (getTen u n).spdm = Spdm.empty ∧ (getTen u n).boundKey = none ∧ (getTen u n).tiles = [] ∧
        (getTen u n).segs.all (fun kv => !kv.2.valid) = true ∧
        (∀ m, m < 64 → (getBag u (.vf n) m).head = 0 ∧ (getBag u (.vf n) m).tail = 0 ∧ (getBag u (.vf n) m).trayHead = 0 ∧
          (getBag u (.vf n) m).trayTail = 0)) ∧
      (t.disabling = true → getTen u n = Tenant.reset ∧ (getKey u (0x800 + n)).key = none ∧
        ∀ i, i < 4 → tget (fun _ => Key.unbound) u.ctxs (4 * n + i) = .unbound)) ∧
    (t.st = .resetting → slotsQuiet s n = false → exec (.tenantKeyErase n) s = .next s)

/-- R273, R274, R429, R430, R443 to R445, R487, R717: the checks of a contract and of a plan in their order, what a contract that passes
sets at once and what waits for the slice boundary, the plan that waits for its boundary, and a rotation from its refusals to its end. -/
def Obligations.ContractsAndPlans : Prop :=
  ∀ (p : Place) (e : Env) (s : State) (ro : Rotation),
    let n := envTenant e
    let t := getTen s n
    let c := contractIn e
    let h := argB e 0 4
    let ws := (List.range 1864).map (bufWord s (bufIndex h))
    let pl := planIn ws
    let alone : Prop := s.sys.activities = [] ∧ hardwareActs s = []
    let i := argB e 0 1
    let asked (a : Nat) : State := { s with sys := { s.sys with activities := [⟨a, none, some p, true⟩] } }
    let under (a : Nat) : State := putEnv e { e with phase := 1 } (asked a)
    let ended : State := { s with
      ctxs := tset (fun _ => Key.unbound) s.ctxs (4 * ro.tenant + ro.keyidx) ro.newKey, rotation := none,
      jobs := s.jobs.filter (fun x => !ro.jobs.contains x.1) }
    let turned : State := updTen ended ro.tenant (fun t => { t with
      keyGens := tset (fun _ => 0) t.keyGens ro.keyidx (tget (fun _ => 0) t.keyGens ro.keyidx + 1) })
    e.place = p →
    (serving p 0x40 s e →
      (s.nextPlan ≠ none → exec (.tenantContract p) s = stepped s) ∧
      (s.nextPlan = none →
        (contractOk s e = false → exec (.tenantContract p) s = endsWith e 0x0408 0 s) ∧
        (contractOk s e = true → t.st = .disabled → exec (.tenantContract p) s = endsWith e 0x040E 0 s) ∧
        (contractOk s e = true → t.st = .resetting → exec (.tenantContract p) s = endsWith e 0x0409 0 s) ∧
        (contractOk s e = true → t.st = .resident ∨ t.st = .computing →
          (diesHold s n c = false → exec (.tenantContract p) s = endsWith e 0x040A 0 s) ∧
          (diesHold s n c = true → (∃ d, d < 8 ∧ planShare s.plan d n < nthD 0 c.slots d) → exec (.tenantContract p) s = endsWith e 0x040B 0 s) ∧
          (diesHold s n c = true → (∀ d, d < 8 → nthD 0 c.slots d ≤ planShare s.plan d n) →
            (tilesHold s n c = false → exec (.tenantContract p) s = endsWith e 0x040C 0 s) ∧
            (tilesHold s n c = true → quotaHolds s n c = false → exec (.tenantContract p) s = endsWith e 0x040D 0 s) ∧
            (tilesHold s n c = true → quotaHolds s n c = true → exec (.tenantContract p) s = endsWith e 0 0 (setTen s n { t with
              nextContract := some c, contract := { c with
                pinned := t.contract.pinned, tiles := t.contract.tiles, tileWeight := t.contract.tileWeight, bankMask := t.contract.bankMask } })))))) ∧
    (serving p 0x42 s e →
      (e.phase = 1 → exec (.planLoad p) s = stepped s) ∧
      (e.phase = 0 → bufStatus s e h = 0x0202 → exec (.planLoad p) s = endsWith e 0x0202 0 (logEvent 0x0202 (requesterNo e) s)) ∧
      (e.phase = 0 → bufStatus s e h = 0x0204 → exec (.planLoad p) s = endsWith e 0x0204 0 (bumpFaults (envFn e) s)) ∧
      (e.phase = 0 → bufStatus s e h = 0 → alone → s.nextPlan = none → ∀ u,
        (failsBuf (asked 9) u (bufIndex h) 1864 → exec (.planLoad p) s = endsWith e 5 0 u) ∧
        (readsBuf (asked 9) u (bufIndex h) 1864 →
          (planFormatOk ws = false → exec (.planLoad p) s = endsWith e 0x0401 0 u) ∧
          (planFormatOk ws = true → (∃ d, d < 8 ∧ 912 < (pl.sched.filter (fun kv => kv.1 / 1024 == d)).length) →
            exec (.planLoad p) s = endsWith e 0x0402 0 u) ∧
          (planStatus u ws ≠ 0 → exec (.planLoad p) s = endsWith e (planStatus u ws) 0 u) ∧
          (planStatus u ws = 0 → exec (.planLoad p) s = stepped (putEnv e { e with phase := 1 } { u with nextPlan := some (pl, some p) }))))) ∧
    (serving p 0x44 s e →
      (e.phase = 1 → exec (.keyRotate p) s = stepped s) ∧
      (e.phase = 0 → 4 ≤ i → exec (.keyRotate p) s = endsWith e 4 0 s) ∧
      (e.phase = 0 → i < 4 → t.st = .disabled → exec (.keyRotate p) s = endsWith e 0x040E 0 s) ∧
      (e.phase = 0 → i < 4 → t.st = .resetting → exec (.keyRotate p) s = endsWith e 0x0409 0 s) ∧
      (e.phase = 0 → i < 4 → t.st = .resident ∨ t.st = .computing →
        (alone → ∃ u, exec (.keyRotate p) s = stepped u ∧ u = startRotation p n i (under 10) ∧
          u.rotation.map (fun r => (r.tenant, r.keyidx, r.newKey)) = some (n, i, nextPair (readKey (0x800 + n) s) n i)) ∧
        (∀ q, q ≠ p → s.sys.activities = [⟨10, none, some q, true⟩] → exec (.keyRotate p) s = endsWith e 3 0 s))) ∧
    (s.rotation = some ro → pmServes s = true →
      (ro.jobs.all (fun j => match jobOf s j with | some b => jobDone b | none => true) = false → exec .keyRotationDone s = .next s) ∧
      (ro.jobs.all (fun j => match jobOf s j with | some b => jobDone b | none => true) = true →
        (s.envs = [] → exec .keyRotationDone s = stepped turned) ∧
        (ro.place = p → serving p 0x44 s e → e.phase = 1 → s.envs = [e] → exec .keyRotationDone s = endsWith e 0 0 turned)))

/-- R402, R406, R408 to R412, R421, R445, R559, R609, R610, R629, R646 to R650, tiles in motion and accesses to the device-ring window: a
slice boundary puts contract terms in force and takes tiles away, a tile is parked, halted, saved and freed in turn, a free tile receives
what its context held, a substitution moves a logical number to the spare of its die, and a window access reaches the segment's word or
reads zero. A tile that is switched out leaves the sound lines of its tenant's banks in the context area, under the key of the area. -/
def Obligations.TilesInMotion : Prop :=
  ∀ (t n i : Nat) (f : Fn) (off : BitVec 32) (ws : List Word) (v : TWord) (x : SavedCtx) (s : State), t < nTiles s →
    let tl := getTile s t
    let ph := physOf s t
    let manages : Prop := pmManages s = true
    let run : Prop := ∃ a, a ∈ s.sys.activities ∧ a.no = 5 ∧ a.scope = some t ∧ a.running = true
    let q := spareOf s (ph / 17)
    let stops (c : Nat) : Host.Outcome State Fault Refusal := .next (setTile s t { tl with stops := addOnce tl.stops c })
    let mask := tileMask tl
    let ready := needArea t n i (quietChute t s)
    let left := match tenantArea ready n i with
      | some d => storeCtx (some n) d t ph mask ready
      | none => ready
    let unarmed : Prop := ∀ k, k < 16 → bit (hcReg s k 0x028) 31 = false
    let lineOf (l : Nat) : List TWord := (List.range 8).map (fun k => ⟨(tl.store.cell (8 * l + k)).data, (tl.store.cell (8 * l + k)).tag⟩)
    let haltReq : Host.Outcome State Fault Refusal := .next (setTile s t { tl.setReg 0x200 (setBit (tl.reg 0x200) 1) with switchRan := true })
    let b := getBag s (.vf n) ((off.toNat - 0x20000000) / 0x800000)
    let serves : Prop := masterExists s (.pcie f) = true ∧ s.sys.phase = .ready ∧ s.sys.ready = true ∧ s.sys.fenced = false ∧ s.sys.doze = .run
    (manages → ∃ u, exec .sliceBoundary s = stepped u ∧
      (∀ m, m ∈ liveTenants s → (getTen u m).nextContract = none) ∧
      (∀ k, k < nTiles s → leaving u k = true → inReset u k = false → 0 ∈ (getTile u k).stops)) ∧
    (manages → leaving s t = false → exec (.tileSwitch t) s = .next s) ∧
    (manages → leaving s t = true →
      (0 ∉ tl.stops → exec (.tileSwitch t) s = stops 0) ∧
      (0 ∈ tl.stops → readyToHalt s t = false → exec (.tileSwitch t) s = .next s) ∧
      (0 ∈ tl.stops → readyToHalt s t = true → tl.eng.runstate = 1 → exec (.tileSwitch t) s = haltReq) ∧
      (0 ∈ tl.stops → readyToHalt s t = true → tl.eng.runstate ≠ 1 → tl.owner = some (n, i) → ∃ u, exec (.tileSwitch t) s = stepped u ∧
        (getTile u t).owner = none ∧ (getTile u t).eng.runstate = 0 ∧ (getTile u t).round = none ∧ (getTile u t).units = [] ∧
        (i < (getTen s n).contract.tiles → (i, ctxOf ph n i left) ∈ (getTen u n).saved) ∧
        (∀ d l, i < (getTen s n).contract.tiles → tenantArea s n i = some d → inCtx mask l = true → unarmed →
          (∀ k, k < 8 → soundWord s (.tile t) (8 * l + k) ≠ none) →
          let pr := linePlace d l
          getLine u pr.1 pr.2 = ⟨lineData (lineOf l), lineTags (lineOf l), 0, segKey s (some n) d pr.1 pr.2⟩) ∧
        (∀ m, m ≠ n → getTen u m = getTen s m) ∧ (∀ k, k ≠ ph → getP u k = getP s k))) ∧
    (manages → tl.owner = none → tl.poweredDown = false → granteeOf s t = none → exec (.tileAssign t) s = .next s) ∧
    (manages → tl.owner = none → tl.poweredDown = false → granteeOf s t = some (n, i) → ∃ u, exec (.tileAssign t) s = stepped u ∧
      (getTile u t).owner = some (n, i) ∧ (getTile u t).reg 0x008 = (getTen s n).contract.bankMask.setWidth 32 ∧
      ((getTen s n).saved.find? (fun kv => kv.1 == i) = none → bit (tl.reg 0x0F8) 31 = false →
        (getTile u t).eng.runstate = 0 ∧ ∀ w, (getTile u t).store.cell w = ⟨0, 1, 0⟩) ∧
      ((getTen s n).saved.find? (fun kv => kv.1 == i) = some (i, x) →
        (getTile u t).eng = x.eng ∧ (getTile u t).sheets = x.sheets ∧ (getTile u t).streams = x.streams ∧ (getTile u t).sheetOwners = x.sheetOwners ∧
        (getTile u t).round = (x.round.map (releaseRound 0)).map (releaseRound 4)) ∧
      (∀ k, k ≠ ph → getP u k = getP s k)) ∧
    (manages → inReset s t = false → run →
      (spareFree s (ph / 17) = false → exec (.tileSubstitution t) s = .next (answerSubst t 0x0504 0xFFFF s)) ∧
      (spareFree s (ph / 17) = true → tl.owner.isSome = true →
        (4 ∉ tl.stops → exec (.tileSubstitution t) s = stops 4) ∧
        (4 ∈ tl.stops → readyToHalt s t = false → exec (.tileSubstitution t) s = .next s) ∧
        (4 ∈ tl.stops → readyToHalt s t = true → tl.eng.runstate = 1 → exec (.tileSubstitution t) s = haltReq)) ∧
      (spareFree s (ph / 17) = true → tl.owner = none ∨ (4 ∈ tl.stops ∧ readyToHalt s t = true ∧ tl.eng.runstate ≠ 1) →
        ∃ u, exec (.tileSubstitution t) s = stepped (answerSubst t 0 (q % 17) u) ∧ physOf u t = q ∧ (tl.owner ≠ none ∨ (getP s q).owner = none → (getTile u t).owner = tl.owner) ∧
          (∀ k, k ≠ t → physOf u k = physOf s k) ∧ ph ∈ u.sys.softTiles ∧ (getP u ph).poweredDown = true ∧
          (∀ k, k ≠ ph → k ≠ q → getP u k = getP s k))) ∧
    (serves →
      (f = .pf → exec (.deviceRingWindow f off none) s = .next (emit (.windowData [0]) s)) ∧
      (f = .vf n → bit b.cfg 31 = false ∨ bit b.cfg 30 = false →
        exec (.deviceRingWindow f off none) s = .next (emit (.windowData [0]) s) ∧ exec (.deviceRingWindow f off (some ws)) s = .next s) ∧
      (∀ m d w, windowPlace s f off.toNat = some (m, d, w) →
        (∀ u, segWords (some m) d w 1 s = ([some v], u) → exec (.deviceRingWindow f off none) s = .next (emit (.windowData [v.data]) u)) ∧
        (∀ u, segWords (some m) d w 1 s = ([none], u) → exec (.deviceRingWindow f off none) s = .next (emit .completerAbort u)) ∧
        exec (.deviceRingWindow f off (some [v.data])) s = .next (segPutLine (some m) d (w / 8) [(w % 8, ⟨v.data, 0⟩)] s)) ∧
      (f = .vf n → (getTen s n).tdi = .run →
        exec (.tdiNonTeeRequest n off none) s = .next (emit (.unsupportedRequest n) s) ∧
        exec (.tdiNonTeeRequest n off (some ws)) s = .next (emit (.unsupportedRequest n) s)) ∧
      (f = .vf n → (getTen s n).tdi ≠ .run → 0x20000000 ≤ off.toNat →
        exec (.tdiNonTeeRequest n off none) s = exec (.deviceRingWindow f off none) s ∧
        exec (.tdiNonTeeRequest n off (some ws)) s = exec (.deviceRingWindow f off (some ws)) s)) ∧
    (masterExists s (.pcie f) = true → s.sys.phase = .ready → s.sys.ready = false ∨ s.sys.fenced = true → s.sys.doze = .run →
      exec (.deviceRingWindow f off none) s = .next (emit .completerAbort s) ∧ exec (.deviceRingWindow f off (some ws)) s = .next s)

/-- R518, R519, R522, R647, R662, R664, R677, the MAINT activities, BOOK_LOAD and DUMP_READ: a code that the table does not list and an
argument out of range give S_RANGE, each repair is asked of its hardware and ends when the hardware has ended, and each setting is
written; a line of the buffer or of the dump that cannot be read ends BOOK_LOAD and DUMP_READ. Stated where no other activity runs; an activity that waits or is refused follows R663 to R666. -/
def Obligations.Maintenance : Prop :=
  ∀ (p : Place) (e : Env) (s : State), e.place = p →
    let c := argB e 0 2
    let i := argB e 2 1
    let a := argB e 3 1
    let v := argB e 4 2
    let unit := argB e 4 4
    let alone : Prop := s.sys.activities = [] ∧ hardwareActs s = []
    let started (no : Nat) (scope : Option Nat) : State := { s with
      envs := s.envs.map (fun y => if y == e then { e with phase := 1 } else y),
      sys := { s.sys with activities := [⟨no, scope, some p, true⟩] } }
    let asked (no : Nat) (scope : Option Nat) : State := { s with sys := { s.sys with activities := [⟨no, scope, some p, true⟩] } }
    let record (r : Option (BitVec 14)) : State := { s with sys := { s.sys with recordNext := r } }
    let cleared (t : Tbl Word) : Tbl Word := t.map (fun kv => if kv.1 = 20 then (20, 0) else kv)
    let mark := dumpLine s 2
    let h := argB e 0 4
    let len := argB e 4 4
    let book := bufImage ((List.range (cdiv len 8)).map (bufWord s (bufIndex h))) len
    let off := argB e 8 4
    let n := argB e 12 4
    let word (k : Nat) : Option Word := dumpWord s (off / 8 + k)
    let lines := cdiv (min (off + n) 0x4000000) 64 - off / 64
    (serving p 0x4B s e → c = 0 ∨ 9 < c →
      exec (.maintTsRepair p) s = endsWith e 4 0 s ∧ exec (.maintHbmRepair p) s = endsWith e 4 0 s ∧
      exec (.maintTileSubstitute p) s = endsWith e 4 0 s ∧ exec (.maintLaneRetrain p) s = endsWith e 4 0 s ∧
      exec (.maintTsScrub p) s = endsWith e 4 0 s ∧ exec (.maintHbmScrub p) s = endsWith e 4 0 s ∧
      exec (.maintFabricRecord p) s = endsWith e 4 0 s ∧ exec (.maintDumpNow p) s = endsWith e 4 0 s ∧
      exec (.maintDumpClear p) s = endsWith e 4 0 s) ∧
    (serving p 0x4B s e → c = 1 →
      (nTiles s ≤ i ∨ 16 ≤ a ∨ 1024 ≤ v → exec (.maintTsRepair p) s = endsWith e 4 0 s) ∧
      (i < nTiles s → a < 16 → v < 1024 → e.phase = 0 → alone → exec (.maintTsRepair p) s = stepped
        (tileWrite i 0x0E0 (BitVec.ofNat 32 (2 ^ 31 + a * 2 ^ 27 + v * 2 ^ 17)) (started 3 (some i)))) ∧
      (i < nTiles s → a < 16 → v < 1024 → e.phase = 1 → bit ((getTile s i).reg 0x0E0) 31 = true →
        exec (.maintTsRepair p) s = stepped s) ∧
      (i < nTiles s → a < 16 → v < 1024 → e.phase = 1 → bit ((getTile s i).reg 0x0E0) 31 = false →
        exec (.maintTsRepair p) s = endsWith e 0 (32 - tget (fun _ => 0) (getTile s i).sparesUsed a) s)) ∧
    (serving p 0x4B s e → c = 2 →
      (16 ≤ i ∨ 64 ≤ a ∨ hcUnits s ≤ unit → exec (.maintHbmRepair p) s = endsWith e 4 0 s) ∧
      (i < 16 → a < 64 → unit < hcUnits s → e.phase = 0 → alone → exec (.maintHbmRepair p) s = stepped
        (if scrubInUnit s i unit then asked 4 (some i) else
          hcWrite i 0x010 (BitVec.ofNat 32 (2 ^ 31 + a * 2 ^ 25 + unit * 2 ^ 5)) (started 4 (some i)))) ∧
      (i < 16 → a < 64 → unit < hcUnits s → e.phase = 1 → bit (hcReg s i 0x010) 31 = false →
        exec (.maintHbmRepair p) s = endsWith e 0 (1024 - (getChan s (64 * i + a)).sparesUsed) s)) ∧
    (serving p 0x4B s e → c = 3 →
      (nTiles s ≤ i → exec (.maintTileSubstitute p) s = endsWith e 4 0 s) ∧
      (i < nTiles s → spareFree s (physOf s i / 17) = false → exec (.maintTileSubstitute p) s = endsWith e 0x0504 0xFFFF s) ∧
      (i < nTiles s → spareFree s (physOf s i / 17) = true → alone → exec (.maintTileSubstitute p) s = stepped (asked 5 (some i)))) ∧
    (serving p 0x4B s e → c = 4 →
      (32 ≤ i → exec (.maintLaneRetrain p) s = endsWith e 4 0 s) ∧
      (i < 32 → e.phase = 0 → alone → exec (.maintLaneRetrain p) s = stepped
        (portWrite i 0x08 (setBit (getPort s i).ctrl 31) (started 7 (some i)))) ∧
      (i < 32 → e.phase = 1 → bit (getPort s i).ctrl 31 = false →
        exec (.maintLaneRetrain p) s = endsWith e 0 (fld (getPort s i).status 11 8) s)) ∧
    (serving p 0x4B s e → c = 5 →
      ((nTiles s ≤ i ∧ i ≠ 0xFF) ∨ 2 ≤ a ∨ v = 0 → exec (.maintTsScrub p) s = endsWith e 4 0 s) ∧
      (i < nTiles s ∨ i = 0xFF → a < 2 → v ≠ 0 → alone → ∃ u, exec (.maintTsScrub p) s = endsWith e 0 0 u ∧
        (∀ t, t < nTiles s → i = t ∨ i = 0xFF → (getTile u t).reg 0x0E8 = BitVec.ofNat 32 (a * 2 ^ 31 + v)) ∧
        (∀ q, i ≠ 0xFF → q ≠ physOf s i → getP u q = getP s q) ∧ u = { s with tiles := u.tiles })) ∧
    (serving p 0x4B s e → c = 6 →
      ((16 ≤ i ∧ i ≠ 0xFF) ∨ 17 ≤ a → exec (.maintHbmScrub p) s = endsWith e 4 0 s) ∧
      (i < 16 ∨ i = 0xFF → a < 17 → alone → ∃ u, exec (.maintHbmScrub p) s = endsWith e 0 0 u ∧ ∀ k, k < 16 →
        hcReg u k 0x008 = if k = i ∨ i = 0xFF then setFld (hcReg s k 0x008) 28 24 a else hcReg s k 0x008)) ∧
    (serving p 0x4B s e → c = 7 → let d := argB e 2 2
      (d / 2 ^ 14 % 2 = 1 → exec (.maintFabricRecord p) s = endsWith e 4 0 s) ∧
      (d < 2 ^ 14 → exec (.maintFabricRecord p) s = endsWith e 0 0 (record (some (BitVec.ofNat 14 d)))) ∧
      (2 ^ 15 ≤ d → d < 2 ^ 15 + 2 ^ 14 → exec (.maintFabricRecord p) s = endsWith e 0 0 (record none))) ∧
    (serving p 0x4B s e → c = 8 → exec (.maintDumpNow p) s = stepped (fatalError 1 0 s)) ∧
    (serving p 0x4B s e → c = 9 → ∃ u, exec (.maintDumpClear p) s = endsWith e 0 0 u ∧
      u.sys = { s.sys with dumpHbm := cleared s.sys.dumpHbm, dumpFlash := cleared s.sys.dumpFlash } ∧ u.tiles = s.tiles ∧
      (s.sys.dumpHbm.any (fun kv => kv.1 == 20) = false → u.hbm = s.hbm) ∧ linesKept s u (fun pr => pr = mark) ∧
      (s.sys.dumpHbm.any (fun kv => kv.1 == 20) = true → bit (hcReg s (mark.1 / 64) 0x028) 31 = false →
        (lineWord (getLine u mark.1 mark.2).data (getLine u mark.1 mark.2).tags 4).data = 0)) ∧
    (serving p 0x43 s e →
      (e.phase = 1 → exec (.bookLoad p) s = stepped s) ∧
      (e.phase = 0 → bufStatus s e h = 0 → 2 ^ 20 < len → exec (.bookLoad p) s = endsWith e 0x0410 0 s) ∧
      (e.phase = 0 → bufStatus s e h = 0 → len ≤ 2 ^ 20 → alone → ∀ r,
        (failsBuf (asked 8 none) r (bufIndex h) (cdiv len 8) → exec (.bookLoad p) s = endsWith e 5 0 r) ∧
        (readsBuf (asked 8 none) r (bufIndex h) (cdiv len 8) →
          (imageTarget book = (ownId s).toNat → named s = true → ∀ st u, takeBook len book r = (st, u) →
            exec (.bookLoad p) s = endsWith e st 0 u) ∧
          (named s = false → exec (.bookLoad p) s = endsWith e 0x010E 1 r) ∧
          (imageTarget book ≠ (ownId s).toNat → pathZero r (imageTarget book) = none → exec (.bookLoad p) s = endsWith e 0x010E 1 r) ∧
          (∀ path, imageTarget book ≠ (ownId s).toNat → named s = true → pathZero r (imageTarget book) = some path → exec (.bookLoad p) s =
            stepped (putEnv e { e with phase := 1, wait := r.nextXtag.toNat } (sendBook path (imageTarget book) p len book r)))))) ∧
    (serving p 0x4C s e →
      (0x04400000 < off + n ∨ off % 8 ≠ 0 ∨ n % 8 ≠ 0 → exec (.dumpRead p) s = endsWith e 4 0 s) ∧
      (∀ u, off + n ≤ 0x04400000 → off % 8 = 0 → n % 8 = 0 → 0 < n → (∀ k, k < n / 8 → (word k).isSome = true) →
        areaGood dumpLine (off / 64) lines s = (lines, u) → exec (.dumpRead p) s =
        endsWith e 0 0 (emit (.hostWrite .pf (hArg0 e).toNat ((List.range (n / 8)).map (fun k => (word k).getD 0)) false) u)) ∧
      (∀ g u, off + n ≤ 0x04400000 → off % 8 = 0 → n % 8 = 0 → 0 < n → areaGood dumpLine (off / 64) lines s = (g, u) →
        word 0 = none ∨ (off < 0x04000000 ∧ g = 0) → exec (.dumpRead p) s = endsWith e 5 0 u))

/-- R440, R441, R641, R642, R655 to R661, R669 to R674, R679, firmware and the postmaster pair: FW_UPDATE writes the inactive image alone,
FW_COMMIT raises the fused SVN, a flash operation takes effect at its end, a hand-over gives the standby the primary role step by step, a
standby takes over from a primary that fails, and without one the device fences. A fatal error halts the tiles, drops READY and begins a
dump (that of a steward sets FATAL, and raises the die's chute when it was 0: R679), whose COMPLETE word is written last, before the fence; a standby begins it again when its writer fails, and without one it is left
without COMPLETE. (What an image contains is log 51; the bytes a failed operation leaves, log 23; that a dump ends with the next SCLK
period, log 45.) -/
def Obligations.FirmwareAndPair : Prop :=
  ∀ (p : Place) (e : Env) (pm ok : Bool) (code : BitVec 8) (detail : BitVec 16) (s : State), e.place = p →
    let h := argB e 0 4
    let len := argB e 4 4
    let off := argB e 8 4
    let b := !s.sys.active
    let room := flashBytes b - (if b then 2 ^ 22 else 0)
    let done (u : State) : Bool := Config.imageComplete (imageWords u b)
    let svn := (Config.imageSvn (imageWords s (runningImage s))).toNat
    let cmd := flReg s 4
    let dev := bit cmd 28
    let at_ := (flReg s 8).toNat
    let up : Prop := s.sys.phase = .ready ∧ s.sys.fenced = false
    let lead : Prop := primary s = some pm
    let hands (k : Nat) : Prop := s.envs.find? (fun e => e.place == p && e.st == .executing && hOpcode e == 0x4A) = some e ∧ up ∧ lead ∧
      e.phase = 1 ∧ s.sys.handover = some k
    let img := (getPm s (!pm)).image
    (serving p 0x48 s e →
      (bufStatus s e h = 0 → 2 ^ 20 < len ∨ room < off + len → exec (.fwUpdate p) s = endsWith e 4 0 s) ∧
      (∀ r, bufStatus s e h = 0 → len ≤ 2 ^ 20 → off + len ≤ room → failsBuf s r (bufIndex h) (cdiv len 8) →
        exec (.fwUpdate p) s = endsWith e 5 0 r) ∧
      (∀ r, bufStatus s e h = 0 → len ≤ 2 ^ 20 → off + len ≤ room → readsBuf s r (bufIndex h) (cdiv len 8) → ∃ u, exec (.fwUpdate p) s =
          endsWith e (if done u && !imageOk u b then 0x0502 else 0) 0 { u with sys := { u.sys with inactiveVerified := done u && imageOk u b } } ∧
        (∀ x, flashByte u b x = if off ≤ x ∧ x < off + len then
          (bufWord s (bufIndex h) ((x - off) / 8)).extractLsb' (8 * ((x - off) % 8)) 8 else flashByte s b x) ∧
        (∀ x, flashByte u (!b) x = flashByte s (!b) x) ∧ u.hbm = r.hbm ∧ u.chans = r.chans ∧ u.tiles = s.tiles)) ∧
    (serving p 0x49 s e →
      (e.phase = 1 → bit (fcReg s 0x008) 31 = true → exec (.fwCommit p) s = stepped s) ∧
      (e.phase = 1 → bit (fcReg s 0x008) 31 = false → exec (.fwCommit p) s = endsWith e 0 0 s) ∧
      (e.phase = 0 → svn ≤ s.fuses.svn.toNat ∨ 64 < svn → exec (.fwCommit p) s = endsWith e 0x0501 0 s) ∧
      (e.phase = 0 → s.fuses.svn.toNat < svn → svn ≤ 64 → bit (fcReg s 0x008) 31 = false → ∃ u,
        exec (.fwCommit p) s = stepped u ∧ bit (fcReg u 0x008) 31 = true ∧ fld (fcReg u 0x008) 6 0 = svn ∧ bit (fcReg u 0) 0 = true ∧ u.fuses = s.fuses)) ∧
    (powered s = true → bit (fcReg s 0x008) 31 = true → ∃ u, exec .fuseCommitDone s = .next u ∧ u.fuses.svn.toNat = fld (fcReg s 0x008) 6 0 ∧
      fcReg u 0x008 = clrBit (fcReg s 0x008) 31 ∧ fcReg u 0 = clrBit (fcReg s 0) 0 ∧ fcRegs s { u with fuses := s.fuses } [0, 0x008]) ∧
    (powered s = true → bit cmd 31 = true → ∃ u, exec (.flashOperationDone ok) s = .next u ∧ flReg u 4 = clrBit cmd 31 ∧
      flReg u 0 = (if ok then clrBit (flReg s 0) 0 else setBit (clrBit (flReg s 0) 0) 3) ∧
      (fld cmd 30 29 = 0 → u.flashA = s.flashA ∧ u.flashB = s.flashB) ∧
      (fld cmd 30 29 ≠ 0 → ok = true → (∀ x, flashByte u dev x = if at_ ≤ x ∧ x < at_ + flashSpan cmd then
          (if fld cmd 30 29 = 2 then 0xFF else flashByte s dev x &&& bufferByte s (x - at_)) else flashByte s dev x) ∧
        (∀ x, flashByte u (!dev) x = flashByte s (!dev) x))) ∧
    (bit cmd 31 = false → exec (.flashOperationDone ok) s = .next s) ∧
    (bit (fcReg s 0x008) 31 = false → exec .fuseCommitDone s = .next s) ∧
    (serving p 0x4A s e → up → lead → e.phase = 0 →
      (stateOf s (!pm) ≠ 1 ∨ s.sys.inactiveVerified = false → exec (.fwHandover p) s = endsWith e 0x0504 0xFFFF s) ∧
      (stateOf s (!pm) = 1 → s.sys.inactiveVerified = true → s.sys.activities = [] → hardwareActs s = [] → ∃ u,
        exec (.fwHandover p) s = stepped u ∧ stateOf u (!pm) = 0 ∧ stateOf u pm = 2 ∧ (getPm u (!pm)).eng = Engine.reset ∧
        u.sys.handover = some 2)) ∧
    (hands 4 → ∃ u, exec (.fwHandover p) s = stepped u ∧ primary u = some (!pm) ∧ stateOf u pm = 1 ∧ (getKey u 1).key = some (aliasKeyOf s img) ∧
      u.sys.handover = some 6) ∧
    (hands 6 → ∃ u, exec (.fwHandover p) s = stepped u ∧ u.sys.active = (getPm s pm).image ∧ stateOf u (!pm) = 0 ∧
      primary u = some pm ∧ u.sys.handover = some 7) ∧
    (up → lead → stateOf s (!pm) = 0 → (getPm s (!pm)).failures < 2 → s.sys.handover ≠ some 2 → s.sys.handover ≠ some 7 → ∃ u,
      exec (.postmasterBootDone (!pm)) s = .next u ∧ stateOf u (!pm) = 1 ∧ (getPm u (!pm)).image = runningImage s ∧
      (getPm u (!pm)).eng.runstate = 1 ∧ getPm u pm = getPm s pm) ∧
    (up → lead → stateOf s (!pm) = 0 → 2 ≤ (getPm s (!pm)).failures → exec (.postmasterBootDone (!pm)) s = .next s) ∧
    (s.sys.phase = .ready → ∃ u, exec .pmHeartbeat s = .next u ∧ ∀ x, (getPm u x).heartbeatAt =
      if stateOf s x = 0 then (getPm s x).heartbeatAt else s.sclk) ∧
    (up → lead → stateOf s (!pm) = 1 → ∃ u, exec (.pmFailure pm) s = .next u ∧ stateOf u pm = 0 ∧ primary u = some (!pm) ∧
      (getPm u pm).failures = (getPm s pm).failures + 1 ∧ (getPm u pm).eng = Engine.reset ∧ u.sys.fenced = false ∧
      fld (fcReg u 0xA00) 23 16 = (fld (fcReg s 0xA00) 23 16 + 1) % 256) ∧
    (up → lead → stateOf s (!pm) = 0 → ∃ u, exec (.pmFailure pm) s = .next u ∧ stateOf u pm = 0 ∧ u.sys.fenced = true ∧ u.sys.ready = false ∧
      u.sys.activities = []) ∧
    (up → lead → stateOf s (!pm) = 1 → ∃ u, exec (.pmFailure (!pm)) s = .next u ∧ stateOf u (!pm) = 0 ∧ primary u = some pm ∧
      u.sys.fenced = false) ∧
    (up → lead → s.sys.dumping = none → 1 ≤ code.toNat → code.toNat ≤ 7 → (code = 5 → detail.toNat < 8) →
      (code = 6 → 2 ≤ s.sys.mxAbandoned) → ∃ u, exec (.fatalError code detail) s = .next u ∧
      u.stewards = (if code = 5 then (setFatal detail.toNat s).stewards else s.stewards) ∧
      u.sys.fenced = false ∧ u.sys.ready = false ∧ (∀ t, t < nTiles s → (getTile s t).eng.runstate = 1 →
        (getTile u t).eng.runstate = 2 ∨ bit ((getTile u t).reg 0x200) 1 = true) ∧
      u.sys.dumping = some ⟨pm, decide (code ≠ 4 ∧ code ≠ 7), code.toNat, detail.toNat, postmark s⟩ ∧
      (∀ kv, kv ∈ (if code = 4 ∨ code = 7 then u.sys.dumpFlash else u.sys.dumpHbm) → kv.1 = 20 → kv.2 = 0)) ∧
    (∀ d, up → s.sys.dumping = some d → s.pending = [] → ∃ u, step s = .next u ∧ u.sys.dumping = none ∧ u.sys.fenced = true ∧
      u.sys.ready = false ∧ ∀ i v, (i, v) ∈ [(0, (0x00504D5544394E54 : Word)), (2, d.mark),
          (3, BitVec.ofNat 64 (d.code + (if d.writer then 2 ^ 8 else 0) + d.detail * 2 ^ 16)), (20, 1)] →
        (if d.full then u.sys.dumpHbm else u.sys.dumpFlash).find? (fun kv => kv.1 == i) = some (i, v)) ∧
    (∀ d, up → lead → stateOf s (!pm) = 1 → s.sys.dumping = some d → d.writer = pm → ∃ u, exec (.pmFailure pm) s = .next u ∧
      u.sys.dumping = some { d with writer := !pm }) ∧
    (∀ d, up → lead → stateOf s (!pm) = 0 → s.sys.dumping = some d → 
      (∀ kv, kv ∈ (if d.full then s.sys.dumpHbm else s.sys.dumpFlash) → kv.1 = 20 → kv.2 = 0) →
      ∃ u, exec (.pmFailure pm) s = .next u ∧ u.sys.dumping = none ∧ u.sys.fenced = true ∧
        ∀ v, (20, v) ∈ (if d.full then u.sys.dumpHbm else u.sys.dumpFlash) → v = 0) ∧
    (code.toNat = 0 ∨ 7 < code.toNat ∨ (code = 5 ∧ 8 ≤ detail.toNat) ∨ (code = 6 ∧ s.sys.mxAbandoned < 2) ∨ (code ≠ 5 ∧ s.sys.dumping ≠ none) →
      exec (.fatalError code detail) s = .next s) ∧
    (code = 5 → detail.toNat < 8 → up → s.sys.dumping ≠ none → exec (.fatalError code detail) s = .next (setFatal detail.toNat s)) ∧
    (let d := detail.toNat
     let u := setFatal d s
     (∀ n off, stReg u n off = if 4096 * n + off = 4096 * d then setBit (stReg s d 0) 2 else stReg s n off) ∧
     (bit (stReg s d 0) 2 = true → u.chutes = s.chutes) ∧
     (bit (stReg s d 0) 2 = false → chuteKind (getChute s (144 + d)) ≠ 3 → (getChute u (144 + d)).pending = true) ∧
     (∀ c, c ≠ 144 + d → getChute u c = getChute s c) ∧ u.tiles = s.tiles ∧ u.hbm = s.hbm ∧ u.sys = s.sys)

/-- R617, R619 to R626, R697 to R701, R704, DOZE and temperatures: DEVICE_SLEEP raises entry on every tile unless a wake is latched,
entry parks and halts the tiles and, no flash write being under way, passes into DOZE, an enabled wake aborts entry or begins exit, exit lets the tiles go on and reports
the causes, and a sample moves the alarm, the throttle and, at its level, trips the device. (Each of entry's steps D2 to D7 at once: log
43.) -/
def Obligations.SleepAndTemperature : Prop :=
  ∀ (p : Place) (e : Env) (c : BitVec 3) (die : Nat) (temp : BitVec 8) (s : State), e.place = p →
    let enabled : BitVec 6 := (fcReg s 0x804).setWidth 6
    let w := wakesNow s
    let reported (u : State) (w : BitVec 6) : Prop := u.sys.latched = 0 ∧ fcReg u 0x808 = fcReg s 0x808 ||| w.setWidth 32 ∧
      (w.getLsbD 0 = true → (getChute u 163).pending = false) ∧ (w.getLsbD 1 = true → (getChute u 162).pending = false)
    let awake (u : State) : Prop := u.sys.doze = .run ∧ ∀ t, t < nTiles s → 3 ∉ (getTile u t).stops
    let wakes (d : Doze) (x : BitVec 6) (o : Host.Outcome State Fault Refusal) : Prop :=
      (d = .dozing → o = .next { s with sys := { s.sys with doze := .exiting, latched := s.sys.latched ||| x } }) ∧
      (d = .exiting → o = .next { s with sys := { s.sys with latched := s.sys.latched ||| x } }) ∧
      (d = .entering → s.sys.sleepFor = none → ∃ u, o = .next u ∧ awake u ∧ reported u (w ||| x))
    let timer : Prop := s.sys.pastP = true ∧ fcReg s 0x80C ≠ 0 ∧ s.sys.dozeAt + (fcReg s 0x80C).toNat * 100000 ≤ s.sclk
    let hot : Prop := fld (stReg s die 0x004) 23 16 ≤ temp.toNat
    let cool (d : Nat) : Prop := (if d = die then temp.toNat else dieTemp s d) + 5 ≤ dieLimit s d
    (serving p 0x50 s e →
      (e.phase = 1 → exec (.deviceSleep p) s = stepped s) ∧
      (e.phase = 0 → s.sys.doze ≠ .run → exec (.deviceSleep p) s = endsWith e 0x0504 12 s) ∧
      (e.phase = 0 → s.sys.doze = .run → s.sys.activities = [] → hardwareActs s = [] →
        (anyResetting s = false → chuteWakes s &&& enabled = 0 → ∃ u, exec (.deviceSleep p) s = stepped u ∧ u.sys.doze = .entering ∧
          u.sys.sleepFor = some p ∧ u.sys.latched = 0 ∧ ∀ t, t < nTiles s → 3 ∈ (getTile u t).stops) ∧
        (anyResetting s = false → chuteWakes s &&& enabled ≠ 0 → ∃ u, exec (.deviceSleep p) s = stepped u ∧ u.sys.doze = .run ∧
          reported u (chuteWakes s &&& enabled)) ∧
        (anyResetting s = true → exec (.deviceSleep p) s =
          stepped { s with sys := { s.sys with activities := [⟨12, none, some p, true⟩] } }))) ∧
    (s.sys.doze = .entering →
      (w ≠ 0 → s.sys.sleepFor = none → ∃ u, exec .dozeEntryComplete s = .next u ∧ awake u ∧ reported u w) ∧
      (w = 0 → (List.range (nTiles s)).all (tileParked s) = false → exec .dozeEntryComplete s = .next s) ∧
      (w = 0 → (List.range (nTiles s)).all (tileParked s) = true → (List.range (nTiles s)).all (tileHalted s) = false → ∃ u,
        exec .dozeEntryComplete s = .next u ∧ u.sys = s.sys ∧ ∀ t, t < nTiles s → (getTile s t).eng.runstate = 1 →
          bit ((getTile u t).reg 0x200) 1 = true ∧ (getTile u t).switchRan = true) ∧
      (w = 0 → (List.range (nTiles s)).all (tileParked s) = true → (List.range (nTiles s)).all (tileHalted s) = true →
        bit (flReg s 4) 31 = true → fld (flReg s 4) 30 29 ≠ 0 → exec .dozeEntryComplete s = .next s) ∧
      (w = 0 → (List.range (nTiles s)).all (tileParked s) = true → (List.range (nTiles s)).all (tileHalted s) = true →
        bit (flReg s 4) 31 = false ∨ fld (flReg s 4) 30 29 = 0 → ∃ u,
        exec .dozeEntryComplete s = .next u ∧ u.sys.doze = .dozing ∧ u.sys.pastP = true ∧ u.sys.dozeAt = s.sclk ∧
          (s.served.all (fun x => x.localTile.isNone) = true → u.tiles = s.tiles) ∧
          (∀ t, (getTile u t).eng = (getTile s t).eng ∧ (getTile u t).store = (getTile s t).store) ∧
          (∀ k, k < 1024 → (getChan u k).held = none) ∧ ∀ q, q < 32 → portState s q = 3 → portState u q = 5)) ∧
    (6 ≤ c.toNat ∨ enabled.getLsbD c.toNat = false ∨ s.sys.doze = .run → exec (.wakeCauseLatch c) s = .next s) ∧
    (c.toNat < 6 → enabled.getLsbD c.toNat = true → wakes s.sys.doze (1#6 <<< c.toNat) (exec (.wakeCauseLatch c) s)) ∧
    (¬ timer → exec .wakeTimer s = .next s) ∧
    (timer → enabled.getLsbD 5 = true → wakes s.sys.doze (1#6 <<< 5) (exec .wakeTimer s)) ∧
    (s.sys.doze = .exiting ∨ (s.sys.doze = .dozing ∧ w ≠ 0) → s.sys.sleepFor = none → ∃ u, exec .dozeExit s = .next u ∧ awake u ∧
      reported u w ∧ u.sys.pastP = false ∧ ∀ t, t < nTiles s → (getTile s t).stops = [3] → (getTile s t).switchRan = true →
        (getTile u t).eng.runstate = 1) ∧
    (s.sys.doze = .run → exec .dozeExit s = .next s) ∧
    (die < 8 → powered s = true → temp.toNat < 120 → ∃ u, exec (.thermalSample die temp) s = .next u ∧
      fld (stReg u die 0x004) 7 0 = temp.toNat ∧
      (hot → bit (stReg u die 0) 1 = true ∧ u.sys.thermAlert = true) ∧ (¬ hot → stReg u die 0 = stReg s die 0) ∧
      (¬ hot → (∀ d, d < 8 → cool d) → (∀ k, k < 16 → stackTemp s k + 5 ≤ stackLimit s k) → u.sys.thermAlert = false) ∧
      (¬ hot → (∃ d, d < 8 ∧ ¬ cool d) ∨ (∃ k, k < 16 ∧ stackLimit s k < stackTemp s k + 5) → u.sys.thermAlert = s.sys.thermAlert) ∧
      u.sys.smbAlert = u.sys.thermAlert ∧ (110 ≤ temp.toNat → die ∈ u.sys.throttled) ∧ (temp.toNat ≤ 105 → die ∉ u.sys.throttled) ∧
      (105 < temp.toNat → temp.toNat < 110 → u.sys.throttled = s.sys.throttled)) ∧
    (die < 8 → powered s = true → 120 ≤ temp.toNat → ∃ u, exec (.thermalSample die temp) s = .next u ∧ u.sys.phase = .tripped ∧
      u.sys.ready = false ∧ u.sys.thermAlert = true ∧ u.hbm = []) ∧
    (powered s = true → ∃ u, exec .thermalTrip s = .next u ∧ u.sys.phase = .tripped ∧ u.sys.ready = false ∧ u.sys.thermAlert = true ∧
      u.sys.smbAlert = true ∧ u.hbm = [] ∧ u.tiles = [] ∧ u.ports = [] ∧ u.chutes = s.chutes) ∧
    (s.sys.phase = .tripped → exec .thermalTrip s = .next s)

/-- R614, R628, R629, R631, R634 to R636, R639, R688, R689, R704, the resets, the power pins and boot: what each trigger begins, what a
cold and a warm device reset clear and keep, the keys of links, of sessions and of the device destroyed, and the state in which boot ends.
A configuration request that comes before READY is answered by Retry. (Stated, for what a warm device reset keeps of HBM, where
no slot is granted, no fill runs and no flash operation is under way; a reset at once: log 29.) -/
def Obligations.ResetsAndBoot : Prop :=
  ∀ (f : Fn) (m : Master) (tile : BitVec 7) (pm warm img : Bool) (cause n q bag : Nat) (s : State),
    let cold := coldReset cause s
    let warmed := warmReset cause s
    let t := tile.toNat
    let held : Prop := s.sys.phase = .held
    let k (y : Sys) : State := { s with sys := y }
    let x := getTen s n
    let z := movePtr (targetOf .fuse) m s
    let open_ : Prop := mxOpen m .fuse s ∧ s.sys.doze = .run
    let lost (k : Nat) : Prop := k < 3 ∨ (0x10 ≤ k ∧ k < 0x50) ∨ k = 0x100 ∨ (0x400 ≤ k ∧ k < 0x800) ∨
      (0x800 ≤ k ∧ k < 0xC00 ∧ (getTen s (k - 0x800)).disabling = true)
    let config : Prop := s.sys.phase = .ready ∧ s.sys.doze = .run
    let retry : Host.Outcome State Fault Refusal := .next (emit .configRetry s)
    (cold.tiles = [] ∧ cold.hbm = [] ∧ cold.tenants = [] ∧ cold.keys = [] ∧ cold.ctxs = [] ∧ cold.bags = [] ∧ cold.buffers = [] ∧
      cold.ports = [] ∧ cold.chutes = State.reset.chutes ∧ cold.time = State.reset.time ∧ cold.envs = [] ∧ cold.pmA = State.reset.pmA ∧
      cold.sys.dumpHbm = [] ∧ cold.sys.ready = false ∧ cold.sys.lastReset = BitVec.ofNat 4 cause ∧ cold.fuses = s.fuses ∧
      cold.sys.softRows = s.sys.softRows ∧ cold.sys.softUnits = s.sys.softUnits ∧ cold.sys.softTiles = s.sys.softTiles ∧
      cold.sys.dumpFlash = s.sys.dumpFlash ∧ cold.sys.record = s.sys.recordNext ∧ cold.pending = s.pending ∧
      (bit (flReg s 4) 31 = false → cold.flashA = s.flashA ∧ cold.flashB = s.flashB)) ∧
    ((getP warmed q).store = Tile.reset.store ∧ (getP warmed q).eng = Engine.reset ∧ (getP warmed q).sparesUsed = (getP s q).sparesUsed ∧
      (∀ o, o < 0x200 → o ≠ 0x004 → o ≠ 0x0E4 → (getP warmed q).reg o = (getP s q).reg o) ∧
      (∀ k, getKey warmed k = if lost k ∧ (getKey s k).key.isSome = true then ⟨none, (getKey s k).gen + 1, false, false⟩
        else getKey s k) ∧ warmed.ctxs = s.ctxs ∧ warmed.buffers = s.buffers ∧ warmed.fuses = s.fuses ∧ (warmed.cfgRegs = s.cfgRegs ∧
        warmed.time = { s.time with rate := 2 ^ 32, trim := 0, slew := 0, good := 0, lastOwn := 0, lastParent := 0 }) ∧
      warmed.sys.dumpHbm = s.sys.dumpHbm ∧ warmed.sys.dumpFlash = s.sys.dumpFlash ∧ warmed.ports = [] ∧ warmed.envs = [] ∧
      warmed.chutes = State.reset.chutes ∧ warmed.cm = State.reset.cm ∧ warmed.pmA = State.reset.pmA ∧ warmed.pmB = State.reset.pmB ∧
      warmed.sys.ready = false ∧ warmed.sys.lastReset = BitVec.ofNat 4 cause ∧ warmed.vfEnable = s.vfEnable ∧
      (x.disabling = false → (getTen warmed n).contract = x.contract ∧ (getTen warmed n).segs = x.segs ∧
        (getTen warmed n).boundKey = x.boundKey ∧ (getTen warmed n).spdm = Spdm.empty ∧ (getTen warmed n).tiles = [] ∧
        (getTen warmed n).saved = [] ∧ (getTen warmed n).st = if x.st = .disabled then .disabled else .resident) ∧
      (bit (getBag warmed f bag).cfg 31 = false ∧ (getBag warmed f bag).head = 0 ∧ (getBag warmed f bag).tail = 0 ∧
        (getBag warmed f bag).ring = (getBag s f bag).ring) ∧
      (s.chans.all (fun kv => kv.2.held.isNone) = true → s.jobs.all (fun j => j.2.kind != .fill) = true → bit (flReg s 4) 31 = false →
        warmed.hbm = s.hbm ∧ warmed.flashA = s.flashA ∧ warmed.flashB = s.flashB)) ∧
    (powered s = true ∨ held → exec .pllLossOfLock s = .next (coldReset 1 s) ∧ exec .pcieHotReset s = .next (coldReset 3 s)) ∧
    (config → exec (.resetCapCold .pf warm) s = .next (coldReset 4 s) ∧ exec (.resetCapWarm .pf) s = .next (warmReset 6 s) ∧
      exec (.resetCapWarm (.vf n)) s = .next s ∧ exec (.resetCapCold (.vf n) warm) s = .next s) ∧
    (s.sys.phase = .booting → exec (.resetCapCold f warm) s = retry ∧ exec (.resetCapWarm f) s = retry) ∧
    (open_ →
      (t < nTiles s → ∃ u, exec (.syResetReqTile m tile) s = .next (resetLogical t u) ∧ fcRegs z u [0x800, 0x810] ∧
        (getTile (resetLogical t u) t).store = (getTile s t).store ∧ (getTile (resetLogical t u) t).eng = Engine.reset ∧
        (getTile (resetLogical t u) t).units = [] ∧ (getTile (resetLogical t u) t).round = none) ∧
      (m = (if pm then .pmA else .pmB) → ∃ u, exec (.syResetReqPostmaster m pm) s = .next (resetPm pm u) ∧ fcRegs z u [0x800, 0x810] ∧
        (getPm (resetPm pm u) pm).eng = Engine.reset ∧ stateOf (resetPm pm u) pm = 0 ∧ getPm (resetPm pm u) (!pm) = getPm s (!pm)) ∧
      (∃ u, exec (.syResetReqWarm m) s = .next (warmReset 7 u) ∧ fcRegs z u [0x800, 0x810]) ∧
      (∃ u, exec (.syResetReqCold m) s = .next (coldReset 5 u) ∧ fcRegs z u [0x800, 0x810])) ∧
    ((s.sys.pwrGood = false → exec .pwrGoodRise s = .next (coldReset 0 (k { s.sys with pwrGood := true }))) ∧
      (s.sys.pwrGood = true → exec .pwrGoodRise s = .next s) ∧
      (s.sys.pwrGood = true → ∃ u, exec .pwrGoodFall s = .next u ∧ u.sys.phase = .off ∧ u.sys.ready = false ∧ u.sys.fenced = false ∧
        u.sys.thermAlert = false ∧ u.hbm = []) ∧
      (s.sys.pwrGood = false → exec .pwrGoodFall s = .next s)) ∧
    ((s.sys.perstN = true → s.sys.phase ≠ .off → s.sys.phase ≠ .tripped → exec .perstNAssert s = .next (coldReset 2 (k { s.sys with perstN := false }))) ∧
      (s.sys.perstN = false ∨ s.sys.phase = .off ∨ s.sys.phase = .tripped → exec .perstNAssert s = .next (k { s.sys with perstN := false })) ∧
      (held → exec .perstNDeassert s = .next (k { s.sys with
        perstN := true, phase := if s.sys.pwrGood = false then .off else if s.sys.testMode then .held else .booting })) ∧
      (¬ held → exec .perstNDeassert s = .next (k { s.sys with perstN := true }))) ∧
    (s.sys.phase = .booting → bit (fcReg s 0) 2 = false →
      (bootImage s = none → exec .bootReady s = .next (bootIdentity s) ∧ (bootIdentity s).sys = s.sys) ∧
      (bit (ksReg s 0) 0 = false → (getKey (bootIdentity s) 0).key = some .deviceId ∧ (getKey (bootIdentity s) 2).key = some .storage ∧
        bit (ksReg (bootIdentity s) 0) 0 = true) ∧
      (bootImage s = some img → ∃ u, exec .bootReady s = .next u ∧ u.sys.phase = .ready ∧ u.sys.ready = true ∧ u.sys.stateA = 2 ∧ u.sys.stateB = 1 ∧
        u.pmA.eng.runstate = 1 ∧ u.pmB.eng.runstate = 1 ∧ u.pmA.image = img ∧
        (bit (ksReg s 0) 0 = false → (getKey u 0).key = some .deviceId) ∧ (getKey u 1).key = some (aliasKeyOf s img))) ∧
    (s.sys.phase ≠ .booting → exec .bootReady s = .next s)

/-- R414, R416 to R419, R431, R433, R436, SPDM at an endpoint: the order of connection set-up, what digests, certificates, challenges and
measurements answer, the key that a VF endpoint is bound to, the session that FINISH completes with its franking key and counts, and its
end. (The codes of requests and errors are the DMTF's, log 7; what a certificate or a signature contains, log 51.) -/
def Obligations.SpdmSessions : Prop :=
  ∀ (f : Fn) (ok last : Bool) (offer : SpdmAlgs) (slot off len idx seq secret : Nat) (key : BitVec 384) (code : BitVec 8) (ws : List Word)
    (x : Session) (s : State),
    pmServes s = true → endpointExists s f = true →
    let c := getSpdm s f
    let put (c : Spdm) : State := setSpdm f c s
    let rsp (code : Nat) (ws : List Word) (u : State) : Host.Outcome State Fault Refusal := .next (emit (.spdm f code ws) u)
    let long (code : Nat) (ws : List Word) : Host.Outcome State Fault Refusal := rsp code ws (put { c with reply := ws })
    let err (code : Nat) (u : State) : Host.Outcome State Fault Refusal := .next (emit (.spdmError f code) u)
    let alias_ := (getKey s 1).key.getD .unbound
    let body := Config.aliasBody alias_
    let chain := Config.caChain ++ Config.deviceCert (imageWords s s.sys.active) ++ body ++ Config.sign .deviceId body
    let offered : Bool := offer.meas.getLsbD 0 && offer.sig.getLsbD 7 && offer.hash.getLsbD 1 && offer.dhe.getLsbD 4 && offer.aead.getLsbD 1
    let mutual_ : Word := match f with | .pf => 0 | .vf _ => 0x80
    let kind (i : Nat) : Nat := if i = 1 then 0 else if i = 2 then 1 else if i ≤ 4 then 2 else 3
    let block (i : Nat) : List Word := BitVec.ofNat 64 (i + 2 ^ 8 * kind i + 2 ^ 16 * (8 * (measurement s f i).length)) :: measurement s f i
    let all : List Nat := match f with | .pf => [1, 2, 3, 4, 5, 6] | .vf _ => [1, 2, 3, 4, 5, 6, 7, 8]
    let bound : Option (BitVec 384) := match f with | .pf => none | .vf n => (getTen s n).boundKey
    let limit : Nat := match f with | .pf => 4 | .vf _ => 1
    let fslot := frankSlot f
    (exec (.getVersion f) s = rsp 0x04 [0x12, 0x13] (put { c with phase := 1, exchanging := none, chunk := [], reply := [] })) ∧
    (c.phase = 0 → exec (.getCapabilities f) s = err 0x04 s) ∧
    (1 ≤ c.phase → exec (.getCapabilities f) s = rsp 0x61 [spdmCaps f] (put { c with phase := 2 })) ∧
    (c.phase < 2 → exec (.negotiateAlgorithms f offer) s = err 0x04 s ∧ exec (.chunkSend f last ws) s = err 0x04 s ∧
      exec (.chunkGet f seq) s = err 0x04 s) ∧
    (2 ≤ c.phase → exec (.negotiateAlgorithms f offer) s =
      if offered then rsp 0x63 [1, 4, 0x80, 2, 0x10, 2, mutual_] (put { c with phase := 3 }) else err 0x01 s) ∧
    (2 ≤ c.phase → exec (.chunkSend f last ws) s = rsp 0x05 [] (put { c with chunk := if last then [] else c.chunk ++ ws })) ∧
    (2 ≤ c.phase → exec (.chunkGet f seq) s =
      if c.reply.length ≤ 64 * seq then err 0x01 s else rsp 0x06 ((c.reply.drop (64 * seq)).take 64) s) ∧
    (c.phase < 3 → exec (.getDigests f) s = err 0x04 s ∧ exec (.getCertificate f slot off len) s = err 0x04 s ∧
      exec (.challenge f slot) s = err 0x04 s ∧ exec (.getMeasurements f idx) s = err 0x04 s ∧ exec (.keyExchange f key secret) s = err 0x04 s) ∧
    (3 ≤ c.phase →
      exec (.getDigests f) s = rsp 0x01 ((List.range 6).map (fun i => (sha384 chain).extractLsb' (64 * i) 64)) s ∧
      exec (.getCertificate f slot off len) s = (if slot ≠ 0 ∨ 8 * chain.length ≤ off then err 0x01 s
        else long 0x02 (sliceBytes chain off (min len (8 * chain.length - off)))) ∧
      exec (.challenge f slot) s = (if slot ≠ 0 then err 0x01 s
        else long 0x03 (digestWords (sha384 chain) ++ Config.sign alias_ chain)) ∧
      exec (.getMeasurements f idx) s = (if idx = 0 then rsp 0x60 [BitVec.ofNat 64 all.length] s
        else if idx = 0xFF then long 0x60 (all.flatMap block)
        else if idx ∈ all then long 0x60 (block idx) else err 0x01 s) ∧
      (bound ≠ none → bound ≠ some key → exec (.keyExchange f key secret) s = err 0x01 s) ∧
      (bound = none ∨ bound = some key → exec (.keyExchange f key secret) s = if limit ≤ c.sessions.length then err 0x0A s
        else rsp 0x64 (Config.sign alias_ (digestWords key)) (put { c with exchanging := some (key, secret) }))) ∧
    (c.exchanging = none → exec (.finish f ok) s = err 0x04 s) ∧
    (c.exchanging = some (key, secret) → ok = false ∨ (bound ≠ none ∧ bound ≠ some key) →
      exec (.finish f ok) s = err 0x01 (put { c with exchanging := none })) ∧
    (c.exchanging = some (key, secret) → ok = true → bound = none ∨ bound = some key → ∃ u, exec (.finish f ok) s = rsp 0x65 [] u ∧
      (getSpdm u f).sessions = ⟨.franking secret⟩ :: c.sessions ∧ (getSpdm u f).exchanging = none ∧
      (getKey u fslot).key = some (.franking secret) ∧ (∀ n, f = .vf n → (getTen u n).boundKey = some key) ∧
      (∀ m, m < bagsOf f → (getBag u f m).expSeq = 1 ∧ (getBag u f m).rcptCtr = 1)) ∧
    (c.sessions = [] → exec (.heartbeat f) s = err 0x02 s ∧ exec (.keyUpdate f) s = err 0x02 s ∧ exec (.endSession f) s = err 0x02 s ∧
      exec (.spdmHeartbeatTimeout f) s = .next s) ∧
    (c.sessions ≠ [] → exec (.heartbeat f) s = rsp 0x68 [] s ∧ exec (.keyUpdate f) s = rsp 0x69 [] s) ∧
    (c.sessions = [x] → s.envs = [] → (getKey s fslot).key ≠ none →
      exec (.endSession f) s = rsp 0x6C [] (zeroKey (put { c with sessions := [] }) fslot) ∧
      exec (.spdmHeartbeatTimeout f) s = .next (zeroKey (put { c with sessions := [] }) fslot)) ∧
    exec (.spdmUnsupportedRequest f code) s = err 0x07 s

/-- R420, R422, R424, TDISP and IDE_KM on the PF endpoint: both are taken only inside a session there, the states that a TDI passes
through, the key that KEY_PROG writes into its slot, the key set that K_SET_GO makes the active one of its sub-stream and K_SET_STOP
destroys, and the events that bring a locked or running TDI into ERROR and begin its tenant's reset: an integrity failure, the end of its
stream's key set, and a write that changes its MSI-X capability or the VF BAR 0 of the PF. (Codes: log 7; where the configuration registers
lie: log 62.) -/
def Obligations.InterfacesAndStreams : Prop :=
  ∀ (n stream sub key : Nat) (kset : Bool) (f : Fn) (d : BitVec 32) (s : State), pmServes s = true → n < 1024 →
    let t := getTen s n
    let held (off : Nat) : BitVec 32 := tget (fun _ => 0) s.cfgRegs (1024 * fnKey f + off / 4)
    let write (off : Nat) : Instr := .registerWrite (.pcie f) (BitVec.ofNat 32 (0xF0000000 + off)) d
    let wrote (off : Nat) : State := { s with cfgRegs := tset (fun _ => 0) s.cfgRegs (1024 * fnKey f + off / 4) (d &&& cfgBits f off) }
    let rsp (code : Nat) (ws : List Word) (u : State) : Host.Outcome State Fault Refusal := .next (emit (.spdm .pf code ws) u)
    let bad (k : Nat) : Host.Outcome State Fault Refusal := rsp 0x7F [BitVec.ofNat 64 k] s
    let err (code : Nat) : Host.Outcome State Fault Refusal := .next (emit (.spdmError .pf code) s)
    let put (t : Tenant) : State := setTen s n t
    let open_ : Prop := s.pfSpdm.sessions ≠ []
    let live : Prop := open_ ∧ t.st ≠ .disabled
    let set_ := 6 * stream + 2 * sub + (if kset then 1 else 0)
    let other := 6 * stream + 2 * sub + (if kset then 0 else 1)
    let slot := 0x80 + set_
    let known : Prop := stream ≤ 8 ∧ sub ≤ 2
    let locked : Prop := t.tdi = .configLocked ∨ t.tdi = .run
    (¬ open_ → exec (.getTdispVersion n) s = err 0x02 ∧ exec (.getTdispCapabilities n) s = err 0x02 ∧
      exec (.lockInterfaceRequest n stream) s = err 0x02 ∧ exec (.getDeviceInterfaceReport n) s = err 0x02 ∧
      exec (.getDeviceInterfaceState n) s = err 0x02 ∧ exec (.startInterfaceRequest n) s = err 0x02 ∧
      exec (.stopInterfaceRequest n) s = err 0x02 ∧ exec (.query stream) s = err 0x02 ∧ exec (.keyProg stream sub kset key) s = err 0x02 ∧
      exec (.kSetGo stream sub kset) s = err 0x02 ∧ exec (.kSetStop stream sub kset) s = err 0x02) ∧
    (open_ → t.st = .disabled → exec (.lockInterfaceRequest n stream) s = bad 0x0101 ∧ exec (.startInterfaceRequest n) s = bad 0x0101) ∧
    (live → exec (.getTdispVersion n) s = rsp 0x01 [0x10] s ∧
      exec (.getTdispCapabilities n) s = rsp 0x02 [0x81, 0x82, 0x83, 0x84, 0x85, 0x86, 0x87] s ∧
      exec (.getDeviceInterfaceState n) s =
        rsp 0x05 [match t.tdi with | .configUnlocked => 0 | .configLocked => 1 | .run => 2 | .error => 3] s ∧
      exec (.stopInterfaceRequest n) s = rsp 0x07 [] (put { t with tdi := .configUnlocked, stream := none })) ∧
    (live → t.tdi ≠ .configUnlocked → exec (.lockInterfaceRequest n stream) s = bad 4) ∧
    (live → t.tdi = .configUnlocked → stream = 0 ∨ 8 < stream → exec (.lockInterfaceRequest n stream) s = bad 1) ∧
    (live → t.tdi = .configUnlocked → 0 < stream → stream ≤ 8 →
      exec (.lockInterfaceRequest n stream) s = rsp 0x03 [] (put { t with tdi := .configLocked, stream := some stream })) ∧
    (live → locked → exec (.getDeviceInterfaceReport n) s = rsp 0x04 [0, 0x1000, 0x2000, 0x100, 0x3000, 8, 0x20000000, 0x20000000] s) ∧
    (live → ¬ locked → exec (.getDeviceInterfaceReport n) s = bad 4) ∧
    (live → t.tdi = .configLocked → exec (.startInterfaceRequest n) s = rsp 0x06 [] (put { t with tdi := .run })) ∧
    (live → t.tdi ≠ .configLocked → exec (.startInterfaceRequest n) s = bad 4) ∧
    (¬ locked → exec (.ideIntegrityFailure n) s = .next s) ∧
    (locked → exec (.ideIntegrityFailure n) s = .next (beginReset n (put { t with tdi := .error }))) ∧
    (open_ → ¬ known → exec (.keyProg stream sub kset key) s = err 1 ∧ exec (.kSetGo stream sub kset) s = err 1 ∧
      exec (.kSetStop stream sub kset) s = err 1) ∧
    (open_ → stream ≤ 8 → ∃ v : Word, exec (.query stream) s = rsp 0x01 [v] s ∧ ∀ i, i < 6 → v.getLsbD i = s.ideActive.contains (6 * stream + i)) ∧
    (open_ → known → exec (.keyProg stream sub kset key) s = rsp 0x03 [0] (setKey s slot ⟨some (.ide key), (getKey s slot).gen, false, false⟩)) ∧
    (open_ → known → (getKey s slot).key = none → exec (.kSetGo stream sub kset) s = err 1) ∧
    (open_ → known → (getKey s slot).key ≠ none → ∃ l, exec (.kSetGo stream sub kset) s = rsp 0x05 [] { s with ideActive := l } ∧
      ∀ i, i ∈ l ↔ i = set_ ∨ (i ≠ other ∧ i ∈ s.ideActive)) ∧
    (open_ → known → (contracted s).all (fun m => (getTen s m).stream != some stream) = true → ∃ l,
      exec (.kSetStop stream sub kset) s = rsp 0x05 [] (setKey { s with ideActive := l } slot ⟨none, (getKey s slot).gen + 1, false, false⟩) ∧
      ∀ i, i ∈ l ↔ i ≠ set_ ∧ i ∈ s.ideActive) ∧
    (open_ → known → contracted s = [n] → t.stream = some stream → locked → ∃ l, exec (.kSetStop stream sub kset) s = rsp 0x05 []
      (beginReset n (setTen (setKey { s with ideActive := l } slot ⟨none, (getKey s slot).gen + 1, false, false⟩) n { t with tdi := .error }))) ∧
    (masterExists s (.pcie f) = true → s.sys.phase = .ready → s.sys.doze = .run →
      (∀ off, off < 4096 → held off = d &&& cfgBits f off → exec (write off) s = .next s) ∧
      (f = .vf n → locked → held 0x0B0 ≠ d &&& cfgBits f 0x0B0 → bit d 30 = true → exec (write 0x0B0) s = .next
        (beginReset n (setTen { wrote 0x0B0 with fmask := tset (fun _ => false) s.fmask (fnKey f) true } n { t with tdi := .error }))) ∧
      (f = .pf → locked → contracted s = [n] → held 0x128 ≠ d → exec (write 0x128) s = .next
        (beginReset n (setTen (wrote 0x128) n { t with tdi := .error }))))

/-- HBM keeps its canonical form at every step, from any state that has it: lines strictly ascending, none listed as unwritten. (The
model's own form of memory.) -/
def Obligations.HbmStaysCanonical : Prop :=
  ∀ (s u : State), hbmWf s = true → step s = .next u → hbmWf u = true

/-- R355, R631, R641, a rule of the whole machine over every command: no command but the end of a fuse commit changes the fused SVN, none but
the end of boot adds to the hard repairs of HBM, none changes another fuse, and none touches the commands that wait. (That hard repairs stand
beside the fuses is the model's layout.) -/
def Obligations.FusesAndQueueKept : Prop :=
  ∀ (c : Instr) (s u : State), exec c s = .next u →
    u.pending = s.pending ∧ (c ≠ .fuseCommitDone → u.fuses.svn = s.fuses.svn) ∧ (c ≠ .bootReady → u.fuses.hardUnits = s.fuses.hardUnits) ∧
    (∃ l, u.fuses = { s.fuses with svn := u.fuses.svn, hardUnits := s.fuses.hardUnits ++ l })
end

