-- ==== Sys2Proof/Laws/Memory.lean ====
section
/-! SUPPORT. Memory keeps its canonical form: the reset memory has it, and each operation that writes a tile store, a postmaster's private
store, HBM or a flash device keeps it. -/
namespace Sys2Proof.Machine

open Sys2Proof

variable {s : State}

/-- The memory of the reset state is in canonical form. -/
theorem reset_memory_wf : Memory.wf State.reset = true := by decide

/-! ### Tile stores -/

theorem storeWf_put {st : TileStore} (w : Nat) (c : SWord) (h : storeWf st = true) : storeWf (st.put w c) = true :=
  twf_tset _ _ _ _ h

/-- A write of one word leaves every other word of the store. -/
theorem cell_put_ne (st : TileStore) {w v : Nat} (c : SWord) (h : v ≠ w) : (st.put w c).cell v = st.cell v := tget_tset_ne _ _ _ h
@[simp] theorem cell_put_same (st : TileStore) (w : Nat) (c : SWord) : (st.put w c).cell w = c := tget_tset_same _ _ _ _

/-- Every tile store is in canonical form. -/
def storesWf (s : State) : Bool := s.tiles.all (fun kv => storeWf kv.2.store)

theorem storeWf_getP (p : Nat) (h : storesWf s = true) : storeWf (getP s p).store = true := by
  have key : ∀ t : Tbl Tile, t.all (fun kv => storeWf kv.2.store) = true → storeWf (tget (fun _ => Tile.reset) t p).store = true := by
    intro t
    induction t with
    | nil => intro _; rfl
    | cons x t ih =>
      intro ht
      simp only [List.all_cons, Bool.and_eq_true] at ht
      rw [tget_cons]
      split
      · exact ht.1
      · exact ih ht.2
  exact key s.tiles h

theorem all_tins {α : Type} (f : Nat × α → Bool) (k : Nat) (v : α) (t : Tbl α) (hv : f (k, v) = true) (h : t.all f = true) :
    (tins k v t).all f = true := by
  induction t with
  | nil => simp [tins, hv]
  | cons p t ih =>
    simp only [List.all_cons, Bool.and_eq_true] at h
    by_cases hlt : k < p.1
    · simp [tins, hlt, hv, h.1, h.2]
    · simp [tins, hlt, h.1, ih h.2]

theorem storesWf_setP (p : Nat) (x : Tile) (hx : storeWf x.store = true) (h : storesWf s = true) : storesWf (setP s p x) = true := by
  have hf : ((s.tiles.filter (fun kv => kv.1 != p)).all (fun kv => storeWf kv.2.store)) = true := by
    simp only [storesWf, List.all_eq_true] at h ⊢
    exact fun kv hkv => h kv (List.mem_filter.mp hkv).1
  unfold storesWf setP tset
  split
  · exact hf
  · exact all_tins _ _ _ _ hx hf

/-- A change of a tile that leaves its store, or keeps its form, keeps every store's form. -/
theorem storesWf_updP (p : Nat) (f : Tile → Tile) (hf : storeWf (f (getP s p)).store = true) (h : storesWf s = true) :
    storesWf (updP s p f) = true := storesWf_setP p _ hf h

theorem tsWrite_wf (p w : Nat) (v : TWord) (h : storesWf s = true) : storesWf (tsWrite p w v s) = true := by
  refine storesWf_updP p _ ?_ h
  split <;> exact storeWf_put _ _ (storeWf_getP p h)

theorem tsRewrite_wf (p w : Nat) (v : TWord) (h : storesWf s = true) : storesWf (tsRewrite p w v s) = true :=
  storesWf_updP p _ (storeWf_put _ _ (storeWf_getP p h)) h

theorem tsWriteList_wf (p : Nat) (l : List TWord) : ∀ (w : Nat) (s : State), storesWf s = true → storesWf (tsWriteList p w l s) = true := by
  induction l with
  | nil => intro _ _ h; exact h
  | cons v l ih => intro w s h; exact ih _ _ (tsWrite_wf p w v h)

/-- A change of registers alone leaves the store. -/
theorem setReg_store (t : Tile) (off : Nat) (v : BitVec 32) : (t.setReg off v).store = t.store := by
  cases t; exact Eq.refl _
theorem updReg_store (t : Tile) (off : Nat) (f : BitVec 32 → BitVec 32) : (t.updReg off f).store = t.store := by
  cases t; exact Eq.refl _

theorem logCorrection_wf (p w b mc : Nat) (h : storesWf s = true) : storesWf (logCorrection p w b mc s) = true := by
  unfold logCorrection
  extract_lets t next a t1 t2 co t3 t4
  have h1 : t1.store = t.store := (setReg_store _ _ _).trans (setReg_store _ _ _)
  clear_value t1
  have h2 : t2.store = t.store := (updReg_store _ _ _).trans h1
  clear_value t2
  have h3 : t3.store = t.store := (updReg_store _ _ _).trans h2
  clear_value t3
  have h4 : t4.store = t.store := (updReg_store _ _ _).trans h3
  clear_value t4
  refine storesWf_setP p _ ?_ h
  show storeWf t4.store = true
  rw [h4]
  exact storeWf_getP p h

theorem tsSetStatus_wf (p b : Nat) (h : storesWf s = true) : storesWf (tsSetStatus p b s) = true := by
  have h1 := storesWf_updP p (fun t => t.updReg 0x004 (fun v => setBit v b)) (storeWf_getP p h) h
  unfold tsSetStatus
  dsimp only
  split
  · exact h1
  · exact h1

theorem recordUncorr_wf (p w mc : Nat) (h : storesWf s = true) : storesWf (recordUncorr p w mc s) = true := by
  unfold recordUncorr
  dsimp only
  refine tsSetStatus_wf p 5 ?_
  split
  · exact h
  · refine storesWf_updP p _ ?_ h
    simp only [setReg_store]
    exact storeWf_getP p h

theorem tsRead_wf (p w mc : Nat) (h : storesWf s = true) : storesWf (tsRead p w mc s).2 = true := by
  unfold tsRead
  split
  · exact h
  · exact logCorrection_wf p w _ mc h
  · exact recordUncorr_wf p w mc h

/-- A fill leaves the store in canonical form. -/
theorem fillStore_wf (p : Nat) (h : storesWf s = true) : storesWf (fillStore p s) = true := by
  have h1 : storesWf (updP s p (fun t => { t with store := ⟨true, []⟩, writeBacks := [] })) = true := storesWf_updP p _ rfl h
  unfold fillStore
  dsimp only
  split
  · exact tsWrite_wf p _ _ h1
  · exact h1

theorem forN_keeps {α : Type} (P : α → Prop) (f : Nat → α → α) (hf : ∀ i a, P a → P (f i a)) : ∀ (n : Nat) (a : α), P a → P (forN n f a) := by
  intro n
  induction n with
  | zero => intro a h; exact h
  | succ n ih => intro a h; exact hf _ _ (ih a h)

/-! ### HBM -/

theorem setLine_wf (pc r : Nat) (l : HLine) (h : hbmWf s = true) : hbmWf (setLine pc r l s) = true := twf_tset _ _ _ _ h

theorem putLine_wf (pc r : Nat) (l : HLine) (h : hbmWf s = true) : hbmWf (putLine pc r l s) = true := by
  unfold putLine
  dsimp only
  split <;> exact setLine_wf _ _ _ h

theorem wrLine_wf (pc r : Nat) (d : BitVec 512) (t : BitVec 32) (k : Key) (h : hbmWf s = true) : hbmWf (wrLine pc r d t k s) = true :=
  putLine_wf pc r _ h

/-- A counter slot writes at most the line that it finds held. -/
theorem counterSlot_wf (q pc r : Nat) (h : hbmWf s = true) : hbmWf (counterSlot q pc r s) = true := by
  show hbmWf (settle pc r s) = true
  unfold settle
  split
  · split
    · exact putLine_wf _ _ _ h
    · exact h
  · exact h

/-- The postmaster's lines of an area are written in canonical form. -/
theorem writeTable_wf (pr : Nat × Nat) (ws : List TWord) (h : hbmWf s = true) : hbmWf (writeTable pr ws s) = true :=
  wrLine_wf _ _ _ _ _ (counterSlot_wf _ _ _ h)

/-- An area that is cleared loses its lines, and only what is armed for one of them is written. -/
theorem clearArea_wf (q n : Nat) (h : hbmWf s = true) : hbmWf (clearArea q n s) = true := by
  unfold clearArea
  extract_lets lo in_ s1
  have h1 : hbmWf s1 = true := twf_filter _ _ _ h
  refine forN_keeps (fun s => hbmWf s = true) _ (fun k x hx => ?_) _ _ h1
  dsimp only
  split
  · exact writeTable_wf _ _ hx
  · exact hx

/-- Read after write, and every other line unchanged. -/
@[simp] theorem getLine_setLine (pc r : Nat) (l : HLine) : getLine (setLine pc r l s) pc r = l := tget_tset_same _ _ _ _
theorem getLine_setLine_ne {pc r q n : Nat} (l : HLine) (h : lineKey q n ≠ lineKey pc r) :
    getLine (setLine pc r l s) q n = getLine s q n := tget_tset_ne _ _ _ h

/-! ### Flash -/

/-- Both flash devices are in canonical form. -/
def flashWf (s : State) : Bool := twf (fun _ => (0xFF : BitVec 8)) s.flashA.bytes && twf (fun _ => (0xFF : BitVec 8)) s.flashB.bytes

theorem putFlash_wf (b : Bool) (a : Nat) (bytes : List (BitVec 8)) (h : flashWf s = true) : flashWf (putFlash b a bytes s) = true := by
  simp only [flashWf, Bool.and_eq_true] at h
  have k : ∀ t : Tbl (BitVec 8), twf (fun _ => (0xFF : BitVec 8)) t = true →
      twf (fun _ => (0xFF : BitVec 8)) (forN bytes.length (fun i t => tset (fun _ => 0xFF) t (a + i) (nthD 0xFF bytes i)) t) = true :=
    fun t ht => forN_keeps (fun t => twf (fun _ => (0xFF : BitVec 8)) t = true) _ (fun i x hx => twf_tset _ _ _ _ hx) _ t ht
  cases b
  · simp only [flashWf, putFlash, Bool.and_eq_true]
    exact ⟨k _ h.1, h.2⟩
  · simp only [flashWf, putFlash, Bool.and_eq_true]
    exact ⟨h.1, k _ h.2⟩

end Sys2Proof.Machine
end

