-- ==== Sys2Proof/Tests/Slice0.lean ====
section
/-! SUPPORT. The model's own tests: well-formedness, witnesses that the hypotheses of the statements can be met, and small tests of commands. -/
namespace Sys2Proof.Tests

open Sys2Proof Sys2Proof.Machine

-- one theorem after another, so that kernel evaluations do not wait on one another in many threads
set_option Elab.async false

/-- What an answer has that passes a check. -/
theorem met {α : Type} {o : Option α} {p : α → Prop} [∀ x, Decidable (p x)] (h : o.any (fun x => decide (p x)) = true) :
    ∃ x, o = some x ∧ p x := by
  cases o with
  | none => simp at h
  | some x => exact ⟨x, rfl, by simpa using h⟩

/-! ### A tile that runs -/

def num (v : Nat) : TWord := ⟨BitVec.ofNat 64 v, 1⟩
def raw (v : Nat) : TWord := ⟨BitVec.ofNat 64 v, 0⟩
def adr (seg off : Nat) : TWord := ⟨BitVec.ofNat 64 (seg * 2 ^ 52 + off), 3⟩

/-- Segment 0 holds code, segment 1 data; both lie in the tile store. -/
def codeDesc : Desc := { Desc.empty with base := 0, limit := 0xFFF, x := true, r := true, w := true, valid := true }
def dataDesc : Desc := { Desc.empty with base := 0x10000, limit := 0xFFF, r := true, w := true, valid := true }

/-- An engine that runs at the reset entry, with words on its data stack and two on its return stack. -/
def engine (ds : List TWord) : Engine := { Engine.reset with
  runstate := 1
  ds := ds
  x := 0x40
  y := 0x80
  dcache := [(0, codeDesc), (1, dataDesc), (7, { dataDesc with limit := 0x7F, r := false })]
  rs := [codeWord 0 0x200, codeWord 0 0x300] }

/-- The tile of that engine: every bank its own, its store filled with zeros. -/
def tile (x : Engine) : Tile := { (Tile.reset.setReg 0x008 0xFFFF) with
  eng := x
  store := ⟨true, []⟩
  owner := some (0, 0) }

def withTile (t : Tile) : State := setP State.reset 0 t
def running (ds : List TWord) : State := withTile (tile (engine ds))

/-- The engine of tile 0. -/
def e0 : EngineId := .tile 0

/-! ### Witnesses: for each statement, states and operands that meet its hypotheses, clause by clause -/

/-- A short operation is ready on the words given. -/
def okS (o : ShortOp) (ds : List TWord) : Bool := (shortReady e0 o (running ds)).any (fun p => decide (p.1 = ds ∧ (getEng p.2 e0).ds = ds))

/-- A long word is ready on the words given. -/
def okL (w : WordSpec) (ds : List TWord) : Bool := (longReady e0 w (running ds)).any (fun s1 => decide ((getEng s1 e0).ds = ds))

theorem witness_StepRunsFrontCommand : State.reset.pending = [] ∧ State.reset.sys.phase = .booting ∧
    State.reset.sys.dumping = none ∧ (∃ s : State, s.pending = [] ∧ s.sys.phase = .off) ∧
    ∃ (s : State) (d : Dumping), s.pending = [] ∧ s.sys.phase = .booting ∧ s.sys.fenced = false ∧ s.sys.dumping = some d :=
  ⟨rfl, rfl, rfl, ⟨{ State.reset with sys := { State.reset.sys with phase := .off } }, rfl, rfl⟩,
    { State.reset with sys := { State.reset.sys with dumping := some ⟨false, true, 1, 0, 0⟩ } }, ⟨false, true, 1, 0, 0⟩, rfl, rfl, rfl, rfl⟩

/-- Every short operation of the statements on words is ready on three INT words; SLIT, PICK and the index operations at their bounds. -/
theorem witness_ShortMoves : [ShortOp.nop, .dup, .drop, .swap, .over, .rot, .nip, .pick 2, .slit 511, .slit 256, .fromx, .fromy, .tox, .toy,
    .xadd 255, .yadd 256, .tagof].all (fun o => okS o [num 1, num 2, num 3]) = true := by decide +kernel

theorem witness_AddClasses : ([ShortOp.add, .adc, .saddi 511, .sub, .sbc, .neg, .cmp, .xcmp 0, .ycmp 256].all
      (fun o => okS o [num (2 ^ 64 - 1), raw (2 ^ 63)]) && okL (wspec 0x28 0xFFFFFF 2 1 1 1) [num 0] && okL (wspec 0x2C 0x800000 2 1 0 0) [raw 0]) =
    true := by decide +kernel

theorem witness_LogicAndCounts : ([ShortOp.and, .or, .xor, .not, .tst, .clz, .popc].all (fun o => okS o [num 0, raw (2 ^ 64 - 1)]) &&
    [0x29, 0x2A, 0x2B].all (fun op => okL (wspec op 0xFFFFFF 2 1 1 1) [num 5])) = true := by decide +kernel

theorem witness_ShiftClass : [ShortOp.shl 0, .shl 63, .shr 0, .shr 63, .sar 0, .sar 63, .rol 0, .rol 63].all
    (fun o => okS o [raw (2 ^ 63 + 1)]) = true := by decide +kernel

/-- Both a tag that is taken and one that faults; two offsets of one segment, and of two. -/
theorem witness_RetagsAndParts : ([ShortOp.toint, .toraw, .toflt].all (fun o => okS o [⟨5, 2⟩] && okS o [adr 1 8]) &&
    okS .aoff [adr 1 8] && okS .aseg [adr 0xFFF 8] && okS .adiff [adr 1 8, adr 1 16] && okS .adiff [adr 1 8, adr 2 16]) = true := by decide +kernel

/-- The offsets 0 and LIMIT + 1 are in range; −1 and LIMIT + 2 are not. -/
theorem witness_AddrArithmetic : ((getEng (running []) e0).dcache.find? (fun p => p.1 == 1) = some (1, dataDesc) ∧ grants dataDesc = true) ∧
    ([num 0, num (2 ^ 64 - 1), num 0x1000, num 0x1001].all (fun t => okS .aadd [t, adr 1 0]) &&
      okL (wspec 0x05 0x001000 3 1 1 1) [adr 1 0] && okL (wspec 0x05 0xFFFFFF 3 1 1 1) [adr 1 0] &&
      okL (wspec 0x04 (1 * 4096 + 0x200) 4 0 0 1) [] && okL (wspec 0x04 (1 * 4096 + 0x201) 4 0 0 1) []) = true := by decide +kernel

theorem witness_DivideRun : (okS .dset [num 3, num 30001] && okS .dset [num 0, num 7] && okS .dstep [num 30001, num 0, num 3]) = true := by
  decide +kernel

/-- A pair of which both halves act, one whose half A faults, one whose half B does, and one that finds too few words. -/
theorem witness_PairWord : ((pairReady e0 .add .dup (running [num 1, num 2])).isSome && (pairReady e0 .add .nop (running [adr 1 0, num 2])).any (fun p =>
      match (halfA (ctxA e0 .add .nop) p.1 .add).run p.2 with | .error _ _ => true | .ok _ _ => false) &&
    (pairReady e0 .nop .add (running [adr 1 0, num 2])).any (fun p =>
      match (halfA (ctxA e0 .nop .add) p.1 .nop).run p.2 with
      | .ok _ s2 => (match (shortEval (ctxB e0 .nop .add) p.1 .add).run s2 with | .error _ _ => true | .ok _ _ => false)
      | .error _ _ => false) &&
    (pairReady e0 .drop .add (running [num 1, num 2])).any (fun p =>
      match (halfA (ctxA e0 .drop .add) p.1 .drop).run p.2 with
      | .ok _ _ => decide (p.1.length + 0 < 1 + 2)
      | .error _ _ => false)) = true := by decide +kernel

theorem witness_LiteralsAndMultiplies : (okL (wspec 0x01 0x800000 2 0 0 1) [] && okL (wspec 0x02 0xFFFFFF 2 0 0 1) [] &&
    okL (wspec 0x03 0xFFFFFF 2 1 1 1) [num (2 ^ 64 - 1)] &&
    [0x30, 0x31, 0x32].all (fun op => okL (wspec op 0 12 2 2 1) [num (2 ^ 63), num (2 ^ 64 - 1)])) = true := by decide +kernel

theorem witness_BitFields : (okL (wspec 0x38 (bfBits true 63 63) 3 1 1 1) [num 5] &&
    okL { wspec 0x39 (bfBits false 0 63) 3 2 2 1 with illegal := fun _ => false } [num 1, num 2] &&
    [num 0x13F3F, num 0x40].all (fun t => okL (wspec 0x3A 0 4 2 2 1) [t, num 2]) &&
    [num 0x03F3F, num 0x10000].all (fun t => okL (wspec 0x3B 0 4 3 3 1) [t, num 2, num 3]) &&
    [num (2 ^ 32 - 1), num (2 ^ 32)].all (fun t => okL (wspec 0x3C 0 4 3 3 1) [t, num 2, num 3])) = true := by decide +kernel

/-- Every selector that RDSR reads; X, Y and FLAGS written; a spill pointer set, refused for its tag, its segment, its alignment, and while
words are spilled. -/
theorem witness_SpecialRegisters :
    ((List.range 12).all (fun n => okL { wspec 0x20 n 2 0 0 1 with illegal := fun _ => decide (0x0C ≤ n) } []) &&
    [0, 1, 2].all (fun n => okL { wspec 0x21 n 3 1 1 0 with illegal := fun _ => !writable n } [num 9]) &&
    [adr 1 64, num 64, adr 7 64, adr 1 8].all (fun t => [6, 7].all (fun n => okL { wspec 0x21 n 3 1 1 0 with illegal := fun _ => !writable n } [t])) &&
    (longReady e0 { wspec 0x21 6 3 1 1 0 with illegal := fun _ => !writable 6 }
      (withTile (tile { engine [adr 1 64] with dSpilled := 8, dspill := some (adr 1 0).data }))).isSome) = true := by decide +kernel

/-- The checks of `reaches`, computed. -/
def reachesB (s : State) (e : EngineId) (right : Desc → Bool) (seg : BitVec 12) (off n : Nat) (d : Desc) : Bool :=
  decide ((getEng s e).dcache.find? (fun p => p.1 == seg) = some (seg, d) ∧ grants d = true ∧ right d = true ∧ d.space = 0 ∧
    off + n ≤ d.limit.toNat + 1 ∧ outsideE s e (d.base.toNat + off) n = none)

theorem reaches_of {s : State} {e : EngineId} {right : Desc → Bool} {seg : BitVec 12} {off n : Nat} {d : Desc}
    (h : reachesB s e right seg off n d = true) : reaches s e right seg off n d := by
  unfold reachesB at h
  have g := of_decide_eq_true h
  exact g

/-- The running tile with words in its data segment, a Y, and a number of stores that wait. -/
def loaded (ds : List TWord) (y sbn : Nat) (cells : List (Nat × SWord)) : State :=
  withTile { tile { engine ds with y := BitVec.ofNat 64 y, sb := (List.range sbn).map (fun i => (0x10200 + 8 * i, num i)) } with
    store := ⟨true, cells⟩ }

def form (seg : BitVec 12) (imm : BitVec 11) : MForm := ⟨seg, true, imm⟩

/-- The last aligned word of the segment, found in the store and found in the store buffer; an unaligned load whose second word is the last. -/
theorem witness_Loads :
    ((longReady e0 (mspec 0x10 (form 1 0) 4 0 0 1) (loaded [] 0xFF8 0 [])).any (fun s1 =>
      reachesB s1 e0 (fun d => d.r) 1 0xFF8 8 dataDesc && decide (forwarded (getEng s1 e0) 0x21FF = none ∧ soundWord s1 e0 0x21FF = some (num 0))) &&
    (longReady e0 (mspec 0x12 (form 1 0) 4 0 0 0) (loaded [] 0x208 4 [])).any (fun s1 =>
      reachesB s1 e0 (fun d => d.r) 1 0x208 8 dataDesc && decide (forwarded (getEng s1 e0) 0x2041 = some (num 1))) &&
    (longReady e0 (wspec 0x16 0xFFFFFF 5 1 1 1) (loaded [adr 1 8] 0 0 [])).any (fun s1 => reachesB s1 e0 (fun d => d.r) 1 0 8 dataDesc) &&
    (longReady e0 (mspec 0x10 (form 1 0) 4 0 0 1) (loaded [] 0xFF1 0 [])).any (fun s1 => reachesB s1 e0 (fun d => d.r) 1 0xFF1 8 dataDesc &&
      decide (soundWord s1 e0 0x21FE = some (num 0) ∧ soundWord s1 e0 0x21FF = some (num 0)))) = true := by decide +kernel

/-- Room in the store buffer and none; a misaligned store; loads without the right and past the limit; a drain. -/
theorem witness_Stores :
    ([3, 4].all (fun n => (longReady e0 (mspec 0x11 (form 1 0) 3 1 1 0) (loaded [num 5] 0xFF8 n [])).any (fun s1 =>
      reachesB s1 e0 (fun d => d.w) 1 0xFF8 8 dataDesc && decide ((getEng s1 e0).sb.length = n))) &&
    (longReady e0 (wspec 0x17 0 4 2 2 0) (loaded [adr 1 0, num 5] 0 0 [])).any (fun s1 => reachesB s1 e0 (fun d => d.w) 1 0 8 dataDesc) &&
    (longReady e0 (mspec 0x11 (form 1 0) 3 1 1 0) (loaded [num 5] 0x81 0 [])).isSome &&
    (longReady e0 (mspec 0x10 (form 7 0) 4 0 0 1) (loaded [] 0 0 [])).isSome &&
    (longReady e0 (mspec 0x10 (form 1 0) 4 0 0 1) (loaded [] 0xFF9 0 [])).isSome &&
    decide (0 < nTiles (loaded [] 0 4 []) ∧ bit ((getTile (loaded [] 0 4 []) 0).reg 0x0F8) 31 = false)) = true := by decide +kernel

/-- A tile inside a block operation with n words to go. -/
def inBlock (n : Nat) (b : TWord) : State :=
  withTile { tile { engine [adr 1 0x40, b] with x := BitVec.ofNat 64 n, mid := true } with store := ⟨true, [(0x2010, ⟨7, 1, 0⟩)]⟩ }

/-- Zero words; the last word, and the first of two, of a fill and of a move. -/
theorem witness_BlockOperations :
    ((longReady e0 (wspec 0x41 0 4 2 2 0) (withTile (tile { engine [adr 1 0, num 5] with x := 0 }))).any (fun s1 => decide ((getEng s1 e0).x = 0)) &&
    [1, 2].all (fun n => [num 9, adr 1 0x80].all (fun b => decide (runnable (inBlock n b) e0 = true) &&
      reachesB (inBlock n b) e0 (fun d => d.w) 1 0x40 (8 * n) dataDesc && reachesB (inBlock n b) e0 (fun d => d.r) 1 0x80 (8 * n) dataDesc &&
      (soundWord (inBlock n b) e0 0x2010).isSome))) = true := by decide +kernel

/-- Each conditional branch is ready, with both hints; and a store, a multiply and a pair in an annulled slot are fetched. -/
theorem witness_ConditionalBranches :
    ((List.range 14).all (fun i => [true, false].all (fun h => okL (wspec (0x61 + i) (brBits ⟨true, h, 0x3FFFFF⟩) 2 0 0 0) [])) &&
    (let s := withTile (tile { engine [num 1, num 2] with dslot := true, annulled := true })
     (passes (do beginWord (longCtx e0 (mspec 0x11 (form 1 0) 3 1 1 0)); decodeLong (longCtx e0 (mspec 0x11 (form 1 0) 3 1 1 0)) (mspec 0x11 (form 1 0) 3 1 1 0))
        s).any (fun s1 => (getEng s1 e0).annulled) &&
      (passes (beginWord (pairCtx e0 .add .dup)) s).any (fun s1 => (getEng s1 e0).annulled))) = true := by decide +kernel

theorem witness_CallsAndReturns :
    (okL { wspec 0x60 (brBits ⟨false, false, 4⟩) 3 0 0 0 with illegal := fun _ => hinted ⟨false, false, 4⟩ } [] &&
    okL (wspec 0x6F (brBits ⟨true, true, 4⟩) 2 0 0 0) [] &&
    okL { wspec 0x70 (brBits ⟨false, false, 4⟩) 4 0 0 0 with illegal := fun _ => hinted ⟨false, false, 4⟩, use := ⟨0, 0, 0, 0, 1⟩ } [] &&
    okL { wspec 0x71 0 5 1 1 0 with use := ⟨1, 1, 0, 0, 1⟩ } [adr 0 0x40] && okL { wspec 0x72 0 4 0 0 0 with use := ⟨0, 0, 0, 1, 0⟩ } []) = true := by
  decide +kernel

/-- In a delay slot, and outside one; reserved words of either length; TRAP. -/
theorem witness_DecodeFaults :
    ([true, false].all (fun b => (passes (beginWord ⟨e0, 0x77, 0, BitVec.ofNat 64 (0x77 * 2 ^ 24)⟩)
        (withTile (tile { engine [] with dslot := b }))).any (fun s1 => decide ((getEng s1 e0).dslot = b ∧ (getEng s1 e0).hlevel = 0))) &&
    decide (privOf e0 = false) && [0x7F000000, 0x80000001].all (fun w => reservedWord w && decide (w < 2 ^ 31 ∨ w % 2 = 1)) &&
    okL (wspec 0x73 0xFFFF 4 0 0 0) []) = true := by decide +kernel

/-- Level 14 is the last that a fault raises. -/
theorem witness_FaultEntry : let s := withTile (tile { engine [num 1] with hlevel := 14 })
    (reachesB s e0 (fun d => d.x) 0 (16 * 9) 4 codeDesc && decide (soundWord s e0 (16 * 9 / 8) = some (num 0) ∧ 0 < nTiles s ∧ s.cm.locks = [] ∧
      bit ((getTile s 0).reg 0x0F8) 31 = false ∧ (getTile s 0).eng.dfault = false ∧ (getTile s 0).eng.hlevel < 15)) = true := by decide +kernel

theorem witness_SecondAndThirdFault :
    (let s := withTile (tile { engine [num 1] with hlevel := 15 })
     (reachesB s e0 (fun d => d.x) 0 0 4 codeDesc && decide (soundWord s e0 0 = some (num 0) ∧ 0 < nTiles s ∧ s.cm.locks = [])) = true) ∧
    (let s := withTile { tile { engine [num 1] with dfault := true } with owner := none }
     (getTile s 0).eng.dfault = true ∧ (getTile s 0).owner = none ∧ bit ((getTile s 0).reg 0x0F8) 31 = false ∧ s.cm.locks = []) := by decide +kernel

/-- FRET of a good FINFO, of one of a wrong tag, of one that is too large, and one that ends a seal past the limit of its count; SEAL,
UNSEAL and HALT, and UNSEAL past the limit. -/
theorem witness_HandlerWords :
    ([num 0xFFFFF, raw 5, num 0x100000].all (fun fi => (longReady e0
      { wspec 0x74 0 6 2 2 0 with illegal := fun x => x.hlevel == 0 || x.dfault, use := ⟨2, 2, 0, 2, 0⟩ }
      (withTile (tile { engine [fi, num 3] with hlevel := 1 }))).any (fun s1 => decide ((getEng s1 e0).ds = [fi, num 3] ∧ (getEng s1 e0).intParked = false))) &&
    (longReady e0 { wspec 0x75 0 2 0 0 0 with illegal := fun x => x.hlevel == 0 } (withTile (tile { engine [] with hlevel := 15 }))).isSome &&
    okL (wspec 0x76 0 2 0 0 0) [] && okL (wspec 0x77 0 2 0 0 0) [] &&
    (let x : Engine := { engine [num 0, num 3] with hlevel := 1, isSealed := true, sealLevel := 1, cycles := 4095 }
     (longReady e0 { wspec 0x74 0 6 2 2 0 with illegal := fun x => x.hlevel == 0 || x.dfault, use := ⟨2, 2, 0, 2, 0⟩ } (withTile (tile x))).any
       (fun s1 => decide ((getEng s1 e0).hlevel - 1 < (getEng s1 e0).sealLevel ∧
         sealLimit e0 < ((getEng s1 e0).cycles + 5 - (getEng s1 e0).sealStart).toNat ∧ (getEng s1 e0).intParked = false)) &&
     (longReady e0 (wspec 0x76 0 2 0 0 0) (withTile (tile x))).any (fun s1 => decide ((getEng s1 e0).isSealed = true ∧
       (getEng s1 e0).dfault = false ∧ sealLimit e0 < ((getEng s1 e0).cycles + 1 - (getEng s1 e0).sealStart).toNat)))) = true := by decide +kernel

/-- Three faults pending; sealed and not, the count at its limit and below it; a request to halt; an invalidation with the engine running
at a boundary. -/
theorem witness_SequencerEvents :
    (let x : Engine := { engine [] with pending := [.vector 3, .reflect 4, .sealOverrun 5] }
     x.runstate = 1 ∧ atBoundary x = true ∧ x.dfault = false ∧
       x.pending.find? (fun b => match b with | .sealOverrun _ => true | _ => false) = some (.sealOverrun 5)) ∧
    (let t := ((tile (engine [])).setReg 0x200 2).setReg 0x208 0x80000001
     bit (t.reg 0x200) 1 = true ∧ t.eng.pending = [] ∧ atBoundary t.eng = true ∧ t.eng.sb = [] ∧ bit (t.reg 0x208) 31 = true) ∧
    (let x : Engine := { engine [] with isSealed := true, cycles := 4096 }
     x.dfault = false ∧ sealLimit e0 ≤ (x.cycles - x.sealStart).toNat ∧ ((x.cycles - 1) - x.sealStart).toNat < sealLimit e0 ∧ x.waiting = false ∧
       x.busy = false ∧ x.mxWait = none) := by decide +kernel

/-- Postmaster A with words on its stack. -/
def pm (ds : List TWord) : State := { State.reset with pmA := { State.reset.pmA with eng := engine ds } }

/-- A postmaster's word is ready on the words given. -/
def okP (w : WordSpec) (ds : List TWord) : Bool := (longReady .pmA w (pm ds)).any (fun s1 => decide ((getEng s1 .pmA).ds = ds))

/-- A request that is performed, one that ends in an error, one that a lock holds and one that nothing answers; a lock to take and one to leave. -/
theorem witness_MatrixWords :
    (okP (pspec 0x78 0 4 1 1 1) [num 0x10] && okP (pspec 0x79 0 4 2 2 0) [num 0x10, num 1] &&
    (match matrixAccess .pmA 0x10 none (pm [num 0x10]) with | (.done _, _) => true | _ => false) &&
    (match matrixAccess .pmA 0x11 none (pm [num 0x11]) with | (.err _, _) => true | _ => false) &&
    (match matrixAccess .pmA 0xFFFFFFF0 none (pm [num 0x11]) with | (.lost, _) => true | _ => false) &&
    okP (pspec 0x7A 0 4 1 1 0) [num 0x1000] && okP (pspec 0x7B 0 4 1 1 0) [num 0x1000] && (decodeAddr (pm []) 0x1000).any (fun k =>
      let s := setLock (targetOf k.1) { getLock (pm []) (targetOf k.1) with owner := some .pmA } (pm [])
      !gatedOff (pm []) k.1 && decide ((getLock (pm []) (targetOf k.1)).owner = none ∧ (getLock s (targetOf k.1)).owner = some .pmA))) = true := by
  decide +kernel

/-- The first and last slots of the table, a reserved one, a current KEYREF, an old one, a signing key, the contexts 4,111 and 4,112, and a
slot of which no copy fails, one does, or both do. -/
theorem witness_KeyWords :
    ([0, 2, 0x10, 0x4F, 0x80, 0xB5, 0x100, 0x400, 0xBFF, 3].all (fun n => okP (pspec 0x7C n 4 0 0 1) []) &&
    [0x10, 0x10010, 1].all (fun k => okP (pspec 0x7D 0 8 1 1 0) [⟨BitVec.ofNat 64 k, 7⟩] &&
      [4111, 4112].all (fun c => okP (pspec 0x7E 0 6 2 2 0) [⟨BitVec.ofNat 64 k, 7⟩, num c])) &&
    decide ((getKey (readKey 0x10 (pm [])) 0x10).gen = 0) &&
    [(false, false), (true, false), (true, true)].all (fun b =>
      let y := getKey (setKey (pm []) 0x10 ⟨some (.draw 3), 0, b.1, b.2⟩) 0x10
      decide (y.bad0 = b.1 ∧ y.bad1 = b.2 ∧ y.key = some (.draw 3)))) = true := by decide +kernel

/-- VMAKE at the bounds of LENGTH and STRIDE, with a stride out of range, a shape, a MASK stride; VSETL at 65,536 and above. -/
theorem witness_StreamWords :
    ([(65536, 2 ^ 31 - 1), (0, 2 ^ 31), (65537, 1), (5 * 2 ^ 17, 2), (2 ^ 41, 1)].all (fun p => okL (wspec 0x4E 0 4 3 3 1) [num p.1, num p.2, adr 1 0]) &&
    [65536, 65537].all (fun l => okL (wspec 0x4F 0 3 2 2 1) [num l, ⟨0, 5⟩])) = true := by decide +kernel

/-- A descriptor word of a stream of one element. -/
def vdesc (slot ty : Nat) : TWord := ⟨BitVec.ofNat 64 (slot * 2 ^ 58 + 2 * 2 ^ 56 + ty * 2 ^ 49 + 256 * 2 ^ 32 + 1), 5⟩

/-- The running tile with two INT64 streams in its table. -/
def streaming (ds : List TWord) (u : List VUnit) : State :=
  withTile { tile (engine ds) with
    streams := [(0, ⟨true, 1, 1, 0, 1, false, 0⟩), (1, ⟨true, 1, 1, 0x800, 1, false, 0⟩)]
    units := u }

/-- An instruction in the counter path. -/
def unit0 : VUnit := ⟨5, 1, 1, false, false, 0, 0, 0, 600, [], none, false, false, [], [], none, 0, 0, 0, none, 0, false, [], [], [], []⟩

def copySpec (md : BitVec 12) : WordSpec :=
  { wspec 0x48 (0x1A * 65536 + 5 * 4096 + md.toNat) 4 2 2 0 with illegal := fun _ => vIllegal 0x1A md }

/-- VCOPY that passes every check of R206; VWAIT and VFENCE with and without an instruction, and in a handler; VCOPY while its ID is
outstanding; in a postmaster VMAKE, VCOPY and RCALL. -/
theorem witness_VectorWords :
    ((waitReady e0 (copySpec 0) (vissueReady 5) (streaming [vdesc 0 3, vdesc 1 3] [])).any (fun s1 =>
      match (issueWords (longCtx e0 (copySpec 0)) (issueRoles 0x1A false)).run (drainAll e0 s1) with
      | .ok ws s2 =>
        (match (issueChecks (longCtx e0 (copySpec 0)) 0 0x1A 5 0 ws).run s2 with
         | .ok _ s3 => decide ((getEng s3 e0).resume = false ∧ (getTile s3 0).tfInForce = 2)
         | .error _ _ => false)
      | .error _ _ => false) &&
    [[], [unit0], [{ unit0 with parked := true }]].all (fun u => (longReady e0 (wspec 0x49 0xFFFF 2 0 0 0) (streaming [] u)).isSome &&
      (longReady e0 (wspec 0x4A 0 2 0 0 0) (streaming [] u)).isSome) &&
    (let s := streaming [vdesc 0 3, vdesc 1 3] [unit0]
     (passes (waitHead (longCtx e0 (copySpec 0)) (copySpec 0) (getEng s e0)) s).isSome) &&
    (let s := withTile { tile { engine [] with hlevel := 1 } with units := [{ unit0 with parked := true }] }
     (longReady e0 (wspec 0x49 0x20 2 0 0 0) s).isSome && ((getTile s 0).units.filter (fun u => (0x20#16).getLsbD u.id.toNat)).any (·.parked)) &&
    (longReady .pmA (wspec 0x4E 0 4 3 3 1) (pm [num 5, num 1, adr 1 0])).any (fun s1 => decide ((getEng s1 .pmA).ds = [num 5, num 1, adr 1 0] ∧
      vmakeBad s1 1 5 = none)) &&
    (waitReady .pmA (copySpec 0) (vissueReady 5) (pm [vdesc 0 3, vdesc 1 3])).any (fun s1 =>
      match (issueWords (longCtx .pmA (copySpec 0)) (issueRoles 0x1A false)).run (drainAll .pmA s1) with | .ok _ _ => true | .error _ _ => false) &&
    (longReady .pmA (wspec 0x4C 0 4 2 2 0) (pm [⟨0x300, 6⟩, num 1])).any (fun s1 => decide ((getEng s1 .pmA).ds = [⟨0x300, 6⟩, num 1] ∧
      (getEng s1 .pmA).sb = []))) = true := by decide +kernel

/-- An image of 64 bytes without a payload, and one with a payload of 64. -/
theorem witness_EnvelopeSend : [0, 64].all (fun pl =>
    let ws : List TWord := num (pl * 2 ^ 32 + 3) :: List.replicate (7 + pl / 8) (num 0)
    let s := withTile { tile (engine [adr 1 0x20, adr 1 0x40]) with store := ⟨true, [(0x2008, ⟨BitVec.ofNat 64 (pl * 2 ^ 32 + 3), 1, 0⟩)]⟩ }
    (waitReady e0 (wspec 0x50 0 6 2 2 0) esendReady s).any (fun s1 => reachesB s1 e0 (fun d => d.r) 1 0x40 (64 + pl) dataDesc &&
      reachesB s1 e0 (fun d => d.w) 1 0x20 32 dataDesc && decide (ws.length = 8 + pl / 8 ∧ (getTile s1 0).owner.map (·.1) = some 0 ∧
        (getEng s1 e0).sb = [] ∧ (getLock s1 0xC0).owner = none ∧ (getEng s1 e0).dcache.length ≤ 64) &&
      (List.range ws.length).all (fun i => decide (soundWord s1 e0 (0x2008 + i) = ws[i]?)))) = true := by decide +kernel

/-- The bounds of each operand of the statement on reflected passes. -/
theorem witness_ReflectedIntegers : (2 < 3 ∧ 0x1A < 0x1B ∧ 2 ^ 64 - 1 < 2 ^ eBits 3) ∧ 1 < 2 ^ eBits 5 := by decide +kernel

/-- A waiting instruction with an awake pipe, with a sleeping one, and with none; pipes that wake, sleep and close; causes that are held. -/
theorem witness_PipeEvents :
    (let t := { (tile (engine [])).setReg 0x30C 1 with units := [unit0], waking := [2], closing := [3], stops := [1] }
     t.units.find? (fun v => !v.started && !v.parked) = some unit0 ∧ 0 < unit0.vl ∧ pipeClass unit0.vop.toNat = 0 ∧ unit0.mode = 0 ∧
       usesStaging unit0 = false ∧ ((List.range 8).filter (pipeFree t)).filter (fun c => bit (t.reg 0x30C) c) = [0] ∧
       (unitCodes t).contains 9 = false ∧ (roundCodes t).contains 9 = false ∧ t.stops ≠ [] ∧ t.eng.resume = false ∧ t.round = none ∧
       t.units.all (fun u => u.cls == 0 && u.disputed.isNone) = true) ∧
    (let t := { tile (engine []) with units := [unit0] }
     ((List.range 8).filter (pipeFree t)).filter (fun c => bit (t.reg 0x30C) c) = [] ∧ ((List.range 8).filter (pipeFree t)).head? = some 0) ∧
    (let t := { tile (engine []) with units := unit0 :: (List.range 8).map (fun c => { unit0 with id := BitVec.ofNat 4 (8 + c), pipes := [c], started := true }) }
     (List.range 8).filter (pipeFree t) = []) := by decide +kernel

def vstream (off : Int) : CStream := ⟨1, off, 1, false, 0, 3, 600, { dataDesc with limit := 0x7FFF }⟩

/-- An instruction of three elements that has started on INT64 streams, its strip due. -/
def unit1 (md : BitVec 2) (dis : Option (Word × Word)) : VUnit :=
  { unit0 with vl := 3, mode := md, started := true, pipes := List.range (md.toNat + 1), disputed := dis, ops := [vstream 0x4000, vstream 0, vstream 0x2000] }

def committing (md : BitVec 2) (dis : Option (Word × Word)) (cells : List (Nat × SWord)) : State :=
  withTile { (tile (engine [])).setReg 0x30C 0xFF with units := [unit1 md dis], store := ⟨true, cells⟩ }

/-- The outputs of the three passes of a strip under an upset, compared. -/
def agree (u : VUnit) (s : State) (ups : Upset) : Bool × Bool × Bool :=
  let es := (stripInputs 0 u s).2.es
  let o0 := passOut 0 u ups.pass0 es
  let o1 := passOut 1 u ups.pass1 es
  let o2 := passOut 2 u ups.pass2 es
  (sameOut o0 o1, sameOut o0 o2, sameOut o1 o2)

/-- Every mode; a failing word; passes that agree, and each way in which they do not; a strip in dispute. -/
theorem witness_StripCommits :
    ([0, 1, 2].all (fun md => let s := committing md none []
      decide (unitOf (getTile s 0) 5 = some (unit1 md none) ∧ 0 < nTiles s) && arrived (unit1 md none) &&
        (stripInputs 0 (unit1 md none) s).2.cause.isNone && decide ((stripInputs 0 (unit1 md none) s).1.id = 5)) &&
    (stripInputs 0 (unit1 0 none) (committing 0 none [(0x2002, ⟨0, 0xF, 0⟩)])).2.cause.isSome &&
    decide (agree (unit1 2 none) (committing 2 none []) ⟨0, 0, 0, false, false⟩ = (true, true, true)) &&
    decide (agree (unit1 2 none) (committing 2 none []) ⟨0, 0, 1, false, false⟩ = (true, false, false)) &&
    decide (agree (unit1 2 none) (committing 2 none []) ⟨0, 1, 0, false, false⟩ = (false, true, false)) &&
    decide (agree (unit1 2 none) (committing 2 none []) ⟨1, 0, 0, false, false⟩ = (false, false, true)) &&
    decide (agree (unit1 2 none) (committing 2 none []) ⟨1, 2, 3, false, false⟩ = (false, false, false)) &&
    (let t := getTile (committing 1 (some (0, 1)) []) 0
     pipeFree t (nextPipe t 1) && pipeAwake t (nextPipe t 1)) &&
    (heldInputs 0 (unit1 1 (some (0, 1))) (committing 1 (some (0, 1)) [])).cause.isNone) = true := by decide +kernel

/-- The first strip of 600 elements, and the last. -/
theorem witness_StripOfWords : [0, 2].all (fun k =>
    let u := { unit1 0 none with strip := k, vl := 600 }
    let s := withTile { tile (engine []) with units := [u] }
    decide (unitOf (getTile s 0) u.id = some u ∧ 256 * k < u.vl ∧ u.disputed = none ∧ u.refused = false ∧ u.remoteLeft = 0 ∧ u.buf = [] ∧ u.cls = 0 ∧
      u.pipes.any (getTile s 0).waking.contains = false ∧ grants (vstream 0).desc = true ∧
      0x2000 * 8 = (vstream 0).desc.base.toNat + 0 ∧ bit ((getTile s 0).reg 0x0F8) 31 = false ∧ (getTile s 0).eng.resume = false) &&
    (List.range 256).all (fun i => decide (((getTile s 0).store.cell (0x2000 + 256 * k + i)).tag = 1 ∧
      ((getTile s 0).store.cell (0x2000 + 256 * k + i)).err = 0))) = true := by decide +kernel

/-- A sheet of one entry, loaded; and one that wants a post box. -/
def sheet0 : Sheet :=
  ⟨true, 3, [BitVec.ofNat 128 (5 * 2 ^ 96 + 2 ^ 56 + 2 ^ 32 + 15 * 2 ^ 16), BitVec.ofNat 128 (6 * 2 ^ 64), 0, 0, BitVec.ofNat 128 (15 * 2 ^ 124)]⟩
def sheet1 : Sheet := { sheet0 with entries := [BitVec.ofNat 128 (5 * 2 ^ 96 + 2 ^ 56 + 2 * 2 ^ 32 + 15 * 2 ^ 16), BitVec.ofNat 128 (6 * 2 ^ 64), 0, 0,
  BitVec.ofNat 128 (9 * 2 ^ 124 + 4 * 2 ^ 108), BitVec.ofNat 128 (15 * 2 ^ 124)] }

/-- A round in a state, its next window given. -/
def round0 (st : BitVec 3) (w : Nat) : Round := ⟨0, 3, 4, st, w, [(1, 0)], [(1, 2, 0), (2, 3, 1)], 4, false, [], 0, Replay.empty⟩

def inRound (ds : List TWord) (sh : Sheet) (r : Option Round) (pipes : BitVec 32) (stops : List Nat) : State :=
  withTile { (tile (engine ds)).setReg 0x30C pipes with sheets := [(0, sh)], round := r, stops := stops }

/-- A round of a sheet without accesses and with nothing in flight drains without an effect. -/
theorem quiet_drains {x : RX} {s : State} {r : Replay} (ha : x.v.accs = []) (hs : updP s x.p (fun t => t) = s) (n : Nat)
    (h : r.strips = [] ∧ r.fixes = [] ∧ r.coming = [] ∧ r.land = []) : roundRun x .tail n (s, r) = (s, r) := by
  obtain ⟨h1, h2, h3, h4⟩ := h
  refine Sys2Proof.Machine.forN_keeps (fun q : RS => q = (s, r)) _ ?_ n (s, r) rfl
  rintro i q rfl
  cases r
  simp_all [roundTclk, eachStrip, judgeAll, sortBy, grantsAt, deliver, applyFixes, forL]

theorem drained_of {s : State} {r : Round} (h1 : (getTile s 0).round = some r) (ha : (rxOf 0 r [] s).v.accs = [])
   (hs : updP s (rxOf 0 r [] s).p (fun t => t) = s) (h : r.replay.strips = [] ∧ r.replay.fixes = [] ∧ r.replay.coming = [] ∧ r.replay.land = []) :
   drainRound 0 s = putRound 0 { r with replay := { r.replay with strips := [], coming := [], land := [], ahead := [], fixes := [], since := r.window } } s := by
  unfold drainRound
  simp only [h1]
  rw [quiet_drains ha hs _ h]

/-- A round that is past its last window, with or without a failed strip. -/
def past (f : Option RFail) : Round := { round0 2 4 with replay := { Replay.empty with fail := f } }

/-- What the last strips of that round leave: no failure, or the one there was. -/
theorem witness_RoundEnds : ∀ f ∈ [none, some (⟨1, 1, 0, 0, 0⟩ : RFail)],
    windowsOf (rxOf 0 (past f) [] (inRound [] sheet0 (some (past f)) 0 [])) ≤ 4 ∧
    (getTile (drainRound 0 (inRound [] sheet0 (some (past f)) 0 [])) 0).round.all (fun z => decide (z.replay.fail = f)) = true := by
  intro f hf
  have h : (rxOf 0 (past f) [] (inRound [] sheet0 (some (past f)) 0 [])).v.accs = [] ∧ 
      updP (inRound [] sheet0 (some (past f)) 0 []) (rxOf 0 (past f) [] (inRound [] sheet0 (some (past f)) 0 [])).p (fun t => t) =
        inRound [] sheet0 (some (past f)) 0 [] ∧ windowsOf (rxOf 0 (past f) [] (inRound [] sheet0 (some (past f)) 0 [])) ≤ 4 ∧
      (getTile (inRound [] sheet0 (some (past f)) 0 []) 0).round = some (past f) ∧
      ((getTile (putRound 0 (past f) (inRound [] sheet0 (some (past f)) 0 [])) 0).round).map (·.replay.fail) = some f := by
    revert f; decide +kernel
  refine ⟨h.2.2.1, ?_⟩
  rw [drained_of (r := past f) h.2.2.2.1 h.1 h.2.1 ⟨rfl, rfl, rfl, rfl⟩]
  clear h
  revert f
  decide +kernel

/-- RCALL refused, accepted with a count and without one, and while a round runs or is parked; RWAIT with no round, with one that runs, with
a parked one; RLOAD of a sheet. -/
theorem witness_RoundWords :
    ([0x300, 0x400].all (fun h => [0, 5].all (fun n =>
      (longReady e0 (wspec 0x4C 0 4 2 2 0) (inRound [⟨BitVec.ofNat 64 h, 6⟩, num n] sheet0 none 0x3FF [])).any (fun s1 =>
        decide ((callStatus (getTile s1 0) (BitVec.ofNat 64 h) n).isSome = (h == 0x400) ∧ (getTile s1 0).round = none ∧ (getEng s1 e0).sb = [])))) &&
    [2, 4].all (fun st => (longReady e0 (wspec 0x4C 0 4 2 2 0) (inRound [⟨0x300, 6⟩, num 5] sheet0 (some (round0 st 0)) 0x3FF [])).any (fun s1 =>
      (getTile s1 0).round.any (fun q => q.st == st))) &&
    (waitReady e0 (wspec 0x4D 0 2 0 0 0) rwaitReady (inRound [] sheet0 none 0 [])).isSome &&
    (waitHolds e0 (wspec 0x4D 0 2 0 0 0) rwaitReady (inRound [] sheet0 (some (round0 2 0)) 0 [])).isSome &&
    (longReady e0 (wspec 0x4D 0 2 0 0 0) (inRound [] sheet0 (some (round0 4 0)) 0 [])).isSome &&
    okL (wspec 0x4B 0 1 1 1 1) [adr 1 0x40]) = true := by decide +kernel

/-- A window that is ready, one that the throttle defers, one whose pipes sleep, one whose tokens are missing, one whose strip has failed; a
held cause; a fetch that is done. -/
theorem witness_Rounds :
    (let s := inRound [] sheet0 (some (round0 1 0)) 0x3FF []
     let x := rxOf 0 (round0 1 0) [] s
     bit ((getTile s 0).reg 0x004) 0 = false ∧ (sheetCodes sheet0).all (fun c => pipeAwake (getTile s 0) c) = true ∧ 0 < windowsOf x ∧
       dueCauses (getTile s 0) = [] ∧ throttled 0 s = false ∧ (round0 1 0).iters ≤ (round0 1 0).nextFetch ∧
       tokensSet x (round0 1 0) 0 = true ∧ (roundRun x .all x.v.period (leadReads x (s, Replay.empty))).2.fail.isNone = true ∧
       (roundRun x .all x.v.period (s, { Replay.empty with fail := some ⟨1, 1, 0, 0, 0⟩ })).2.fail.isSome = true) ∧
    (let s := inRound [] sheet0 (some (round0 2 1)) 0x3FF []
     throttled 0 { s with sys := { s.sys with throttled := [0] } } = true ∧ (round0 2 1).spaced = false) ∧
    (let s := inRound [] sheet1 (some (round0 2 1)) 0x3FF []
     tokensSet (rxOf 0 (round0 2 1) [] s) (round0 2 1) 1 = false) ∧
    (let s := inRound [] sheet0 (some (round0 1 0)) 0 [1]
     dueCauses (getTile s 0) = [1] ∧ (getTile s 0).eng.resume = false ∧ sheetCodes sheet0 = []) ∧
    (let s := inRound [] { sheet0 with entries := sheet0.entries.set 1 (BitVec.ofNat 128 (70 * 2 ^ 64)) } (some (round0 1 0)) 0 []
     sheetCodes (sheetAt (getTile s 0) 0) = [0] ∧ pipeAwake (getTile s 0) 0 = false) ∧
    (round0 2 0).fetches.find? (fun f => f.1 == 1 && f.2.2 == 0) = some (1, 2, 0) := by decide +kernel

/-- Bits k + 6 to k, or k + 9 to k, of the first line are zero at both ends of k. -/
theorem witness_PrismSpread : (5 + 2 ^ 10) / 2 ^ 0 % 128 = 1029 % 128 ∧ 2 ^ 27 / 2 ^ 20 % 128 = 0 ∧ 2 ^ 30 / 2 ^ 20 % 1024 = 0 ∧ 0 / 2 ^ 0 % 1024 = 0 := by
  decide +kernel

/-- The device at READY. -/
def ready (s : State) : State := { s with sys := { s.sys with phase := .ready, ready := true } }

def line0 (v e : Nat) : HLine := ⟨BitVec.ofNat 512 v, 0x11111111, BitVec.ofNat 608 e, .raw⟩

/-- Pseudo-channel 5 with requests, or with a line that an atomic holds; a fill and a pool rewrite under way. -/
def channel (reqs : List HReq) (held : Option HeldLine) : State :=
  updChan { ready (running []) with
    jobs := [(0, ⟨.fill, 3, 1, 0, false, 0, 7, 4, []⟩), (1, ⟨.unwritten, 3, 1, 0, false, 0, 7, 4, []⟩)]
    hbm := [(lineKey 5 7, line0 77 0), (lineKey 5 8, line0 78 1)] } 5
    (fun c => { c with reqs := reqs, held := held, ptr := 130, writeBacks := [8], poison := [7] })

/-- A counter position and a fixed one; the requester at the end of the scan; a held line; a plan that waits and none. -/
theorem witness_PostCyclePositions :
    (let s := channel [⟨128, 7, .job 0⟩, ⟨3, 7, .job 1⟩] none
     let c := getChan s 5
     postCyclesRun s = true ∧ planTenant s.plan 0 0 = none ∧ c.held = none ∧ (c.ptr + 4) % 131 = 3 ∧
       (List.range 4).all (fun i => c.reqs.all (fun q => q.requester != (c.ptr + i) % 131)) = true ∧
       c.reqs.find? (fun q => q.requester == 3) = some ⟨3, 7, .job 1⟩ ∧ (jobOf s 1).isSome = true ∧ bit (hcReg s 0 0x028) 31 = false ∧
       s.nextPlan = none) ∧
    (let h : HeldLine := ⟨some 4, none, 8, line0 99 0, 2, ⟨0, 1⟩, false⟩
     (getChan (channel [] (some h)) 5).held = some h ∧ h.job = none ∧ h.written = false) := by decide +kernel

/-- A tile with a repair, write-backs, and a scrubber that runs. -/
def upkeep (st g : BitVec 32) (sp : Nat) : State :=
  withTile { (((tile (engine [])).setReg 0x004 st).setReg 0x0E0 g).setReg 0x0E8 0x80000000 with
    sparesUsed := [(0, sp)]
    writeBacks := [70, 71]
    store := ⟨true, [(70, ⟨7, 1, 1⟩), (71, ⟨8, 0, 3⟩)]⟩ }

/-- Used and unused scrub positions; a repair of HBM that is copying; a fill; a scrub; a write-back; a row repair with and without spares. -/
theorem witness_MemoryUpkeep :
    (let s := updChan (channel [] none) 0 (fun c => { c with copying := some 3 })
     fld (hcReg s 0 0x008) 28 24 = 4 ∧ 7 % 64 = 7 ∧ 7 / 64 < 4 ∧ (getChan s 5).writeBacks = [8] ∧ (getChan s 5).poison = [7] ∧
       (getChan s 0).copying = some 3 ∧ fld (hcReg s 0 0x010) 30 25 = 0 ∧ getLine s 0 48 = HLine.unwritten) ∧
    (let s := upkeep 1 0 0
     bit ((getTile s 0).reg 0x004) 0 = true ∧ 0 < nTiles s) ∧
    (let t := getTile (upkeep 0 0x80000000 31) 0
     bit (t.reg 0x0E8) 31 = true ∧ t.owner.isSome = true ∧ bit (t.reg 0x004) 0 = false ∧ bit (t.reg 0x0E0) 31 = true ∧
       tget (fun _ => 0) t.sparesUsed 0 = 31 ∧ t.writeBacks.find? (fun v => v / 32768 == 0) = some 70 ∧
       (List.range 32).all (fun i => decide ((t.store.cell (32 * 0 + i)).err = 0)) = true) ∧
    (let t := getTile (upkeep 0 0x80000000 32) 0
     tget (fun _ => 0) t.sparesUsed 0 = 32) := by decide +kernel

/-! The conditions of Safety.lean, computed. -/

def mxOpenB (m : Master) (k : Block) (s : State) : Bool :=
  decide (isPm m = true ∧ (s.sys.phase = .booting ∨ s.sys.phase = .ready) ∧ s.cm.hung = [] ∧ gatedOff s k = false ∧
    ((getLock s (targetOf k)).owner = none ∨ (getLock s (targetOf k)).owner = some m) ∧ (getLock s (targetOf k)).former ≠ some m)

theorem mxOpen_of {m : Master} {k : Block} {s : State} (h : mxOpenB m k s = true) : mxOpen m k s := by
  unfold mxOpenB at h
  have g := of_decide_eq_true h
  exact g

def fnOpenB (f : Fn) (s : State) : Bool :=
  decide (masterExists s (.pcie f) = true ∧ s.sys.phase = .ready ∧ s.sys.ready = true ∧ s.sys.fenced = false ∧ s.cm.hung = [] ∧
    (getLock s (targetOf (.bar0 f))).owner = none ∧ (getLock s (targetOf (.bar0 f))).former ≠ some (.pcie f))

theorem fnOpen_of {f : Fn} {s : State} (h : fnOpenB f s = true) : fnOpen f s := by
  unfold fnOpenB at h
  have g := of_decide_eq_true h
  exact g

def arrivesB (port : Nat) (l : Letter) (op : Nat) (s : State) : Bool :=
  decide (port < 32 ∧ (getPort s port).rxq.contains l = true ∧ l.op.toNat = op ∧ malformed l = false ∧ barred s port l = false ∧
    forUs s l = true ∧ inDoze s = false)

theorem arrives_of {port : Nat} {l : Letter} {op : Nat} {s : State} (h : arrivesB port l op s = true) : arrives port l op s := by
  unfold arrivesB at h
  have g := of_decide_eq_true h
  exact g

def servingB (p : Place) (op : Nat) (s : State) (e : Env) : Bool :=
  decide (pmServes s = true ∧ runningAll s p op = [e])

theorem serving_of {p : Place} {op : Nat} {s : State} {e : Env} (h : servingB p op s e = true) : serving p op s e := by
  unfold servingB at h
  have g := of_decide_eq_true h
  exact g

/-- Either postmaster reaches a tile's block; the clauses on START, GO and FREE by the state of the engine, the round and the registers. -/
theorem witness_TileAndEngineRegisters :
    ([Master.pmA, .pmB].all (fun m => mxOpenB m (.tile 127) (ready (running []))) &&
    decide (127 < nTiles (ready (running []))) &&
    decide ((tile (engine [])).eng.runstate = 1 ∧ (tile (engine [])).eng.dfault = false ∧ (tile { engine [] with runstate := 2 }).round = none ∧
      (tile (engine [])).units = []) &&
    [0x0A, 0x00, 0x02].all (fun d => decide (fld d 1 0 ≠ 3 ∧ fld d 3 2 ≤ fld d 1 0 ∧ fld d 31 4 = 0)) &&
    [0x0C, 0x03, 0x04].all (fun d => decide (fld d 3 2 = 3 ∨ fld d 1 0 = 3 ∨ fld d 1 0 < fld d 3 2))) = true := by decide +kernel

/-- The blocks of the statement are open; the last unit and the first that is none; the last spare; a TARGET at the fused SVN, above it and
above 64; a general write of a steward's register. -/
theorem witness_SystemRegisters :
    (let s := ready (running [])
     [Block.hc 15, .fuse, .flash, .cm, .st 7].all (fun k => mxOpenB .pmA k s) &&
    decide (hcUnits s = 983040 ∧ 983039 < hcUnits s ∧ bit (hcReg s 15 0x010) 31 = false ∧ s.fuses.svn.toNat < 64 ∧ s.sys.fenced = false ∧
      bit (flReg s 4) 31 = false ∧ 4 < 4096 ∧ stSpec 4 ≠ [] ∧ stSpec 0 ≠ [])) = true := by decide +kernel

/-- A LO half that hardware updates, its captured HI half, and a plain register; a master that waits, at its limit of 1,024 MCLK and just
before it; a PCIe read that waits; a lock of an age of 256 MCLK, and one younger. -/
theorem witness_MatrixEvents :
    (let s := updEng { ready (running []) with sclk := 103 } .pmA (fun y => { y with mxWait := some (0x1000, true), waiting := true })
     let k := Block.tile 0
     let h : HeldReq := ⟨.pcie .pf, 0x1000, none, 0, 1030, .access, none⟩
     let q : HeldReq := ⟨.pmA, 0x1000, some 1, 0, 1024, .access, some .pmA⟩
     decide (q.m = masterOf .pmA ∧ q.limit ≤ 10 * (s.sclk - q.since) ∧ 10 * (102 - q.since) < q.limit ∧ h.limit ≤ 10 * (s.sclk - h.since)) &&
     [(0, 256), (100, 30)].all (fun p => lockAge s { getLock s 9 with owner := some .pmA, since := p.1 } == p.2) &&
     decide (decodeAddr s 0x100610 = some (k, 0x610) ∧ (getEng s .pmA).mxWait = some (0x1000, true) ∧ s.cm.captured = [] ∧ engExists s .pmA = true) &&
      mxOpenB .pmB k s && (decodeAddr s 0x200000).isSome &&
      decide ((getLock (setLock 9 { getLock s 9 with owner := some .pmA } s) 9).owner = some .pmA ∧ (getLock s 9).owner = none)) = true := by decide +kernel

/-- Port 3 in a state, with lanes, failures and letters. -/
def link (st fails : Nat) (lanes : BitVec 8) (ctrl : BitVec 32) : State :=
  updPort { ready (running []) with sclk := 1000 } 3 (fun q => { q with
    status := BitVec.ofNat 32 st, fails := fails, usable := lanes, ctrl := ctrl, rxFseq := 0xFFFF, credits := fullCredits })

/-- A frame with 6 failing symbols and one with 7; a lane with 64 corrected symbols and one with 65; the 16th failure and the 15th; six lanes
left and five; a retraining; a port that trains, keys, is UP; a key that is due by its batches, by its time, and one that is not. -/
theorem witness_LinkPorts :
    ([0, 1, 2, 3, 5].all (fun st => decide (portState (link st 15 255 0) 3 = st)) &&
    decide ((getPort (link 3 16 255 0) 3).fails = 16 ∧ (getPort (link 3 15 255 0) 3).fails = 15 ∧ (getPort (link 3 0 255 0) 3).rxFseq = 0xFFFF) &&
    decide (6 ≤ lanesOff ((0x7F#8) &&& ~~~ (1#8 <<< 6)).toNat ∧ lanesOff ((0x3F#8) &&& ~~~ (1#8 <<< 0)).toNat < 6) &&
    decide (bit (getPort (link 3 0 255 0x80000000) 3).ctrl 31 = true ∧ bit (getPort (link 0 0 255 0) 3).ctrl 30 = false ∧
      (getPort (link 0 0 255 0) 3).retryAt ≤ 1000) &&
    (let fr (l : List Nat) : Frame := { (default : Frame) with failing := l }
     decide (frameBad (fr [0, 1, 2, 3, 4, 5]) = false ∧ frameCorrected (fr [0, 1, 2, 3, 4, 5]) = true ∧ frameBad (fr [0, 1, 2, 3, 4, 5, 6]) = true) &&
     ([(63, true), (64, false)] : List (Nat × Bool)).all (fun p => let q : Port := { Port.reset with laneErrs := List.replicate p.1 (0, 4), status := 3, usable := 255 }
       decide (framesNow (link 3 0 255 0) q / 512 = 2187 ∧
         ((q.laneErrs ++ [(2187, 4)]).filter (fun x : Nat × Nat => decide (2187 < x.1 + 65536) && x.2 == 4)).length ≤ 64) == p.2)) &&
    ([(0, 1000, false), (2 ^ 31 * 512, 1000, true), (0, 360000001000, true)] : List (Nat × Nat × Bool)).all (fun p =>
      let s := { updPort (link 3 0 255 0) 3 (fun q => { q with frames := p.1, framesAt := p.2.1 }) with sclk := p.2.1 }
      rekeyDue s (getPort s 3) == p.2.2) && mxOpenB .pmA .fabric (link 3 0 255 0)) = true := by decide +kernel

def shared : Desc := { Desc.empty with valid := true, space := 1, r := true, w := true, shareRemote := true, limit := 0xFFFF }

/-- A named device with a book, a tenant with a segment, and a letter that has arrived on port 3. -/
def office (l : Letter) (st : TState) (bound : Bool) : State :=
  let s := setFx 0 0x8000004D (ready (running []))
  let s := setTen s 0 { getTen s 0 with
    st := st, boundKey := if bound then some 0 else none, segs := [(2, shared)], contract := { (getTen s 0).contract with fabricWeight := 1 } }
  let s := updPort s 3 (fun q => { q with status := 3, peer := 0x80000120, credits := fullCredits, rxq := [l] })
  { s with book := some ⟨(List.range 64).map (fun i => if i = 60 then BitVec.ofNat 64 (2 ^ 63 + 2 ^ 56 + 3) else 0), 5, 1, none⟩ }

/-- A letter for device 77, from device 9. -/
def letter (op off args : Nat) (body : List (BitVec 512)) : Letter :=
  { (default : Letter) with
    op := BitVec.ofNat 8 op, vc := BitVec.ofNat 2 ((opVc op).getD 0), hops := 1, hop := 1, ports := 3, dest := 77, src := 9,
    addr := BitVec.ofNat 64 (2 * 2 ^ 52 + off), args := BitVec.ofNat 192 args, body := body, xtag := 8 }

/-- A READ of the last line, which is served, refused for its key and for its tenant; one that runs past the end; an ATOMIC; an ENVELOPE; a
malformed letter. -/
theorem witness_RequestLetters :
    (let rd (off : Nat) := letter 1 off (1 + off * 2 ^ 64 + (off + 63) * 2 ^ 128) []
     [(rd 0xFFC0, true), (rd 0x10000, true), (rd 0xFFC0, false)].all (fun x =>
       arrivesB 3 x.1 1 (office x.1 .resident x.2) && segmentOk shared x.1 == (x.1 == rd 0xFFC0)) &&
     arrivesB 3 (rd 0) 1 (office (rd 0) .resetting true) && arrivesB 3 (letter 5 8 1 []) 5 (office (letter 5 8 1 []) .resident true) &&
     arrivesB 3 (letter 7 0 0 [1]) 7 (office (letter 7 0 0 [1]) .resident true) &&
     (let l := { letter 1 0 0 [] with vc := 3 }; malformed l && decide ((getPort (office l .resident true) 3).rxq.contains l = true)) &&
     mxOpenB .pmA (.tile 0) (office (rd 0) .resident true) && decide (candidates (office (rd 0) .resident true) 9 ≠ [] ∧
       candidates (office (rd 0) .resident true) 8 = [])) = true := by decide +kernel

/-- Replies for a unit's read, its write, an atomic and an envelope: the request that each ends. -/
theorem witness_RequestReplies : [(2, ReqKind.unitRead 0 5, [1, 2]), (4, .unitWrite 0 5, []), (6, .atomic 0, []), (8, .envelope (.pfBag 3), [])].all (fun x =>
    let l := { letter x.1 0 0 x.2.2 with addr := 0 }
    let q : RemoteReq := ⟨8, x.2.1, 0, 4, 2, 20⟩
    let s := { office l .resident true with reqs := [q], sclk := 23 }
    arrivesB 3 l x.1 s && decide (s.reqs.find? (fun q => q.xtag == l.xtag) = some q ∧ argField l 0 1 = 0)) = true := by decide +kernel

/-- The KEYTAG of a bound key of zeros, so that a letter that carries it passes: SHA-384 of the key, its first 16 bytes. -/
theorem witness_keyTag (l : Letter) : keyTag (office l .resident true) 0 = (sha384 (digestWords 0)).setWidth 128 ∧
    (getTen (office l .resident true) 0).boundKey.isNone = false := ⟨rfl, rfl⟩

/-- HELLO with each sub-code, TIME from the parent, WAKE, BOOK, BOOK_ACK, and a letter for another device. -/
theorem witness_LinkLettersAndBooks :
    ([1, 2, 3, 4, 5].all (fun sub => arrivesB 3 (letter 0x10 0 sub [7]) 0x10 (office (letter 0x10 0 sub [7]) .resident true)) &&
    arrivesB 3 (letter 0x11 0 (1 + 1000 * 2 ^ 64) []) 0x11 (office (letter 0x11 0 (1 + 1000 * 2 ^ 64) []) .resident true) &&
    arrivesB 3 (letter 0x18 0 0 []) 0x18 (office (letter 0x18 0 0 []) .resident true) &&
    (let l := letter 0x12 0 (64 * 2 ^ 32) [7]
     arrivesB 3 l 0x12 { office l .resident true with book := none, bookRx := some (64, []) }) &&
    arrivesB 3 (letter 0x13 0 0x410 []) 0x13 (office (letter 0x13 0 0x410 []) .resident true) &&
    (let l := { letter 1 0 (1 + 64 * 2 ^ 128) [] with dest := 5, hop := 0 }
     let s := office l .resident true
     decide (malformed l = false ∧ forUs s l = false ∧ named s = true ∧ portCarries s 3 l.vc.toNat = true ∧ l.hop ≠ l.hops)) &&
    mxOpenB .pmA .fabric (office (letter 0x18 0 0 []) .resident true)) = true := by decide +kernel

/-- A chute of a tenant, with a configuration, pending or not. -/
def chuted (own cfg : BitVec 32) (p : Bool) : State :=
  let s := ready (running [num 3])
  let s := setTen s 5 { getTen s 5 with st := .resident }
  [192, 130].foldl (fun s c => setChute s c { getChute s c with cfg := cfg, owner := own, pending := p }) s

/-- The blocks are open; the first chute of software, the last of hardware; an owner that is no tenant, and one that is. -/
theorem witness_ChuteRegisters :
    (let s := chuted 0x80000005 0x80000000 false
     mxOpenB .pmA .ch s && mxOpenB .pmA (.ic true) s && fnOpenB .pf s &&
     decide (takesEvent s 192 = none ∧ fld (getChute s 192).owner 31 30 = 2 ∧ (getTen s 5).st ≠ .disabled ∧ (getTen s 6).st = .disabled ∧
       fld (getChute s 192).cfg 29 28 = 0 ∧ fld (getChute s 192).cfg 9 4 = 0 ∧ 3 < vecsOf .pf)) = true := by
  unfold takesEvent; decide +kernel

/-- A tile that runs with a chute of its own, which is pending at priority 9. -/
def presented (svc : List (Option Nat)) (ent : Option Nat) : State :=
  let s := updEng (ready (running [num 3])) e0 (fun x => { x with svc := svc, entering := ent })
  setChute s 0 { getChute s 0 with cfg := 0x09200000, pending := true }

/-- A grant at a boundary, one that replaces an entry, one at FRET; a vector that is due, one that is masked and one that is not; one that
gives way to a vector of a higher priority; an input whose LENGTH of 16 samples is over, and one whose it is not. -/
theorem witness_InterruptDelivery :
    ((let s := withTile (tile { engine [num 5, num 3] with hlevel := 1, svc := [some 3], pc := 0x800, npc := 0x804 })
      let s := setChute s 0 { getChute s 0 with cfg := 0x09200000, pending := true }
      let x := getEng s e0
      decide (atBoundary x = true ∧ x.mid = false ∧ x.waiting = false ∧ x.annulled = false ∧ x.isSealed = false ∧ x.dfault = false ∧
        presentedTo s e0 (serviceOf { x with svc := [] }) = some 0) &&
      (longReady e0 fretSpec s).any (fun s1 => decide ((getEng s1 e0).ds = [num 5, num 3]) && reachesB s1 e0 (fun d => d.x) 0 0x100 4 codeDesc &&
        decide (soundWord s1 e0 (0x100 / 8) = some (num 0)) && (getEng s1 e0).lines.all (fun l => l.row != 1))) &&
    (let v (p : Nat) : Vec := { Vec.reset with events := 1, mask := false, coal := 0x10001, prio := p }
     let s := setVec (setVec (ready State.reset) .pf 7 (v 3)) .pf 3 (v 9)
     givesWay s .pf 7 && !givesWay s .pf 3 && decide (vecDue s .pf (v 3) = true)) &&
    ([(16, true), (15, false)] : List (Nat × Bool)).all (fun p => let x := getFilter (setFilter 2 { Filter.reset with length := 16, since := 0 } State.reset) 2
      decide (x.since + x.length.toNat ≤ p.1) == p.2) &&
    (let s := presented [] none
     decide (canAccept s e0 = true ∧ presentedTo s e0 (serviceOf (getEng s e0)) = some 0 ∧ (getEng s e0).sb = [] ∧ s.cm.locks = []) &&
     reachesB s e0 (fun d => d.x) 0 0x100 4 codeDesc && decide (soundWord s e0 (0x100 / 8) = some (num 0))) &&
    (let s := presented [some 3] (some 130)
     decide ((getEng s e0).entering = some 130 ∧ presentedTo s e0 (serviceOf (getEng s e0)) = some 0)) &&
    (let s := presented [some 3] none
     decide (atBoundary (getEng s e0) = true ∧ presentedTo s e0 (serviceOf { getEng s e0 with svc := [] }) = some 0)) &&
    (let s := ready State.reset
     let v : Vec := { getVec s .pf 2047 with events := 1, mask := false }
     vecExists .pf 2047 && decide (fnMasked s .pf = false ∧ 1 ≤ v.events ∧ v.last = none ∧ fld v.coal 23 16 = 1 ∧ bit s.ic0 31 = false) &&
     (getVec s .pf 2047).mask)) = true := by decide +kernel

/-! ### Envelopes, tenants and the device as a whole -/

/-- The device at READY with mailbags 3 of the PF and of tenant 5 enabled, its tray counts given, and envelopes in hand. -/
def desk (l : List Env) (tail head : Nat) : State :=
  let s := ready (running [])
  let s := setTen s 5 { getTen s 5 with st := .resident, contract := { (getTen s 5).contract with tiles := 4, quota := 10 } }
  [Fn.pf, .vf 5].foldl (fun s f => setBag s f 3 { getBag s f 3 with cfg := 0x80000404, tail := tail, head := head, posted := [1] })
    { s with envs := l, sys := { s.sys with ks := [(0, 5)] } }

/-- An envelope in execution: opcode, arguments and payload words. -/
def env (p : Place) (op : Nat) (ph a0 a1 : Nat) (pay : List Nat) : Env :=
  let k := (pay.length + 7) / 8
  { newEnv 7 p .executing [] (1 + k) (5, 2) 0 (.draw 3) 0 with
    phase := ph
    words := [BitVec.ofNat 64 (op + (match p with | .pfBag _ => 5 * 2 ^ 16 | _ => 0) + 64 * k * 2 ^ 32), 4, 0, 0,
      BitVec.ofNat 64 a0, BitVec.ofNat 64 a1, 0, 0] ++ (List.range (8 * k)).map (fun i => BitVec.ofNat 64 (nthD 0 pay i)) }

/-- Every opcode that a statement speaks of is served at the place it may come from. -/
theorem witness_serving :
    ([0x01, 0x02, 0x03, 0x08, 0x09, 0x0A, 0x10, 0x11, 0x18, 0x19, 0x20, 0x21, 0x22, 0x23, 0x24, 0x25, 0x26, 0x30].all (fun op =>
      let e := env (.tenantBag 5 3) op 0 0 0 []
      servingB (.tenantBag 5 3) op (desk [e] 1 0) e) &&
    [0x40, 0x41, 0x42, 0x43, 0x44, 0x48, 0x49, 0x4A, 0x4B, 0x4C, 0x50].all (fun op => [0, 1].all (fun ph =>
      let e := env (.pfBag 3) op ph 0 0 []
      servingB (.pfBag 3) op (desk [e] 1 0) e))) = true := by decide +kernel

/-- A mailbag that is not enabled, a size of 0, of 65, more than the ring, more than the room, and one that just fits; configurations that
are good and bad; a tray count at TRAY_TAIL. -/
theorem witness_Mailbags :
    (let s := desk [] 16 0
     fnOpenB .pf s && decide (bit (getBag s .pf 3).cfg 31 = true ∧ bit (getBag s .pf 4).cfg 31 = false ∧ 3 < bagsOf .pf) &&
     decide (2 ^ fld (getBag s .pf 3).cfg 4 0 = 16 ∧ ¬ 2 ^ fld (getBag s .pf 3).cfg 12 8 ≤ ((getBag s .pf 3).trayTail + 131072 - (getBag s .pf 3).trayHead) % 131072) &&
     decide ((getBag (desk [] 15 0) .pf 3).tail = 15) && [0x0404, 0x80001010, 0x1004].all (fun d => decide (4 ≤ fld d 4 0 ∧ fld d 4 0 ≤ 16 ∧
       4 ≤ fld d 12 8 ∧ fld d 12 8 ≤ 16 ∧ fld d 7 5 = 0 ∧ fld d 15 13 = 0 ∧ fld d 29 20 = 0)) &&
     decide (unsolOf s .pf = ([], 0) ∧ s.envs = [] ∧ bit (getBag s .pf 3).cfg 30 = false ∧ (getBag s .pf 3).ring.toNat % 64 = 0 ∧
       (getBag s .pf 3).tray.toNat % 32 = 0)) = true := by decide +kernel

/-- A PF mailbag to fetch, a tenant's alone, and none; a fetch under way; envelopes held for their order and for their time. -/
theorem witness_EnvelopeService :
    ((let s := desk [] 1 0
     decide (pmServes s = true ∧ executing s = 0 ∧ firstAfter 16 s.pfPtr (bagEligible s .pf) = some 3 ∧ bagSpace (getBag s .pf 3) = false)) &&
    (let s := setBag (desk [] 1 0) .pf 3 Mailbag.reset
     decide (firstAfter 16 s.pfPtr (bagEligible s .pf) = none ∧ nextTenant s = some 5 ∧ tenantSource s 5 = some 3)) &&
    (let s := desk [] 0 0
     decide (firstAfter 16 s.pfPtr (bagEligible s .pf) = none ∧ nextTenant s = none)) &&
    [EnvSt.fetching, .heldSeq, .heldTime].all (fun st =>
      let e := { env (.pfBag 3) 0x40 0 0 0 [] with st := st }
      decide (envAt (desk [e] 1 0) (.pfBag 3) st = some e ∧ placeBag (.pfBag 3) = some (.pf, 3) ∧ (desk [e] 1 0).envs.count e = 1)) &&
    (let s := { desk [] 1 0 with esendReceipts := [(5, 0, 0x3FEFE0, [1, 2, 3, 4])] }
     decide (s.sys.journal ≤ s.sys.journalCommitted ∧ 0x3FEFE0 % 32 = 0 ∧ tileOf s 5 0 = none ∧
       tileOf (updTile s 0 (fun t => { t with owner := some (5, 0) })) 5 0 = some 0))) = true := by decide +kernel

/-- A buffer held, stale and another's; DMA to it and out of it at its end; the last segment number and one past it; a segment to free. -/
theorem witness_DataEnvelopes :
    ((let s := setBuf (desk [] 1 0) 5 ⟨some 5, 2, []⟩
     decide ((getBuf s 5).owner = some 5 ∧ (getBuf s 5).gen.toNat = 0x805 / 1024 ∧ 0x805 % 1024 = 5 ∧ (getBuf s 6).owner = none) &&
     [0x10, 0x11].all (fun op =>
       let e := env (.tenantBag 5 3) op 0 0x4000 (0xFFF80) [128, 0x805 * 2 ^ 32 + 1]
       let e2 := env (.tenantBag 5 3) op 0 0x4000 (0xFFFC0) [128, 0x805 * 2 ^ 32 + 1]
       (match dmaTarget s e (op == 0x10) with | .inr _ => true | .inl _ => false) && (match dmaTarget s e2 (op == 0x10) with | .inr _ => false | .inl _ => true))) &&
    (let e := env (.tenantBag 5 3) 0x18 0 4095 0 [0x40, 0xFFF, 7]
     decide ((tenDesc (desk [e] 1 0) 5 4095).valid = false ∧ argB e 0 2 = 4095) && (allocDesc e).isSome && (allocDesc (env (.tenantBag 5 3) 0x18 0 4095 0 [0x41, 0xFFF, 7])).isNone) &&
    (let s := setTen (desk [] 1 0) 5 { getTen (desk [] 1 0) 5 with segs := [(4095, shared)] }
     decide ((tenDesc s 5 4095).valid = true ∧ segBusy s 5 4095 = false ∧ (tilesOf s 5).all (fun t => (getTile s t).eng.dcache.all (fun c => c.1.toNat != 4095)) = true)) &&
    (let s := office (letter 1 0 0 []) .resident true
     decide (candidates s 9 ≠ [] ∧ candidates s 8 = []))) = true := by decide +kernel

/-- A line of buffer 5 that nothing has written, one that is sound, and one of POISON: words that are read and words that fail. -/
theorem witness_AreaReads :
    (let s := setBuf (desk [] 1 0) 5 ⟨some 5, 2, []⟩
     let pr := bufLine s 5 0
     let good := putLine pr.1 pr.2 ⟨0, 0, 0, sysKey s⟩ s
     let bad := putLine pr.1 pr.2 ⟨0, BitVec.ofNat 32 0xFFFFFFFF, 0, sysKey s⟩ (setBuf s 5 (getBuf s 5))
     lineListed s pr = false ∧ (bufGood 5 0 1 s).1 = 1 ∧ (getLine good pr.1 pr.2).err = 0 ∧
       (List.range 8).all (fun k => (lineWord 0 (getLine good pr.1 pr.2).tags k).tag != 0xF) = true ∧ (bufGood 5 0 1 good).1 = 1 ∧
       lineListed bad pr = true ∧ (bufGood 5 0 1 bad).1 = 0 ∧ s.chans.all (fun kv => kv.2.held.isNone) = true) := by decide +kernel

/-- Tile 0 is tile index 1 of tenant 5, halted or running. -/
def given (e : Env) (rs : BitVec 2) : State :=
  updTile (desk [e] 1 0) 0 (fun t => { t with owner := some (5, 1), eng := { t.eng with runstate := rs } })

/-- The set of one tile; a write of the last words of its store, and one past them; a read into a buffer; a launch with and without a round;
a parked tile. -/
theorem witness_TileEnvelopes :
    ((let e := env (.tenantBag 5 3) 0x20 0 2 0 ([0x3FEFF8 + 2 ^ 32, 0, 0, 0, 0, 0, 0, 0] ++ [9, 0, 0, 0, 0, 0, 0, 0])
     let s := given e 2
     decide (tileSet e = [1] ∧ tileOf s 5 1 = some 0 ∧ 1 < (getTen s 5).contract.tiles ∧ e.lost = [] ∧ e.prog = [] ∧ 0 < nTiles s) &&
     tileWriteOk e && wordsInside s 0 0x3FEFF8 1 && !wordsInside s 0 0x3FF000 1 && servingB (.tenantBag 5 3) 0x20 s e) &&
    (let e := env (.tenantBag 5 3) 0x23 0 2 0 [0]
     decide (callStatus (getTile (given e 2) 0) 0 0 ≠ none ∧ payB e 0 1 < 8 ∧ payB e 1 3 = 0 ∧ payZeroFrom e 1 = true) &&
     decide (callStatus (getTile (updTile (given e 2) 0 (fun t => { t with sheets := [(0, sheet0)] })) 0) 0x300 5 = none)) &&
    (let e := { env (.tenantBag 5 3) 0x26 0 2 0 [] with prog := [⟨1, 1, none⟩] }
     tileParked (given e 1) 0 && decide (substituting (given e 1) 0 = false)) &&
    (let e := env (.tenantBag 5 3) 0x21 0 2 0 []
     [0, 1].all (fun b => filling (updTile (given e 2) 0 (fun t => t.setReg 0x004 b)) 0 == (b == 1)) &&
     decide (argB e 0 1 = 2 ∧ soundWord (given e 2) (.tile 0) 0 ≠ none)) &&
    tvCountOk (env (.tenantBag 5 3) 0x24 0 2 0 [3 * 2 ^ 24 + 2 ^ 16 + 5 * 2 ^ 12, 3 * 2 ^ 52, 1, 2 * 2 ^ 17 + 100, 3 * 2 ^ 52, 1, 2 * 2 ^ 17 + 100, 3 * 2 ^ 52, 1, 2 * 2 ^ 17 + 100])) = true := by
  decide +kernel

/-- Each state of a tenant; no tile in a round; a key store that can draw; quiet slots. -/
theorem witness_TenantLife :
    ([TState.disabled, .resident, .computing, .resetting].all (fun st =>
      let s := setTen (desk [] 1 0) 1023 { getTen (desk [] 1 0) 1023 with st := st }
      decide ((getTen s 1023).st = st ∧ (contracted s).filter (fun m => decide (1023 ≤ m)) = (if st = .disabled then [] else [1023]) ∧
        s.sys.phase = .ready ∧ s.sys.doze = .run ∧ s.envs = [] ∧ s.rotation = none) &&
      (List.range (nTiles s)).all (fun t => (getTile s t).round.isNone) && drbgOk s && slotsQuiet s 1023)) = true := by decide +kernel

/-- A contract that passes, with its shares of the plan, tiles and quota held, and one that does not; a rotation that is over. -/
theorem witness_ContractsAndPlans :
    ((let e := env (.pfBag 3) 0x40 0 0 0 [1 + 2 * 2 ^ 16 + 2 ^ 24 + 2 ^ 40 + 2 ^ 48, 0xFF * 2 ^ 16 + 1040 * 2 ^ 32]
     let s := desk [e] 1 0
     contractOk s e && decide (s.nextPlan = none ∧ envTenant e = 5) && diesHold s 5 (contractIn e) && tilesHold s 5 (contractIn e) &&
     quotaHolds s 5 (contractIn e) && (List.range 8).all (fun d => decide (nthD 0 (contractIn e).slots d ≤ planShare s.plan d 5))) &&
    (let e := env (.pfBag 3) 0x40 0 0 0 [2]
     !contractOk (desk [e] 1 0) e) &&
    (let e := env (.pfBag 3) 0x44 1 3 0 []
     let s := { desk [e] 1 0 with rotation := some ⟨5, 2, .draw 3, [4], .pfBag 3⟩ }
     decide (pmServes s = true ∧ s.sys.activities = [] ∧ hardwareActs s = [] ∧ argB e 0 1 = 3 ∧ (jobOf s 4).isNone = true)) &&
    (let e := env (.pfBag 3) 0x42 0 0x2008 0 []
     let s := setBuf (desk [e] 1 0) 8 ⟨some 1024, 8, []⟩
     decide (bufStatus s e 0x2008 = 0 ∧ bufStatus (desk [e] 1 0) e 0x2008 = 0x0202) && !planFormatOk ((List.range 1864).map (bufWord s 8)))) =
    true := by
  decide +kernel

/-- A tile that leaves, halted and running; one that is free with a tile index to receive; a substitution with a free spare; a window. -/
theorem witness_TilesInMotion :
    (let s := ready (running [])
     let s := updTen s 5 (fun t => { t with st := .computing, tiles := [0, 1], contract := { t.contract with tiles := 2, tileWeight := 1 } })
     let leave := updTile s 1 (fun t => { t with owner := some (5, 9), stops := [0] })
     pmManages s && leaving leave 1 && readyToHalt leave 1 && decide ((getTile leave 1).eng.runstate ≠ 1 ∧ (getTile s 1).owner = none ∧
       (getTile s 1).poweredDown = false) && (granteeOf s 1).isSome &&
     (let area := updTen leave 5 (fun t => { t with ctxAreas := [(1, (0, 100))] })
      (tenantArea area 5 1).isSome && inCtx 0xFFFF 65471 && !inCtx 0xFFFF 65472 && !inCtx 0xFFFE 4095 && decide (1 < (getTen area 5).contract.tiles) &&
      (List.range 8).all (fun k => decide (soundWord (updTile area 1 (fun t => { t with store := ⟨true, []⟩ })) (.tile 1) k ≠ none))) && spareFree s 0 && decide (inReset s 0 = false) &&
     !spareFree { s with sys := { s.sys with softTiles := [16] } } 0) = true := by decide +kernel

/-- Each MAINT code at the bounds of its arguments; a book that fits in its buffer; a dump that ends at the last byte. -/
theorem witness_Maintenance :
    ([0, 1, 2, 3, 4, 5, 6, 7, 8, 9, 10].all (fun c => let e := env (.pfBag 3) 0x4B 0 (c + 127 * 2 ^ 16 + 15 * 2 ^ 24 + 1023 * 2 ^ 32) 0 []
      decide (argB e 0 2 = c ∧ argB e 2 1 = 127 ∧ argB e 3 1 = 15 ∧ argB e 4 2 = 1023 ∧ 127 < nTiles (desk [e] 1 0) ∧
        (desk [e] 1 0).sys.activities = [] ∧ hardwareActs (desk [e] 1 0) = [])) &&
    (let e := env (.pfBag 3) 0x43 0 (0x2008 + 2 ^ 20 * 2 ^ 32) 0 []
     decide (argB e 4 4 ≤ 2 ^ 20 ∧ bufStatus (setBuf (desk [e] 1 0) 8 ⟨some 1024, 8, []⟩) e 0x2008 = 0)) &&
    (let e := env (.pfBag 3) 0x4C 0 0x4000 (0x043FFFF8 + 8 * 2 ^ 32) []
     decide (argB e 8 4 + argB e 12 4 = 0x04400000)) &&
    (let s := { desk [] 1 0 with sys := { (desk [] 1 0).sys with dumpHbm := [(0, 5), (20, 1)] } }
     (dumpWord s 0).isSome && decide ((dumpWord s 2).isNone = true ∧ (areaGood dumpLine 0 1 s).1 = 1 ∧ s.sys.dumpHbm.any (fun kv => kv.1 == 20) = true ∧
       bit (hcReg s ((dumpLine s 2).1 / 64) 0x028) 31 = false))) = true := by decide +kernel

/-- A primary with a standby, with none; a hand-over at each step; a flash operation and a fuse commit that run; a dump under way in HBM and
in flash, and none. -/
theorem witness_FirmwareAndPair :
    ((let s := desk [] 1 0
     [true, false].all (fun full => let d : Dumping := ⟨false, full, 2, 3, 4⟩
       let v : State := { s with sys := { s.sys with dumping := some d, dumpHbm := [(20, 0)], dumpFlash := [(20, 0)] } }
       decide (v.sys.dumping = some d ∧ v.pending = [] ∧ primary v = some d.writer ∧ stateOf v true = 1 ∧
         stateOf { v with sys := { v.sys with stateB := 0 } } true = 0)) && decide (s.sys.dumping = none) &&
     decide (bit (stReg s 7 0) 2 = false ∧ chuteKind (getChute s 151) ≠ 3 ∧ s.sys.mxAbandoned < 2 ∧
       2 ≤ ({ s with sys := { s.sys with mxAbandoned := 2 } } : State).sys.mxAbandoned ∧ bit (stReg (setFatal 7 s) 7 0) 2 = true ∧
       (getChute (setFatal 7 s) 151).pending = true) &&
     decide (primary s = some false ∧ stateOf s true = 1 ∧ stateOf { s with sys := { s.sys with stateB := 0 } } true = 0 ∧ s.sys.phase = .ready ∧
       s.sys.fenced = false ∧ powered s = true ∧ (getPm s true).failures < 2 ∧ bit (fcReg s 0x008) 31 = false ∧ bit (flReg s 4) 31 = false ∧
       bit (fcReg (setFc 8 0x80000004 s) 0x008) 31 = true ∧ bit (flReg (setFl 4 0x80000001 s) 4) 31 = true)) &&
    [2, 4, 6, 7].all (fun k => let e := env (.pfBag 3) 0x4A 1 0 0 []
      let s : State := { desk [e] 1 0 with sys := { (desk [e] 1 0).sys with handover := some k } }
      decide (s.envs.find? (fun e => e.place == .pfBag 3 && e.st == .executing && hOpcode e == 0x4A) = some e ∧ primary s = some false ∧ e.phase = 1))) =
    true := by decide +kernel

/-- Every state of DOZE, with a wake latched and without; tiles parked and halted; the wake timer that has run out; temperatures at the
trip, throttle and alarm levels. -/
theorem witness_SleepAndTemperature :
    ([Doze.run, .entering, .dozing, .exiting].all (fun d => [0, 2].all (fun w =>
      let s := { desk [] 1 0 with sclk := 200000, sys := { (desk [] 1 0).sys with doze := d, latched := w, pastP := true } }
      let s := setFc 0x80C 1 s
      decide (s.sys.doze = d ∧ s.sys.sleepFor = none ∧ wakesNow s = w ∧ fcReg s 0x80C ≠ 0 ∧ s.sys.dozeAt + (fcReg s 0x80C).toNat * 100000 ≤ s.sclk) &&
      decide ((fcReg s 0x804).setWidth 6 = (0x3F : BitVec 6)))) &&
    (let s := desk [] 1 0
     decide ((List.range (nTiles s)).all (tileParked s) = true ∧ (List.range (nTiles s)).all (tileHalted s) = false ∧
       (List.range (nTiles s)).all (tileHalted (ready State.reset)) = true ∧ bit (flReg s 4) 31 = false ∧
       flashWrites (setFl 4 0xA0000001 s) = true ∧ anyResetting s = false ∧ chuteWakes s = 0) &&
     decide (powered s = true ∧ fld (stReg s 7 0x004) 23 16 = 0x69 ∧ 119 < 120 ∧ 110 ≤ 119))) = true := by decide +kernel

/-- Each power phase; a request of the reset registers; an image to boot from cannot be shown, for what an image verifies is free (log 51). -/
theorem witness_ResetsAndBoot :
    (let s := ready (running [])
     mxOpenB .pmA .fuse s && decide (s.sys.doze = .run ∧ powered s = true ∧ 127 < nTiles s ∧ s.sys.pwrGood = true ∧ s.sys.perstN = true) &&
     decide (State.reset.sys.phase = .booting ∧ bit (fcReg State.reset 0) 2 = false ∧ s.chans.all (fun kv => kv.2.held.isNone) = true ∧
       s.jobs.all (fun j => j.2.kind != .fill) = true ∧ bit (flReg s 4) 31 = false) &&
     [Phase.off, .held, .tripped].all (fun p => decide (({ s with sys := { s.sys with phase := p, pwrGood := false } } : State).sys.phase = p))) = true := by
  decide +kernel

/-- An endpoint in each phase, without a session, with one, with as many as it may have; an exchange under way. -/
theorem witness_SpdmSessions :
    [Fn.pf, .vf 5].all (fun f => [0, 1, 2, 3].all (fun ph => [0, 1, 4].all (fun k =>
      let s := setSpdm f ⟨ph, List.replicate k ⟨.franking 4⟩, some (7, 3), [1], List.replicate 70 3⟩ (desk [] 1 0)
      decide (pmServes s = true ∧ endpointExists s f = true ∧ (getSpdm s f).phase = ph ∧ (getSpdm s f).sessions.length = k ∧ s.envs = [] ∧
        (getSpdm s f).exchanging = some (7, 3)) &&
      decide ((getKey (setKey s (frankSlot f) ⟨some (.franking 4), 3, false, false⟩) (frankSlot f)).key ≠ none)))) = true := by decide +kernel

/-- Every state of a TDI, with its stream; a key that is programmed and one that is not; the last stream and sub-stream. -/
theorem witness_InterfacesAndStreams :
    [TdiState.configUnlocked, .configLocked, .run, .error].all (fun td =>
      let s := setTen (desk [] 1 0) 5 { getTen (desk [] 1 0) 5 with tdi := td, stream := some 8 }
      let s := { s with pfSpdm := ⟨3, [⟨.franking 4⟩], none, [], []⟩, ideActive := [48, 53] }
      decide (pmServes s = true ∧ s.pfSpdm.sessions ≠ [] ∧ (getTen s 5).st ≠ .disabled ∧ (getTen s 5).tdi = td ∧ contracted s = [5] ∧
        (getTen s 5).stream = some 8 ∧ (getKey s (0x80 + 6 * 8 + 5)).key = none)) = true := by decide +kernel

/-- The reset state is canonical, and so is one that lists lines. -/
theorem witness_HbmStaysCanonical : hbmWf State.reset = true ∧ hbmWf (channel [] none) = true := by decide +kernel

/-- A step of a command that is not the end of a fuse commit. -/
theorem witness_FusesAndQueueKept : Instr.journalCommit ≠ .fuseCommitDone ∧ Instr.journalCommit ≠ .bootReady ∧ (∃ u, exec .journalCommit State.reset = .next u) :=
  ⟨by decide, by decide, ⟨_, rfl⟩⟩

/-! ### Conditions that only one clause of a statement has -/

/-- Nothing written before an idle step: StepRunsFrontCommand. -/
theorem witness_idleStep : (∀ i, i < 6 → (getFilter State.reset i).raw = (getFilter State.reset i).level) ∧
    twf (fun _ => Vec.reset) State.reset.vecs = true ∧ (∀ c, (getChute State.reset c).masking = false) ∧
    (∀ f v, (getVec State.reset f v).masking = false) :=
  ⟨by decide +kernel, rfl, fun _ => rfl, fun _ _ => rfl⟩

/-- A fill on the tile and none; a request that waits and one that has its answer; a lock held; a locked inbox: SequencerEvents, MatrixWords
and EnvelopeSend. -/
theorem witness_waitingRequests :
    ([0, 1].all (fun b => fillBusy (withTile ((tile (engine [])).setReg 0x004 b)) e0 == (b == 1)) &&
    (let s := updEng (pm [num 0x10]) .pmA (fun x => { x with mxAnswer := some (5, 7) })
     let w : State := { pm [num 0x10] with cm := { (pm []).cm with hung := [⟨.pmA, 0x10, none, 0, 1024, .access, some .pmA⟩] } }
     decide ((getEng s .pmA).mxAnswer = some (5, 7) ∧ (getEng (pm []) .pmA).mxAnswer = none ∧ (pm []).cm.hung.any (fun h => h.eng == some .pmA) = false ∧
       w.cm.hung.any (fun h => h.eng == some .pmA) = true) &&
     holdsLock (setLock 9 { getLock s 9 with owner := some .pmA } s) .pmA && !holdsLock s .pmA) &&
    (let s := running []
     let l := setLock 0xC0 { getLock s 0xC0 with owner := some .pmB } s
     decide (s.cm.hung = [] ∧ (getEng s e0).mxAnswer = none ∧ (getLock l 0xC0).owner = some .pmB ∧ Master.pmB ≠ .tilePort 0))) = true := by
  decide +kernel

/-- A frame in clear with a head and tail cell, at the FSEQ expected and past it; an idle one; one for which a full buffer has no room; one
that no key opens; ports in silence that may send: LinkPorts. -/
theorem witness_frames :
    (let s := link 2 0 255 0
     let q := getPort s 3
     let one : Frame := { (default : Frame) with cells := List.replicate 15 7, desc := 0xE0, control := BitVec.ofNat 64 (0xFFFF * 2 ^ 48) }
     let idle : Frame := { (default : Frame) with cells := List.replicate 15 0 }
     let k := setKey s (linkSlot 3 true) ⟨some (.draw 2), 0, false, false⟩
     let full := { q with held := [(0, 64)] }
     decide (openFrame s 3 one = some [⟨true, true, 0, 0, 7⟩] ∧ frameFseq one = q.rxFseq ∧ frameIdle one = false ∧ frameNak one = false ∧
       frameFseq idle ≠ q.rxFseq ∧ frameIdle idle = true ∧ openFrame s 3 idle = some [] ∧
       q.part = [] ∧ q.outq = [] ∧ q.sending = [] ∧ q.owed = []) &&
     hasRoom q [⟨true, true, 0, 0, 7⟩] && !hasRoom full [⟨true, true, 0, 0, 7⟩] && (openFrame k 3 { one with control := one.control ||| 0x40000000 }).isNone &&
     maySend s 3 && !maySend (updPort s 3 (fun x => { x with stopped := true })) 3) = true := by decide +kernel

/-- A level that the samples show and the filter does not yet, its count complete and not: InterruptDelivery. -/
theorem witness_filters : ([(12, true), (11, false)] : List (Nat × Bool)).all (fun p =>
    let s := { setFilter 2 { Filter.reset with raw := true, since := 4, length := 8 } (ready State.reset) with sclk := p.1 }
    decide ((getFilter s 2).raw = true ∧ (getFilter s 2).level = false) &&
    decide ((getFilter s 2).since + (getFilter s 2).length.toNat ≤ s.sclk) == p.2) = true := by decide +kernel

/-- Tiles that hold and that do not hold a descriptor to be invalidated; a ROUND_LAUNCH on its round and on the next: DataEnvelopes and
TileEnvelopes. -/
theorem witness_envelopeStages :
    ([0, 0x80000000].all (fun g =>
      let s := updTile (given (env (.tenantBag 5 3) 0x19 1 4095 0 []) 2) 0 (fun t => t.setReg 0x208 g)
      let s := updTen s 5 (fun t => { t with tiles := [0] })
      decide (0 ∈ tilesOf s 5) && dinvDone s 5 4095 == (g == 0)) &&
    [(some (round0 1 0), true), (some { round0 1 0 with no := 1 }, false), (none, false)].all (fun x =>
      x.1.any (fun r => r.no + 1 == 1) == x.2)) = true := by decide +kernel

/-- A device that boots and one that is ready; an unlocked UDS; offers with every algorithm and with one missing; a configuration register
that a write changes, and one that it does not: ResetsAndBoot, SpdmSessions, InterfacesAndStreams. -/
theorem witness_configuration :
    (let s := desk [] 1 0
     decide (State.reset.sys.phase = .booting ∧ s.sys.phase = .ready ∧ s.sys.doze = .run ∧ bit (ksReg State.reset 0) 0 = false) &&
     offersAlgs deviceAlgs && !offersAlgs { deviceAlgs with aead := 1 } && masterExists s (.pcie (.vf 5)) && masterExists s (.pcie .pf) &&
     decide (tget (fun _ => 0) s.cfgRegs (1024 * fnKey (.vf 5) + 0x0B0 / 4) ≠ (0xC0000001 : BitVec 32) &&& cfgBits (.vf 5) 0x0B0 ∧
       tget (fun _ => 0) s.cfgRegs (1024 * fnKey (.vf 5) + 4092 / 4) = (0xC0000001 : BitVec 32) &&& cfgBits (.vf 5) 4092)) = true := by
  decide +kernel

/-! ### Well-formedness: every check refuses a term, and the last unit of each range is allowed -/

theorem test_wf_refused_a : (
    [.lit (.tile 128) default, .litr (.tile 128) default, .lits (.tile 128) default, .segref (.tile 128) default default,
     .aaddi (.tile 128) default, .ld (.tile 128) default, .st (.tile 128) default, .ldx (.tile 128) default,
     .ldy (.tile 128) default, .stx (.tile 128) default, .sty (.tile 128) default, .lda (.tile 128) default,
     .sta (.tile 128) default, .rdsr (.tile 128) default, .wrsr (.tile 128) default, .addi (.tile 128) default,
     .andi (.tile 128) default, .ori (.tile 128) default, .xori (.tile 128) default, .cmpi (.tile 128) default, .mul (.tile 128),
     .mulhu (.tile 128), .mulhs (.tile 128), .exti (.tile 128) default default default,
     .insi (.tile 128) default default default, .ext (.tile 128), .ins (.tile 128), .bperm (.tile 128),
     .movw (.tile 128) default, .fillw (.tile 128) default, .vwait (.tile 128) default, .vfence (.tile 128), .rload (.tile 128),
     .rcall (.tile 128), .rwait (.tile 128), .vmake (.tile 128), .vsetl (.tile 128), .esend (.tile 128), .br (.tile 128) default,
     .bz (.tile 128) default] : List Instr).all (fun i => !wellFormed i) = true := by decide

theorem test_wf_refused_b : (
    [.bnz (.tile 128) default, .bn (.tile 128) default, .bnn (.tile 128) default, .bc (.tile 128) default,
     .bnc (.tile 128) default, .bv (.tile 128) default, .bnv (.tile 128) default, .bgt (.tile 128) default,
     .ble (.tile 128) default, .bge (.tile 128) default, .blt (.tile 128) default, .bhi (.tile 128) default,
     .bls (.tile 128) default, .bxnz (.tile 128) default, .call (.tile 128) default, .calla (.tile 128), .ret (.tile 128),
     .trap (.tile 128) default, .fret (.tile 128), .seal (.tile 128), .unseal (.tile 128), .halt (.tile 128), .mxrd (.tile 128),
     .mxwr (.tile 128), .mxlock (.tile 128), .mxunlk (.tile 128), .kref (.tile 128) default, .kzero (.tile 128),
     .kbind (.tile 128), .instructionPair (.tile 128) default default, .nop (.tile 128), .dup (.tile 128), .drop (.tile 128),
     .swap (.tile 128), .over (.tile 128), .rot (.tile 128), .nip (.tile 128), .pick (.tile 128) default,
     .slit (.tile 128) default, .saddi (.tile 128) default] : List Instr).all (fun i => !wellFormed i) = true := by decide

theorem test_wf_refused_c : (
    [.add (.tile 128), .adc (.tile 128), .sub (.tile 128), .sbc (.tile 128), .and (.tile 128), .or (.tile 128), .xor (.tile 128),
     .not (.tile 128), .neg (.tile 128), .cmp (.tile 128), .tst (.tile 128), .clz (.tile 128), .popc (.tile 128),
     .shl (.tile 128) default, .shr (.tile 128) default, .sar (.tile 128) default, .rol (.tile 128) default, .tox (.tile 128),
     .toy (.tile 128), .fromx (.tile 128), .fromy (.tile 128), .xadd (.tile 128) default, .yadd (.tile 128) default,
     .xcmp (.tile 128) default, .ycmp (.tile 128) default, .aadd (.tile 128), .aoff (.tile 128), .aseg (.tile 128),
     .adiff (.tile 128), .toint (.tile 128), .toraw (.tile 128), .toflt (.tile 128), .tagof (.tile 128), .dset (.tile 128),
     .dstep (.tile 128), .asyncFaultEntry (.tile 128), .sealOverrun (.tile 128), .engineHalt (.tile 128),
     .storeBufferDrain (.tile 128), .descriptorInvalidate 128] : List Instr).all (fun i => !wellFormed i) = true := by decide

theorem test_wf_refused_d : (
    [.vadd (.tile 128) default default, .vsub (.tile 128) default default, .vmul (.tile 128) default default,
     .vfma (.tile 128) default default, .vfms (.tile 128) default default, .vfnma (.tile 128) default default,
     .vfnms (.tile 128) default default, .vmin (.tile 128) default default, .vmax (.tile 128) default default,
     .vabs (.tile 128) default default, .vneg (.tile 128) default default, .vcmp (.tile 128) default default,
     .vcvt (.tile 128) default default, .vrcpe (.tile 128) default default, .vrsqe (.tile 128) default default,
     .vrcps (.tile 128) default default, .vrsqs (.tile 128) default default, .vand (.tile 128) default default,
     .vor (.tile 128) default default, .vxor (.tile 128) default default, .vnot (.tile 128) default default,
     .vshl (.tile 128) default default, .vshr (.tile 128) default default, .vsar (.tile 128) default default,
     .vsel (.tile 128) default default, .vcopy (.tile 128) default default, .vgather (.tile 128) default default,
     .vscatter (.tile 128) default default, .vcompress (.tile 128) default default, .vexpand (.tile 128) default default,
     .vscan (.tile 128) default default, .vred (.tile 128) default default, .vsegred (.tile 128) default default,
     .vpermb (.tile 128) default default, .vperme (.tile 128) default default, .vtrans (.tile 128) default default,
     .vload (.tile 128) default default, .vstore (.tile 128) default default, .vectorStart 128, .stripCommit 128 default default] : List Instr).all (fun i => !wellFormed i) = true := by decide

theorem test_wf_refused_e : (
    [.thirdPass 128 default default, .chargeWindowClose 128 default, .chargeWindowClose default 10, .deferredCauseAct 128,
     .pipeWakeDone 128 default, .pipeWakeDone default 10, .pipeSleep 128 default, .pipeSleep default 10,
     .postboxFetchDone 128 default, .roundEnd 128, .counterSlot 1024 default, .counterSlot default 1024, .atomicLineWrite 1024,
     .hbmRefresh 1024 default, .hbmRefresh default 1024, .hbmScrubPosition 16 default, .hbmScrubPosition default 1024,
     .hbmCorrectionWriteback 1024, .hbmPoisonRewrite 1024, .hbmRepairDone 16, .stackTempRead 16 default, .tileScrubAttempt 128,
     .tsCorrectionWriteback 128 default, .tsCorrectionWriteback default 16, .tileRowRepair 128, .fillDone 128,
     .tsFillGo (.tilePort 128) default, .tsFillGo default 128, .tsRepairGo (.tilePort 128) default default default,
     .tsRepairGo default 128 default default, .tsClogClear (.tilePort 128) default, .tsClogClear default 128,
     .tsInjectArm (.tilePort 128) default default default default, .tsInjectArm default 128 default default default,
     .tsUeSeenClear (.tilePort 128) default, .tsUeSeenClear default 128, .txStart (.tilePort 128) default default,
     .txStart default 128 default, .txHaltReq (.tilePort 128) default, .txHaltReq default 128] : List Instr).all (fun i => !wellFormed i) = true := by decide

theorem test_wf_refused_f : (
    [.txDinvGo (.tilePort 128) default default default, .txDinvGo default 128 default default,
     .tvAbortedClear (.tilePort 128) default, .tvAbortedClear default 128, .trSheetsFree (.tilePort 128) default default,
     .trSheetsFree default 128 default, .tfCtrlWrite (.tilePort 128) default default, .tfCtrlWrite default 128 default,
     .tfLogClear (.tilePort 128) default, .tfLogClear default 128, .hcRepairGo (.tilePort 128) default default default,
     .hcRepairGo default 16 default default, .hcClogClear (.tilePort 128) default, .hcClogClear default 16,
     .hcInjectArm (.tilePort 128) default default default, .hcInjectArm default 16 default default,
     .hcUeSeenClear (.tilePort 128) default, .hcUeSeenClear default 16, .mbLetterbox (.vf 1024) default default,
     .mbLetterbox .pf 16 default, .mbLetterbox (.vf 0) 64 default, .mbCfgWrite (.vf 1024) default default,
     .mbCfgWrite .pf 16 default, .mbCfgWrite (.vf 0) 64 default, .mbTrayHeadWrite (.vf 1024) default default,
     .mbTrayHeadWrite .pf 16 default, .mbTrayHeadWrite (.vf 0) 64 default, .pairLoRead (.tilePort 128) default,
     .atomicFetchAdd (.tilePort 128) default default, .atomicFetchAdd default 128 default,
     .atomicCompareSwap (.tilePort 128) default default, .atomicCompareSwap default 128 default,
     .atomicSwap (.tilePort 128) default default, .atomicSwap default 128 default, .fpRetrain (.tilePort 128) default,
     .fpRetrain default 32, .fxWakeGo (.tilePort 128) default, .chOwnerWrite (.tilePort 128) default default,
     .chOwnerWrite default 256 default, .chSignal (.tilePort 128) default] : List Instr).all (fun i => !wellFormed i) = true := by decide

theorem test_wf_refused_g : (
    [.chSignal default 256, .chPendingClear (.tilePort 128) default, .chPendingClear default 256,
     .chCfgWrite (.tilePort 128) default default, .chCfgWrite default 256 default,
     .icFilterWrite (.tilePort 128) default default, .icFilterWrite default 6 default, .vcCoalWrite (.vf 1024) default default,
     .vcCoalWrite .pf 2048 default, .vcCoalWrite (.vf 0) 16 default, .msixVectorUnmask (.vf 1024) default,
     .msixVectorUnmask .pf 2048, .msixVectorUnmask (.vf 0) 16, .fcCommitGo (.tilePort 128) default,
     .flashRead (.tilePort 128) default default, .flashProgram (.tilePort 128) default default,
     .flashErase (.tilePort 128) default default, .pmFenceGo (.tilePort 128), .cmTimeoutClear (.tilePort 128),
     .registerWrite (.pcie (.vf 1024)) default default, .registerWrite (.tilePort 128) default default,
     .syResetReqTile (.tilePort 128) default, .syResetReqPostmaster (.tilePort 128) default, .syResetReqWarm (.tilePort 128),
     .syResetReqCold (.tilePort 128), .resetCapWarm (.vf 1024), .resetCapCold (.vf 1024) default,
     .matrixHangTimeout (.tilePort 128), .sequenceWaitMet (.esend 128), .deliverAtReached (.esend 128),
     .unsolicitedReceiptFlush (.vf 1024), .esendReceiptArrival 1024 default, .envelopeNop (.pfBag 16),
     .envelopeNop (.tenantBag 1024 0), .envelopeNop (.tenantBag 0 64), .envelopeNop (.esend 128), .fpflagsRead (.esend 128),
     .mbCancel (.esend 128), .bufAlloc (.esend 128), .bufReturn (.esend 128)] : List Instr).all (fun i => !wellFormed i) = true := by decide

theorem test_wf_refused_h : (
    [.bufWrite (.esend 128), .dmaIn (.esend 128), .dmaOut (.esend 128), .segAlloc (.esend 128), .segFree (.esend 128),
     .tileWrite (.esend 128), .tileRead (.esend 128), .roundLoad (.esend 128), .roundLaunch (.esend 128),
     .tileVector (.esend 128), .tileStart (.esend 128), .tileStop (.esend 128), .remoteSend (.esend 128),
     .tenantContract (.esend 128), .tenantReset (.esend 128), .planLoad (.esend 128), .bookLoad (.esend 128),
     .keyRotate (.esend 128), .fwUpdate (.esend 128), .fwCommit (.esend 128), .fwHandover (.esend 128),
     .maintTsRepair (.esend 128), .maintHbmRepair (.esend 128), .maintTileSubstitute (.esend 128),
     .maintLaneRetrain (.esend 128), .maintTsScrub (.esend 128), .maintHbmScrub (.esend 128), .maintFabricRecord (.esend 128),
     .maintDumpNow (.esend 128), .maintDumpClear (.esend 128), .dumpRead (.esend 128), .deviceSleep (.esend 128),
     .tileSwitch 128, .tileAssign 128, .tileSubstitution 128, .vfEnable 1024, .vfDisable 1024, .vfFlr 1024, .tenantKeyErase 1024,
     .getVersion (.vf 1024)] : List Instr).all (fun i => !wellFormed i) = true := by decide

theorem test_wf_refused_i : (
    [.getCapabilities (.vf 1024), .negotiateAlgorithms (.vf 1024) default, .getDigests (.vf 1024),
     .getCertificate (.vf 1024) default default default, .challenge (.vf 1024) default, .getMeasurements (.vf 1024) default,
     .keyExchange (.vf 1024) default default, .finish (.vf 1024) default, .heartbeat (.vf 1024), .keyUpdate (.vf 1024),
     .endSession (.vf 1024), .chunkSend (.vf 1024) default default, .chunkGet (.vf 1024) default,
     .spdmUnsupportedRequest (.vf 1024) default, .spdmHeartbeatTimeout (.vf 1024), .getTdispVersion 1024,
     .getTdispCapabilities 1024, .lockInterfaceRequest 1024 default, .lockInterfaceRequest default 9,
     .getDeviceInterfaceReport 1024, .getDeviceInterfaceState 1024, .startInterfaceRequest 1024, .stopInterfaceRequest 1024,
     .query 9, .keyProg 9 default default default, .keyProg default 3 default default, .kSetGo 9 default default,
     .kSetGo default 3 default, .kSetStop 9 default default, .kSetStop default 3 default, .frameReceive 32 default,
     .fseqRetryLimit 32, .laneDrop 32 default, .laneDrop default 8, .laneRetrainDone 32, .rekeyStart 32, .linkTrained 32 default,
     .trainingRetry 32, .transitLetter 32 default, .read 32 default] : List Instr).all (fun i => !wellFormed i) = true := by decide

theorem test_wf_refused_j : (
    [.readReply 32 default, .write 32 default, .writeAck 32 default, .atomic 32 default, .atomicReply 32 default,
     .envelope 32 default, .envelopeAck 32 default, .hello 32 default, .keyshare 32 default, .cert 32 default, .sign 32 default,
     .rate 32 default, .time 32 default, .book 32 default, .bookAck 32 default, .wake 32 default, .chuteEvent 256,
     .interruptGrant (.tile 128) default, .poolPresentationTimeout 256, .msixMessage (.vf 1024) default, .msixMessage .pf 2048,
     .msixMessage (.vf 0) 16, .inputFilterChange 6 default, .thermalSample 8 default, .reservedOpcodeWord (.tile 128) default,
     .blockLockLoss 32, .trainingAttemptFailed 32, .batchCountLimit 32, .ideIntegrityFailure 1024,
     .hostReadCompletion (.esend 128) default] : List Instr).all (fun i => !wellFormed i) = true := by decide

/-- A frame has 15 cells and eight lanes (R502, R503). -/
theorem test_wf_frames :
    (let fr (n lane : Nat) : Frame := { (default : Frame) with cells := List.replicate n 0, failing := [lane] }
     [(31, 15, 7, true), (32, 15, 7, false), (31, 14, 7, false), (31, 16, 7, false), (31, 15, 8, false)].all (fun x =>
       wellFormed (.frameReceive x.1 (fr x.2.1 x.2.2.1)) == x.2.2.2)) = true := by decide

theorem test_wf_last_units : (
    [.add (.tile 127), .add .pmB, .vectorStart 127, .envelopeNop (.pfBag 15), .envelopeNop (.tenantBag 1023 63), .envelopeNop (.esend 127),
     .registerWrite (.tilePort 127) default default, .registerWrite (.pcie (.vf 1023)) default default, .msixMessage .pf 2047,
     .msixMessage (.vf 1023) 15, .laneDrop 31 7, .chuteEvent 255, .query 8] : List Instr).all wellFormed = true := by decide

/-! ### Small tests of commands: one step each, the expected words worked out by hand from the rule -/

/-- What the engine of tile 0 holds on its data stack after a command, with N, Z, C and V. -/
def after (c : Instr) (s : State) : Option (List TWord × Flags) :=
  match exec c s with
  | .next u => some ((getEng u e0).ds, (getEng u e0).flags)
  | _ => none

/-- R111: 2^63 − 1 plus 1 is negative, without carry and with signed overflow. -/
theorem test_add_overflow : after (.add e0) (running [num 1, num (2 ^ 63 - 1), num 9]) = some ([num (2 ^ 63), num 9], ⟨true, false, false, true⟩) := by
  decide +kernel

/-- R111: 0 − 1 borrows, so C is 0. -/
theorem test_sub_borrow : after (.sub e0) (running [num 1, num 0]) = some ([num (2 ^ 64 - 1)], ⟨true, false, false, false⟩) := by decide +kernel

/-- R89: one RAW operand makes the result RAW. R112: the product of −1 and 1 has the high half −1. -/
theorem test_mulhs_signs : (after (.mulhs e0) (running [raw 1, num (2 ^ 64 - 1)])).map (·.1) = some [raw (2 ^ 64 - 1)] := by decide +kernel

/-- R111, R116: a shift of 3 by 63 shifts the low bit of 1 out last. -/
theorem test_shl_last_bit : after (.shl e0 63) (running [num 3]) = some ([num (2 ^ 63)], ⟨true, false, true, false⟩) := by decide +kernel

/-- The worked example below R119: position 12, width 8. -/
theorem test_exti_example : (after (.exti e0 false 12 7) (running [num 0xABC123])).map (·.1) = some [num 0xBC] := by decide +kernel

/-- The worked example below R120: the control word 0x0123_4567 reverses the bytes of S1. -/
theorem test_bperm_reverses : (after (.bperm e0) (running [num 0x01234567, num 0x0102030405060708, num 0])).map (·.1) =
    some [num 0x0807060504030201] := by decide +kernel

/-- R121: a divisor of 0 sets V and leaves D, P = 0 and Q = N. -/
theorem test_dset_zero : after (.dset e0) (running [num 0, num 7]) = some ([num 7, num 0, num 0], ⟨false, false, false, true⟩) := by decide +kernel

/-- R122: Q's top bit moves into P, which reaches D = 1: the quotient bit is 1 and P becomes 0. -/
theorem test_dstep_bit : (after (.dstep e0) (running [num (2 ^ 63), num 0, num 1])).map (fun r => (r.1, r.2.c)) =
    some ([num 1, num 0, num 1], true) := by decide +kernel

/-- A step on an empty queue is one SCLK period (log 1). -/
theorem test_idle_counts : (match step State.reset with | .next u => some u.sclk | _ => none) = some (State.reset.sclk + 1) := by decide +kernel

/-- R226, R227: 1 + 2^-24 in FP32 is a tie, which goes to the even neighbour 1, inexact. -/
theorem test_fadd_tie : packX fmt32 1 (faddOp 1 (unpackF fmt32 0x3F800000) (unpackF fmt32 0x33800000)).1 = (0x3F800000, flNX) := by decide +kernel

/-- R232: 1/3 to 12 significant bits is 2731 × 2^-13. -/
theorem test_rcpe_third : packX fmt32 1 (rcpX (unpackF fmt32 0x40400000)).1 = (0x3EAAB000, 0) := by decide +kernel

/-- R553: a signal to a chute sets its PENDING. -/
theorem test_chute_pending : (match exec (.chSignal .pmA 200) (ready State.reset) with | .next u => some (getChute u 200).pending | _ => none) =
    some true := by decide +kernel

/-- R294: a line of tile 2 that moved in slot 9 of pseudo-channel 5 keeps back one of tile 3 of the same tenant there, of no lower tile, no other
tenant and no other slot. -/
theorem test_two_tiles_meet :
    (let x (t n : Nat) : RX := { rxOf t (round0 2 0) [] State.reset with n := n }
     let s := keepMoved (x 2 7) 9 [5] State.reset
     (beaten (x 3 7) 9 5 s, beaten (x 1 7) 9 5 s, beaten (x 3 8) 9 5 s, beaten (x 3 7) 10 5 s)) = (true, false, false, false) := by
  decide +kernel

/-- FIPS 180-4's example: the SHA-384 digest of "abc" begins CB 00 75 3F. -/
theorem test_sha384_abc : (sha384Bytes [0x61, 0x62, 0x63]).take 8 = [0xCB, 0x00, 0x75, 0x3F, 0x45, 0xA3, 0x5E, 0x8B] := by decide +kernel

/-- No row of the opcode table gives bits, so a word in front of the queue adds no command. -/
theorem test_fetch_word_unchanged : (decodeTableWord 32 0x38000307).isNone = true ∧
    (State.reset.withFetchWord 32 0x38000307).pending.length = 0 := by decide

end Sys2Proof.Tests
end

/-! PROOFS. The data stack of every engine outlives the fetch of a word: what the HBM side, the tile side and the fetch unit change of an engine. -/
namespace Sys2Proof.Machine

open Sys2Proof

/-! ### The HBM side: no engine changes -/
section
variable (s : State) (e : EngineId)

@[simp] theorem getEng_tick : getEng (tick s) e = getEng s e := by cases e <;> rfl
@[simp] theorem getEng_raiseChute (c : Nat) : getEng (raiseChute c s) e = getEng s e := by cases e <;> rfl
@[simp] theorem getEng_setHc (k off : Nat) (v : BitVec 32) : getEng (setHc k off v s) e = getEng s e := by cases e <;> rfl
@[simp] theorem getEng_updHc (k off : Nat) (f : BitVec 32 → BitVec 32) : getEng (updHc k off f s) e = getEng s e := getEng_setHc s e _ _ _
@[simp] theorem getEng_updChan (pc : Nat) (f : PChan → PChan) : getEng (updChan s pc f) e = getEng s e := by cases e <;> rfl
@[simp] theorem getEng_setLine (pc r : Nat) (l : HLine) : getEng (setLine pc r l s) e = getEng s e := by cases e <;> rfl

@[simp] theorem getEng_hcSetStatus (k b : Nat) : getEng (hcSetStatus k b s) e = getEng s e := by
  unfold hcSetStatus
  dsimp only
  split <;> simp

@[simp] theorem getEng_hcLog (pc r sym src : Nat) : getEng (hcLog pc r sym src s) e = getEng s e := by
  simp [hcLog]

@[simp] theorem getEng_hcUncorr (pc r src : Nat) (w : Bool) : getEng (hcUncorr pc r src w s) e = getEng s e := by
  unfold hcUncorr
  dsimp only
  split <;> simp

@[simp] theorem getEng_rdLine (pc r : Nat) (k : Key) (src : Nat) : getEng (rdLine pc r k src s).2 e = getEng s e := by
  unfold rdLine
  dsimp only
  split <;> simp

@[simp] theorem getEng_putLine (pc r : Nat) (l : HLine) : getEng (putLine pc r l s) e = getEng s e := by
  unfold putLine
  dsimp only
  split <;> simp

@[simp] theorem getEng_counterSlot (q pc r : Nat) : getEng (counterSlot q pc r s) e = getEng s e := by
  unfold counterSlot settle
  rw [getEng_updChan]
  split
  · split <;> simp
  · rfl

@[simp] theorem getEng_readTable (pr : Nat × Nat) (dflt : List TWord) (src q : Nat) : getEng (readTable pr dflt src q s).2 e = getEng s e := by
  unfold readTable
  dsimp only
  split <;> simp

/-- A read of a descriptor's table line leaves every engine as it is. -/
@[simp] theorem getEng_fetchDesc (d : EngineId) (seg : Nat) : getEng (fetchDesc d seg s).2 e = getEng s e := by
  unfold fetchDesc
  dsimp only
  split
  · rfl
  · simp

end

/-! ### The tile side: only the engine's own fields other than its data stack -/
section
variable {s : State} {e : EngineId}

/-- A write of a physical tile that keeps its engine's data stack keeps the data stack of every engine. -/
theorem ds_setP {p : Nat} {x : Tile} (h : x.eng.ds = (getP s p).eng.ds) : (getEng (setP s p x) e).ds = (getEng s e).ds := by
  cases e with
  | tile t =>
    by_cases hp : physOf s t = p
    · subst hp
      simpa [getEng, getTile] using h
    · simp [getEng, getTile, getP_setP_ne s x hp]
  | pmA => rfl
  | pmB => rfl

theorem ds_updP {p : Nat} {f : Tile → Tile} (h : ∀ t : Tile, (f t).eng.ds = t.eng.ds) : (getEng (updP s p f) e).ds = (getEng s e).ds :=
  ds_setP (h _)

/-- A change of an engine that keeps its data stack. -/
theorem ds_updEng_self {f : Engine → Engine} (h : ∀ x, (f x).ds = x.ds) : (getEng (updEng s e f) e).ds = (getEng s e).ds := by
  rw [getEng_updEng, h]

@[simp] theorem setReg_eng (t : Tile) (off : Nat) (v : BitVec 32) : (t.setReg off v).eng = t.eng := by
  cases t; exact Eq.refl _
@[simp] theorem updReg_eng (t : Tile) (off : Nat) (f : BitVec 32 → BitVec 32) : (t.updReg off f).eng = t.eng := by
  rw [Tile.updReg, setReg_eng]

theorem ds_tsSetStatus (p b : Nat) : (getEng (tsSetStatus p b s) e).ds = (getEng s e).ds := by
  have h : (getEng (updP s p (fun t => t.updReg 0x004 (fun v => setBit v b))) e).ds = (getEng s e).ds :=
    ds_updP (fun t => congrArg Engine.ds (updReg_eng t _ _))
  unfold tsSetStatus
  dsimp only
  split
  · rw [getEng_raiseChute, h]
  · exact h

theorem ds_logCorrection (p w b mc : Nat) : (getEng (logCorrection p w b mc s) e).ds = (getEng s e).ds := by
  unfold logCorrection
  extract_lets t next a t1 t2 co t3 t4
  have h1 : t1.eng = t.eng := (setReg_eng _ _ _).trans (setReg_eng _ _ _)
  have h2 : t2.eng = t1.eng := updReg_eng _ _ _
  have h3 : t3.eng = t2.eng := updReg_eng _ _ _
  have h4 : t4.eng = t3.eng := updReg_eng _ _ _
  clear_value t1 t2 t3 t4
  exact ds_setP (congrArg Engine.ds (h4.trans (h3.trans (h2.trans h1))))

theorem ds_recordUncorr (p w mc : Nat) : (getEng (recordUncorr p w mc s) e).ds = (getEng s e).ds := by
  unfold recordUncorr
  dsimp only
  rw [ds_tsSetStatus]
  split
  · rfl
  · exact ds_updP (fun t => congrArg Engine.ds (setReg_eng t _ _))

theorem ds_takeWord (d : EngineId) (row word : Nat) (l : FLine) : (getEng (takeWord d row word l s).2 e).ds = (getEng s e).ds := by
  have hr (f : Nat → State → State) (hf : ∀ p, (getEng (f p s) e).ds = (getEng s e).ds) :
      (getEng (takeWord.report d word l f s) e).ds = (getEng s e).ds := by
    unfold takeWord.report
    split
    · split
      · rfl
      · exact hf _
    · rfl
  unfold takeWord
  dsimp only
  split
  · rfl
  · exact hr _ (fun _ => ds_logCorrection _ _ _ _)
  · exact hr _ (fun _ => ds_recordUncorr _ _ _)

theorem ds_bankTclk (p : Nat) (foreign : Bool) (heads held : List BankAcc) (bank : Nat) (a : Tclk) :
    (getEng (bankTclk p foreign heads held bank a).s e).ds = (getEng a.s e).ds := by
  unfold bankTclk
  extract_lets own t k waiting others all s0 s1 w q goes
  have h1 : (getEng s1 e).ds = (getEng a.s e).ds := by
    cases foreign with
    | false => rfl
    | true => exact congrArg Engine.ds (getEng_tick a.s e)
  clear_value s1
  split
  · rfl
  · split
    · exact h1
    · refine Eq.trans (ds_updP ?_) h1
      exact fun _ => rfl

theorem ds_arbitrate (p : Nat) : ∀ (n f : Nat) (qs : List (List (Option BankAcc))) (held : List BankAcc) (s : State),
    (getEng (arbitrate p n f qs held s).2 e).ds = (getEng s e).ds := by
  intro n
  induction n with
  | zero => intro f qs held s; rfl
  | succ n ih =>
    intro f qs held s
    unfold arbitrate
    dsimp only
    split
    · rfl
    · rw [ih]
      refine (ds_updP (fun t => ?_)).trans ?_
      · exact List.foldlRecOn _ _ (motive := fun x : Tile => x.eng.ds = t.eng.ds) rfl (fun x hx _ _ => hx)
      · exact forN_keeps (fun a : Tclk => (getEng a.s e).ds = (getEng s e).ds) _ (fun i a ha => (ds_bankTclk _ _ _ _ _ _).trans ha) _ _ rfl

theorem ds_bankAccesses (p : Nat) (qs : List (List (Option BankAcc))) : (getEng (bankAccesses p qs s).2 e).ds = (getEng s e).ds := by
  unfold bankAccesses
  extract_lets t alone f
  rw [ds_arbitrate]
  split
  · rfl
  · exact congrArg Engine.ds (getEng_tick s e)

theorem ds_engineAccess (d : EngineId) (bank : Nat) : (getEng (engineAccess d bank s).2 e).ds = (getEng s e).ds := by
  unfold engineAccess
  cases d with
  | tile t =>
    dsimp only
    exact ds_bankAccesses _ _
  | pmA => rfl
  | pmB => rfl

theorem ds_askLine (d : EngineId) (row : Nat) (known : Word) : (getEng (askLine d row known s).2 e).ds = (getEng s e).ds := by
  unfold askLine
  dsimp only
  exact ds_engineAccess d (row / 1024)

theorem ds_enterRow (d : EngineId) (row : Nat) : (getEng (enterRow d row s).2 e).ds = (getEng s e).ds := by
  have ha (a : FLine × State) : (getEng (enterRow.ahead d row a).2 e).ds = (getEng a.2 e).ds := by
    unfold enterRow.ahead
    split
    · dsimp only
      rw [ds_askLine]
    · rfl
  unfold enterRow
  dsimp only
  split
  · split
    · rfl
    · refine (ha _).trans ?_
      split
      · rfl
      · exact ds_askLine _ _ _
  · exact (ha _).trans (ds_askLine _ _ _)

end

/-! ### Programs of a word that leave the data stack -/

/-- A program that does not fault ends with the engine's data stack as it was. -/
def KeepsDs {α : Type} (e : EngineId) (p : NM α) : Prop :=
  ∀ s a s1, p.run s = .ok a s1 → (getEng s1 e).ds = (getEng s e).ds

/-- A program that always faults. -/
def Faults {α : Type} (p : NM α) : Prop := ∀ s, ∃ f s1, p.run s = .error f s1

section
variable {α β : Type} {e : EngineId}

theorem keepsDs_pure (a : α) : KeepsDs e (pure a : NM α) := by
  intro s b s1 h
  cases h
  rfl

theorem keepsDs_bind {p : NM α} {k : α → NM β} (hp : KeepsDs e p) (hk : ∀ a, KeepsDs e (k a)) : KeepsDs e (p >>= k) := by
  intro s b s1 h
  cases hr : p.run s with
  | ok a s2 =>
    rw [run_bind_ok hr] at h
    exact (hk a s2 b s1 h).trans (hp s a s2 hr)
  | error f s2 =>
    rw [run_bind_error hr] at h
    cases h

theorem keepsDs_faults {p : NM α} (hp : Faults p) : KeepsDs e p := by
  intro s a s1 h
  obtain ⟨f, s2, hf⟩ := hp s
  rw [hf] at h
  cases h

theorem faults_bind {p : NM α} {k : α → NM β} (hp : Faults p) : Faults (p >>= k) := by
  intro s
  obtain ⟨f, s2, hf⟩ := hp s
  exact ⟨f, s2, run_bind_error hf⟩

theorem keepsDs_get : KeepsDs e (get : NM State) := by
  intro s a s1 h
  cases h
  rfl

theorem keepsDs_modifyGet {g : State → α × State} (hg : ∀ s, (getEng (g s).2 e).ds = (getEng s e).ds) : KeepsDs e (modifyGet g : NM α) := by
  intro s a s1 h
  cases h
  exact hg s

theorem keepsDs_ite {c : Prop} [Decidable c] {p q : NM α} (hp : KeepsDs e p) (hq : KeepsDs e q) : KeepsDs e (if c then p else q) := by
  split
  · exact hp
  · exact hq

/-- A check that faults when it fails, before the program goes on. -/
theorem keepsDs_check {c : Prop} [Decidable c] {p : NM α} {k : α → NM β} {q : NM β} (hp : Faults p) (hq : KeepsDs e q) :
    KeepsDs e (if c then p >>= k else q) :=
  keepsDs_ite (keepsDs_faults (faults_bind hp)) hq

theorem faults_throw (f : NFault) : Faults (throw f : NM α) := fun s => ⟨f, s, rfl⟩

variable {c : WCtx}

theorem keepsDs_nEng : KeepsDs e (nEng c) := keepsDs_bind keepsDs_get (fun _ => keepsDs_pure _)

theorem keepsDs_nMod {f : Engine → Engine} (hf : ∀ x, (f x).ds = x.ds) : KeepsDs c.e (nMod c f) := by
  intro s a s1 h
  cases h
  exact ds_updEng_self hf

theorem keepsDs_addCyc (n : Nat) : KeepsDs c.e (addCyc c n) := keepsDs_nMod (fun _ => rfl)

theorem keepsDs_nWait : KeepsDs c.e (nWait c) := by
  intro s a s1 h
  cases h
  refine Eq.trans (ds_updEng_self ?_) (congrArg Engine.ds (getEng_tick s c.e))
  exact fun _ => rfl

theorem keepsDs_descOf (seg : BitVec 12) (off : Nat) : KeepsDs c.e (descOf c seg off) := by
  unfold descOf
  refine keepsDs_bind keepsDs_nEng (fun x => ?_)
  split
  · exact keepsDs_bind (keepsDs_nMod (fun _ => rfl)) (fun _ => keepsDs_pure _)
  · refine keepsDs_bind keepsDs_nWait (fun _ => keepsDs_bind (keepsDs_addCyc 6) (fun _ => ?_))
    refine keepsDs_bind (keepsDs_modifyGet (fun s => by rw [getEng_fetchDesc])) (fun r => ?_)
    split
    · exact keepsDs_faults (faults_throw _)
    · dsimp only
      refine keepsDs_ite ?_ (keepsDs_pure _)
      exact keepsDs_bind (keepsDs_nMod (fun _ => rfl)) (fun _ => keepsDs_pure _)

theorem keepsDs_accessCheck (kind : Nat) (right : Desc → Bool) (ok : Bool) (seg : BitVec 12) (off n : Nat) :
    KeepsDs c.e (accessCheck c kind right ok seg off n) := by
  unfold accessCheck
  refine keepsDs_bind (keepsDs_descOf _ _) (fun d => ?_)
  dsimp only
  refine keepsDs_check (faults_throw _) (keepsDs_check (faults_throw _) (keepsDs_check (faults_throw _) (keepsDs_check (faults_throw _) ?_)))
  refine keepsDs_ite (keepsDs_bind keepsDs_get (fun s => ?_)) (keepsDs_pure _)
  split
  · exact keepsDs_faults (faults_bind (faults_throw _))
  · exact keepsDs_bind (keepsDs_pure _) (fun _ => keepsDs_pure _)

theorem keepsDs_fetchAt (a : Word) (repair : Option Nat) : KeepsDs c.e (fetchAt c a repair) := by
  unfold fetchAt
  refine keepsDs_bind (keepsDs_addCyc _) (fun _ => keepsDs_bind (keepsDs_accessCheck _ _ _ _ _ _) (fun d => ?_))
  dsimp only
  refine keepsDs_bind (keepsDs_modifyGet (fun s => ds_enterRow _ _)) (fun ls => ?_)
  refine keepsDs_bind (keepsDs_modifyGet (fun s => ds_takeWord _ _ _ _)) (fun v => ?_)
  refine keepsDs_bind (keepsDs_nMod (fun _ => rfl)) (fun _ => ?_)
  have hend : KeepsDs c.e (match v with
      | none => uncorrFault c (codeSeg a).toNat 0 (codeOff a)
      | some w => if w.tag == 0xF then uncorrFault c (codeSeg a).toNat 0 (codeOff a) else pure ()) := by
    split
    · exact keepsDs_faults (faults_throw _)
    · exact keepsDs_ite (keepsDs_faults (faults_throw _)) (keepsDs_pure _)
  exact keepsDs_ite (keepsDs_bind (keepsDs_nMod (fun _ => rfl)) (fun _ => hend)) hend

theorem keepsDs_beginWord : KeepsDs c.e (beginWord c) := by
  unfold beginWord
  refine keepsDs_bind keepsDs_nEng (fun x => keepsDs_ite keepsDs_nWait ?_)
  refine keepsDs_bind (keepsDs_nMod (fun _ => rfl)) (fun _ => keepsDs_bind (keepsDs_fetchAt _ _) (fun _ => ?_))
  refine keepsDs_bind (keepsDs_nMod (fun y => ?_)) (fun _ => keepsDs_addCyc 1)
  split <;> rfl

end

end Sys2Proof.Machine

/-! PROOFS. Rules for a short or a long word that is ready: its operands, its result and its faults. -/
namespace Sys2Proof.Machine

open Sys2Proof

/-! ### A short word whose stack needs no spill and no fill -/
section
variable {c : WCtx} {s : State}

theorem fillTo_resident (h : BitVec 2) {n : Nat} (k : Nat) (hn : n ≤ (getEng s c.e).ds.length) : (fillTo c h false n k).run s = .ok () s := by
  cases k with
  | zero => rfl
  | succ k =>
    unfold fillTo
    refine (run_bind_ok (nEng_run c s)).trans ?_
    exact congrArg (fun p : NM Unit => p.run s) (if_neg (fun hlt => absurd hlt.1 (Nat.not_lt.mpr hn)))

theorem spillFor_room (h : BitVec 2) {pops pushes : Nat} (k : Nat) (hr : (getEng s c.e).ds.length + pushes ≤ 16 + pops ∨ pushes ≤ pops) :
    (spillFor c h false pops pushes k).run s = .ok () s := by
  cases k with
  | zero => rfl
  | succ k =>
    unfold spillFor
    refine (run_bind_ok (nEng_run c s)).trans ?_
    refine congrArg (fun p : NM Unit => p.run s) (if_neg (fun hlt => ?_))
    simp only [Bool.false_eq_true, if_false] at hlt
    omega

theorem caught_ok {p : NM Unit} {s1 : State} (h : p.run s = .ok () s1) : (caught p).run s = .ok none s1 := by
  have hb : (p >>= fun _ => (pure none : NM (Option NFault))).run s = .ok none s1 := (run_bind_ok h).trans (pure_run _ _)
  simp only [EStateM.run] at hb ⊢
  simp only [caught, tryCatchThe, MonadExceptOf.tryCatch, EStateM.tryCatch]
  rw [hb]

end

/-- The words of a short operation that finds its operands resident and its results room (R96): it reads the stack as it stood, and neither its
fetch nor its preparation moves an entry. -/
theorem shortReady_ds {e : EngineId} {o : ShortOp} {s s1 : State} {v : List TWord} (h : shortReady e o s = some (v, s1))
    (hn : (shortUse o).1 ≤ (getEng s e).ds.length)
    (hr : (getEng s e).ds.length + (shortUse o).2.2 ≤ 16 + (shortUse o).2.1 ∨ (shortUse o).2.2 ≤ (shortUse o).2.1) :
    v = (getEng s e).ds ∧ (getEng s1 e).ds = (getEng s e).ds := by
  obtain ⟨-, -, sa, sb, h1, -, h2, rfl, h3⟩ := pairReady_iff h
  have ha : (getEng sa e).ds = (getEng s e).ds := keepsDs_beginWord (c := pairCtx e o .nop) s () sa h1
  have hside (b : Bool) : (if b then ctxA e o .nop else ctxB e o .nop).e = e := by cases b <;> rfl
  have hneed : pairNeed (shortUse o) (shortUse .nop) ≤ (getEng sa e).ds.length := by
    have hp := pops_le_need o
    simp only [ha, pairNeed, show shortUse .nop = (0, 0, 0) from rfl]
    omega
  have hb : sb = sa := by
    have hf : (pairFill (ctxA e o .nop) (ctxB e o .nop) (shortUse o) (shortUse .nop) (checkHalfA (ctxA e o .nop) o)).run sa = .ok () sa := by
      unfold pairFill
      refine (run_bind_ok (nEng_run _ _)).trans ?_
      refine (run_bind_ok (caught_ok (fillTo_resident _ 2 ?_))).trans rfl
      rwa [hside]
    rw [hf] at h2
    cases h2
    rfl
  subst hb
  have hs : s1 = sb := by
    have hf : (pairSpill (ctxA e o .nop) (ctxB e o .nop) (shortUse o) (shortUse .nop) (aloneLen (shortUse o) (getEng sb e))
        (checkHalfA (ctxA e o .nop) o)).run sb = .ok () sb := by
      unfold pairSpill
      refine (run_bind_ok (caught_ok (spillFor_room _ 2 ?_))).trans rfl
      rw [hside, ha]
      exact hr
    rw [hf] at h3
    cases h3
    rfl
  subst hs
  exact ⟨ha, ha⟩

/-! ### The checks and results of the short operations, by their operands -/
section

theorem isNum_of_numeric {t : TWord} (h : numeric t) : isNum t.tag = true := by
  rcases h with h | h <;> rw [h] <;> rfl

theorem numTag_eq_bothInt (a b : TWord) : numTag a.tag b.tag = bothInt a b := by
  simp [numTag, bothInt]

theorem numTag_numTag (a b c : Tag) : numTag a (numTag b c) = if a = 1 ∧ b = 1 ∧ c = 1 then 1 else 0 := by
  by_cases hbc : b = 1 ∧ c = 1
  · simp [numTag, hbc]
  · have h0 : numTag b c = 0 := by simpa [numTag] using hbc
    rw [if_neg (fun h => hbc h.2), h0]
    simp [numTag]

variable {c : WCtx} {v : List TWord} {s : State}

theorem viewNum_run {i : Nat} {t : TWord} (h : numeric t) (ht : viewAt v i = t) : (viewNum c v i).run s = .ok t s := by
  subst ht
  unfold viewNum
  refine congrArg (fun p : NM TWord => p.run s) (if_neg ?_)
  rw [isNum_of_numeric h]
  decide

theorem viewTag_run {i rule : Nat} {t : TWord} {tg : Tag} (h : t.tag = tg) (ht : viewAt v i = t) :
    (viewTag c v i tg rule).run s = .ok t s := by
  subst ht
  unfold viewTag
  refine congrArg (fun p : NM TWord => p.run s) (if_neg ?_)
  simp [h]

end

/-- A short operation as a word of its own that is ready and whose checks leave the state as it is. -/
theorem runShort_engNext {e : EngineId} {o : ShortOp} {s s1 : State} {v : List TWord} {r : SRes} {n : Nat} {f : Engine → Engine}
    (h : shortReady e o s = some (v, s1)) (hl : (shortUse o).1 ≤ v.length) (hs : (shortEval (ctxA e o .nop) v o).run s1 = .ok r s1)
    (hc : max (shortCycles o) 2 = n) (hf : ∀ x, applyShort r x = f x) :
    runPair e o .nop s = engNext s1 e (fun x => nextWord n (f x)) := by
  subst hc
  rw [← funext hf]
  exact runShort_ready h hl hs

/-! ### The operands and results of a long word -/
section
variable {c : WCtx} {s : State}

theorem opnd_run (i : Nat) : (opnd c i).run s = .ok (nthD ⟨0, 0⟩ (getEng s c.e).ds i) s := rfl

theorem needNum_run {i : Nat} {t : TWord} {l : List TWord} (h : numeric t) (hds : (getEng s c.e).ds = l) (ht : nthD ⟨0, 0⟩ l i = t) :
    (needNum c i).run s = .ok t s := by
  subst ht hds
  unfold needNum
  refine (run_bind_ok (opnd_run i)).trans ?_
  refine congrArg (fun p : NM TWord => p.run s) (if_neg ?_)
  rw [isNum_of_numeric h]
  decide

/-- The check of an operand's value before the result (R119, R120). -/
theorem rangeCheck_run {bad : Prop} [Decidable bad] {x : Word} {k : Unit → NM Flow} :
    (if bad then rangeFault c x >>= k else k ()).run s = if bad then .error (nF c 5 x) s else (k ()).run s := by
  split
  · rfl
  · rfl

/-- The engine after n operands were replaced by a result, with the result-only flags. -/
def withResult (n : Nat) (v : TWord) (x : Engine) : Engine :=
  { x with ds := v :: x.ds.drop n, flags := applyFlags x.flags (resultFlags v.data) }

theorem putResult_run (n : Nat) (v : TWord) :
    (popD c n >>= fun _ => pushD c v >>= fun _ => setFlags c (resultFlags v.data) >>= fun _ => (pure .seq : NM Flow)).run s =
      .ok .seq (updEng s c.e (withResult n v)) := by
  refine (run_bind_ok (nMod_run _ _ _)).trans ((run_bind_ok (nMod_run _ _ _)).trans ((run_bind_ok (nMod_run _ _ _)).trans
    ((pure_run _ _).trans ?_)))
  rw [updEng_updEng, updEng_updEng]
  rfl

end

/-- Two changes that agree on the engine as it stands lead to the same state. -/
theorem updEng_congr {s : State} {e : EngineId} {f g : Engine → Engine} (h : f (getEng s e) = g (getEng s e)) : updEng s e f = updEng s e g :=
  congrArg (setEng s e) h

/-- The engine after a word of n cycles whose result stands above r. -/
def resultAbove (r : List TWord) (n : Nat) (v : Word) (tg : Tag) (x : Engine) : Engine :=
  nextWord n { x with ds := ⟨v, tg⟩ :: r, flags := ⟨v.msb, decide (v = 0), x.flags.c, x.flags.v⟩ }

/-- A long word that is ready, whose body replaces the operands at hand by a result. -/
theorem runLong_result {e : EngineId} {w : WordSpec} {body : WCtx → NM Flow} {s s1 : State} {ops r : List TWord} {v : Word} {tg : Tag}
    (h : longReady e w s = some s1) (hds : (getEng s1 e).ds = ops ++ r)
    (hb : (body (longCtx e w)).run s1 = .ok .seq (updEng s1 e (withResult ops.length ⟨v, tg⟩))) :
    runLong e w body s = engNext s1 e (resultAbove r w.cycles v tg) := by
  rw [runLong_ready h hb, updEng_updEng]
  refine congrArg Host.Outcome.next (updEng_congr ?_)
  have hdrop : (getEng s1 e).ds.drop ops.length = r := by rw [hds, List.drop_left]
  simp only [withResult, hdrop]
  rfl

/-- The same for a body that checks an operand's value first. -/
theorem runLong_checked {e : EngineId} {w : WordSpec} {body : WCtx → NM Flow} {s s1 : State} {ops r : List TWord} {v x : Word} {tg : Tag}
    {bad : Prop} [Decidable bad] (h : longReady e w s = some s1) (hds : (getEng s1 e).ds = ops ++ r)
    (hb : (body (longCtx e w)).run s1 =
      if bad then .error (nF (longCtx e w) 5 x) s1 else .ok .seq (updEng s1 e (withResult ops.length ⟨v, tg⟩))) :
    runLong e w body s = if bad then .next (syncFault e ⟨5, 0, x⟩ s1) else engNext s1 e (resultAbove r w.cycles v tg) := by
  split
  next hbad => exact runLong_faults h (hb.trans (if_pos hbad))
  next hok => exact runLong_result h hds (hb.trans (if_neg hok))

end Sys2Proof.Machine

/-! PROOFS. Division (R121 to R123). -/
namespace Sys2Proof.Machine

open Sys2Proof

/-! ### DSET and DSTEP (R121, R122) -/
section
variable {e : EngineId} {s s1 : State} {q p d : TWord} {r : List TWord}

/-- The engine after DSET of a divisor d and a dividend q. -/
def afterDset (q d : TWord) (x : Engine) : Engine :=
  { x with
    ds := ⟨q.data, bothInt q d⟩ :: ⟨0, bothInt q d⟩ :: ⟨d.data, bothInt q d⟩ :: x.ds.drop 2
    flags := ⟨x.flags.n, x.flags.z, x.flags.c, decide (d.data = 0)⟩ }

/-- The remainder so far with the next bit of the dividend shifted in. -/
def shifted (p q : Word) : Nat := 2 * p.toNat + q.toNat / 2 ^ 63

/-- The tag of the quotient and the remainder after DSTEP. -/
def dstepTag (q p d : TWord) : Tag := if q.tag = 1 ∧ p.tag = 1 ∧ d.tag = 1 then 1 else 0

/-- Whether the divisor is taken away, as a number, and what is left. -/
def dstepBit (q p d : Word) : Nat := b2n (decide (d.toNat ≤ shifted p q))
def dstepRest (q p d : Word) : Nat := if decide (d.toNat ≤ shifted p q) then shifted p q - d.toNat else shifted p q

theorem dstepTag_eq (q p d : TWord) : dstepTag q p d = numTag d.tag (numTag p.tag q.tag) := by
  have horder : (q.tag = 1 ∧ p.tag = 1 ∧ d.tag = 1) = (d.tag = 1 ∧ p.tag = 1 ∧ q.tag = 1) :=
    propext ⟨fun ⟨hq, hp, hd⟩ => ⟨hd, hp, hq⟩, fun ⟨hd, hp, hq⟩ => ⟨hq, hp, hd⟩⟩
  rw [numTag_numTag]
  exact ite_congr horder (fun _ => rfl) (fun _ => rfl)

/-- Q and P after DSTEP. -/
def dstepQ (q p d : Word) : Word := BitVec.ofNat 64 (2 * q.toNat + dstepBit q p d)
def dstepP (q p d : Word) : Word := BitVec.ofNat 64 (dstepRest q p d)

/-- The engine after DSTEP of Q, P and D. -/
def afterDstep (q p d : TWord) (x : Engine) : Engine :=
  { x with
    ds := ⟨dstepQ q.data p.data d.data, dstepTag q p d⟩ :: ⟨dstepP q.data p.data d.data, dstepTag q p d⟩ :: d :: x.ds.drop 3
    flags := ⟨x.flags.n, x.flags.z, decide (d.data.toNat ≤ shifted p.data q.data), x.flags.v⟩ }

theorem divStep_eq (q p d : Word) : divStep d p q = (dstepP q p d, dstepQ q p d, decide (d.toNat ≤ shifted p q)) := by
  have hbit : divStep.b2n'' q.msb = q.toNat / 2 ^ 63 := by
    rw [BitVec.msb_eq_decide, divStep.b2n'']
    have := q.isLt
    split <;> rename_i h <;> simp only [decide_eq_true_eq] at h <;> omega
  have hw : p.toNat * 2 + divStep.b2n'' q.msb = shifted p q := by rw [hbit, shifted, Nat.mul_comm]
  have hq : q <<< 1 = BitVec.ofNat 64 (2 * q.toNat) := by
    apply BitVec.eq_of_toNat_eq
    rw [BitVec.toNat_shiftLeft, BitVec.toNat_ofNat, Nat.shiftLeft_eq, Nat.mul_comm]
  unfold divStep
  simp only [hw]
  by_cases hd : d.toNat ≤ shifted p q
  · simp [dstepP, dstepQ, dstepRest, dstepBit, hd, b2n, hq, BitVec.ofNat_add]
  · simp [dstepP, dstepQ, dstepRest, dstepBit, hd, b2n, hq]

theorem exec_dset (hq : numeric q) (hd : numeric d) (h : shortReady e .dset s = some (d :: q :: r, s1)) :
    exec (.dset e) s = engNext s1 e (fun x => nextWord 3 (afterDset q d x)) := by
  show runPair e .dset .nop s = _
  refine runShort_engNext h (Nat.le_add_left 2 r.length) (s1 := s1)
    (r := ⟨2, [⟨d.data, numTag q.tag d.tag⟩, ⟨0, numTag q.tag d.tag⟩, ⟨q.data, numTag q.tag d.tag⟩], none, none,
      ⟨none, none, none, some (d.data == 0)⟩⟩) ?_ rfl (fun x => ?_)
  · exact (run_bind_ok (nEng_run _ _)).trans ((run_bind_ok (viewNum_run hd rfl)).trans ((run_bind_ok (viewNum_run hq rfl)).trans rfl))
  · simp only [numTag_eq_bothInt]
    rfl

theorem exec_dstep (hq : numeric q) (hp : numeric p) (hd : numeric d) (h : shortReady e .dstep s = some (q :: p :: d :: r, s1)) :
    exec (.dstep e) s = engNext s1 e (fun x => nextWord 2 (afterDstep q p d x)) := by
  show runPair e .dstep .nop s = _
  refine runShort_engNext h (Nat.le_add_left 3 r.length) (s1 := s1)
    (r := ⟨3, [d, ⟨dstepP q.data p.data d.data, dstepTag q p d⟩, ⟨dstepQ q.data p.data d.data, dstepTag q p d⟩], none, none,
      ⟨none, none, some (decide (d.data.toNat ≤ shifted p.data q.data)), none⟩⟩) ?_ rfl (fun x => rfl)
  refine (run_bind_ok (nEng_run _ _)).trans ((run_bind_ok (viewNum_run hq rfl)).trans ((run_bind_ok (viewNum_run hp rfl)).trans
    ((run_bind_ok (viewNum_run hd rfl)).trans ?_)))
  rw [dstepTag_eq]
  have hds := divStep_eq q.data p.data d.data
  rw [show dstepP q.data p.data d.data = (divStep d.data p.data q.data).1 by rw [hds],
    show dstepQ q.data p.data d.data = (divStep d.data p.data q.data).2.1 by rw [hds],
    show decide (d.data.toNat ≤ shifted p.data q.data) = (divStep d.data p.data q.data).2.2 by rw [hds]]
  rfl

end

/-! ### The run (R123) -/

/-- After i steps of a division of n by d, with P and Q as they are, the quotient bits so far make a number k: P and Q together are n moved up i bits with
k added, and with k multiples of d taken away at P. P is below a divisor other than 0; with a divisor of 0 every quotient bit is 1. -/
def DivInv (n d i p q : Nat) : Prop :=
  ∃ k, p * 2 ^ 64 + q + k * d * 2 ^ 64 = 2 ^ i * n + k ∧ k < 2 ^ i ∧ (d ≠ 0 → p < d) ∧ (d = 0 → k + 1 = 2 ^ i)

theorem divInv_start (n d : Nat) : DivInv n d 0 0 n := ⟨0, by omega, by omega, by omega, by omega⟩

/-- The sum that a step doubles, its terms named: h the top bit of Q in its place, l the bits below it. -/
theorem doubled_sum {x k b p q m t z h l h2 : Nat} (hsum : p + q + m = x + k) (hq : h + l = q) (hbit : h2 = 2 * h) (htop : t + z = 2 * p + h2) :
    t + (2 * l + b) + (2 * m + z) = 2 * x + (2 * k + b) := by
  omega

/-- One step in numbers: P and Q as one number, with what was taken away of it, double; the step takes z away at P. -/
theorem step_sum {x k m p q b t z : Nat} (hsum : p * 2 ^ 64 + q + m * 2 ^ 64 = x + k) (hb : b ≤ 1) (ht : t + z = 2 * p + q / 2 ^ 63) :
    t * 2 ^ 64 + (2 * q + b) % 2 ^ 64 + (2 * m + z) * 2 ^ 64 = 2 * x + (2 * k + b) := by
  have hlow : (2 * q + b) % 2 ^ 64 = 2 * (q % 2 ^ 63) + b := by omega
  have hbit : q / 2 ^ 63 * 2 ^ 64 = 2 * (2 ^ 63 * (q / 2 ^ 63)) := by
    rw [Nat.mul_comm, show (2 : Nat) ^ 64 = 2 * 2 ^ 63 from rfl, Nat.mul_assoc]
  have htop : t * 2 ^ 64 + z * 2 ^ 64 = 2 * (p * 2 ^ 64) + q / 2 ^ 63 * 2 ^ 64 := by
    rw [← Nat.add_mul, ht, Nat.add_mul, Nat.mul_assoc]
  rw [hlow, Nat.add_mul (2 * m), Nat.mul_assoc 2 m]
  exact doubled_sum hsum (Nat.div_add_mod q (2 ^ 63)) hbit htop

/-- P stays below the divisor; when that is 0, below 2 to the number of steps. -/
theorem DivInv.p_lt {n d i p q : Nat} (h : DivInv n d i p q) (hn : n < 2 ^ 64) : if d = 0 then p < 2 ^ i else p < d := by
  obtain ⟨k, hsum, hk, hlt, -⟩ := h
  split
  next h0 =>
    have hni : 2 ^ i * n + 2 ^ i ≤ 2 ^ i * 2 ^ 64 := Nat.mul_le_mul_left (2 ^ i) hn
    rw [h0, Nat.mul_zero, Nat.zero_mul] at hsum
    exact Nat.lt_of_mul_lt_mul_right (a := 2 ^ 64) (by omega)
  next h0 => exact hlt h0

theorem dstepRest_add (q p d : Word) : dstepRest q p d + dstepBit q p d * d.toNat = shifted p q := by
  by_cases h : d.toNat ≤ shifted p q
  · simp [dstepRest, dstepBit, b2n, h]
  · simp [dstepRest, dstepBit, b2n, h]

theorem dstepBit_le (q p d : Word) : dstepBit q p d ≤ 1 := by
  unfold dstepBit b2n
  split <;> decide

theorem dstepBit_zero (q p : Word) {d : Word} (h : d.toNat = 0) : dstepBit q p d = 1 := by
  simp [dstepBit, b2n, h]

/-- What is left is below a divisor other than 0, since P was. -/
theorem dstepRest_lt {q p d : Word} (h : p.toNat < d.toNat) : dstepRest q p d < d.toNat := by
  have hq := q.isLt
  unfold dstepRest shifted
  split <;> rename_i hw <;> simp only [decide_eq_true_eq] at hw <;> omega

theorem divInv_step {n d : Word} {i : Nat} {p q : Word} (hi : i < 64) (h : DivInv n.toNat d.toNat i p.toNat q.toNat) :
    DivInv n.toNat d.toNat (i + 1) (dstepP q p d).toNat (dstepQ q p d).toNat := by
  have hp := h.p_lt n.isLt
  obtain ⟨k, hsum, hk, hlt, hzero⟩ := h
  have hb := dstepBit_le q p d
  have hadd := dstepRest_add q p d
  have hsucc : 2 ^ (i + 1) = 2 * 2 ^ i := by rw [Nat.pow_succ, Nat.mul_comm]
  have hrest : dstepRest q p d < 2 ^ 64 := by
    have hpow : 2 ^ i ≤ 2 ^ 63 := Nat.pow_le_pow_right (by decide) (by omega)
    have hq := q.isLt
    have hd := d.isLt
    split at hp
    next h0 => rw [shifted, h0] at hadd; omega
    next => exact Nat.lt_trans (dstepRest_lt hp) hd
  have hP : (dstepP q p d).toNat = dstepRest q p d := (BitVec.toNat_ofNat _ _).trans (Nat.mod_eq_of_lt hrest)
  have hQ : (dstepQ q p d).toNat = (2 * q.toNat + dstepBit q p d) % 2 ^ 64 := BitVec.toNat_ofNat _ _
  rw [hP, hQ]
  refine ⟨2 * k + dstepBit q p d, ?_, by omega, fun h0 => dstepRest_lt (hlt h0), fun h0 => ?_⟩
  · rw [hsucc, Nat.mul_assoc 2, Nat.add_mul (2 * k), Nat.mul_assoc 2 k]
    exact step_sum hsum hb hadd
  · rw [dstepBit_zero q p h0, hsucc, ← hzero h0]
    omega

/-- After 64 steps Q is the quotient and P the remainder; after a division by 0 they are all ones and the dividend. -/
theorem divInv_end {n d p q : Nat} (hq : q < 2 ^ 64) (h : DivInv n d 64 p q) :
    (d ≠ 0 → q = n / d ∧ p = n % d) ∧ (d = 0 → q = 2 ^ 64 - 1 ∧ p = n) := by
  obtain ⟨k, heq, hk, hlt, hzero⟩ := h
  have hqk : q = k := by omega
  subst hqk
  have hn : p + q * d = n := by omega
  refine ⟨fun h0 => ?_, fun h0 => ?_⟩
  · have hdm := (Nat.div_mod_unique (a := n) (c := p) (d := q) (Nat.pos_of_ne_zero h0)).mpr ⟨by rw [Nat.mul_comm]; exact hn, hlt h0⟩
    exact ⟨hdm.1.symm, hdm.2.symm⟩
  · subst h0
    have := hzero rfl
    omega

theorem numeric_bothInt (w : Word) (a b : TWord) : numeric ⟨w, bothInt a b⟩ := by
  unfold numeric bothInt
  split
  · exact .inr rfl
  · exact .inl rfl

theorem numeric_dstepTag (w : Word) (q p d : TWord) : numeric ⟨w, dstepTag q p d⟩ := by
  unfold numeric dstepTag
  split
  · exact .inr rfl
  · exact .inl rfl

/-- The data stack in a division of n by d after i steps, above r: Q, P and D, of which P and Q meet the invariant. -/
def DivStack (n d : Word) (i : Nat) (r ds : List TWord) : Prop :=
  ∃ (tg td : Tag) (q p : Word), ds = ⟨q, tg⟩ :: ⟨p, tg⟩ :: ⟨d, td⟩ :: r ∧ numeric ⟨q, tg⟩ ∧ numeric ⟨d, td⟩ ∧
    DivInv n.toNat d.toNat i p.toNat q.toNat

/-- The data stack that the word after leaves is the engine's as the word changes it. -/
theorem ds_of_engNext {e : EngineId} {s1 t : State} {k : Nat} {f : Engine → Engine} (h : engNext s1 e (fun x => nextWord k (f x)) = .next t) :
    (getEng t e).ds = (f (getEng s1 e)).ds := by
  cases h
  rw [getEng_updEng]
  rfl

theorem divStack_dset {e : EngineId} {s t : State} {n d : TWord} {r : List TWord} (hn : numeric n) (hd : numeric d)
    (hds : (getEng s e).ds = d :: n :: r) (hr : r.length ≤ 12) (hg : ∃ g, shortReady e .dset s = some g) (hx : exec (.dset e) s = .next t) :
    DivStack n.data d.data 0 r (getEng t e).ds := by
  obtain ⟨⟨v, s1⟩, hg⟩ := hg
  have hlen : (getEng s e).ds.length = r.length + 2 := by rw [hds]; rfl
  obtain ⟨rfl, hs1⟩ := shortReady_ds hg (by simp only [shortUse]; omega) (.inl (by simp only [shortUse]; omega))
  rw [hds] at hg hs1
  rw [exec_dset hn hd hg] at hx
  rw [ds_of_engNext hx, afterDset, hs1]
  exact ⟨_, _, _, _, rfl, numeric_bothInt _ _ _, numeric_bothInt _ _ _, divInv_start _ _⟩

theorem divStack_dstep {e : EngineId} {s t : State} {n d : Word} {i : Nat} {r : List TWord} (hi : i < 64)
    (hds : DivStack n d i r (getEng s e).ds) (hg : ∃ g, shortReady e .dstep s = some g) (hx : exec (.dstep e) s = .next t) :
    DivStack n d (i + 1) r (getEng t e).ds := by
  obtain ⟨⟨v, s1⟩, hg⟩ := hg
  obtain ⟨tg, td, q, p, hds, hq, hd, hinv⟩ := hds
  have hlen : (getEng s e).ds.length = r.length + 3 := by rw [hds]; rfl
  obtain ⟨rfl, hs1⟩ := shortReady_ds hg (by simp only [shortUse]; omega) (.inr (by simp only [shortUse]; omega))
  rw [hds] at hg hs1
  rw [exec_dstep (p := ⟨p, tg⟩) hq hq hd hg] at hx
  rw [ds_of_engNext hx, afterDstep, hs1]
  exact ⟨_, _, _, _, rfl, numeric_dstepTag _ _ _ _, hd, divInv_step hi hinv⟩

/-- Settles O9: the two words by their checks and results, and the run by an invariant of P and Q that each step keeps. -/
theorem divideRun : Obligations.DivideRun := by
  refine ⟨fun e s s1 q p d r hq hp hd => ⟨exec_dset hq hd, exec_dstep hq hp hd⟩, ?_⟩
  intro e f n d r hn hd hds hr ⟨g, hg, hx⟩ hsteps
  have hrun : ∀ i, i ≤ 64 → DivStack n.data d.data i r (getEng (f (i + 1)) e).ds := by
    intro i
    induction i with
    | zero => exact fun _ => divStack_dset hn hd hds hr ⟨g, hg⟩ hx
    | succ i ih =>
      intro hi
      obtain ⟨g, hg, hx⟩ := hsteps i hi
      exact divStack_dstep hi (ih (by omega)) ⟨g, hg⟩ hx
  obtain ⟨tg, td, q, p, hstack, -, -, hinv⟩ := hrun 64 (Nat.le_refl 64)
  obtain ⟨hpos, hzero⟩ := divInv_end q.isLt hinv
  refine ⟨tg, q, p, ⟨d.data, td⟩, hstack, rfl, fun h0 => ?_, fun h0 => ?_⟩
  · exact hpos (fun h => h0 (BitVec.eq_of_toNat_eq h))
  · obtain ⟨hq, hp⟩ := hzero (by rw [h0]; rfl)
    exact ⟨BitVec.eq_of_toNat_eq (hq.trans (BitVec.toNat_allOnes).symm), BitVec.eq_of_toNat_eq hp⟩

end Sys2Proof.Machine

/-! PROOFS. Retags and the parts of an ADDR (R114, R115). -/
namespace Sys2Proof.Machine

open Sys2Proof

/-! ### Retags (R114) and the parts of an ADDR (R113, R115) -/
section
variable {c : WCtx} {v : List TWord} {s : State}

/-- Only INT, RAW and FLT can be retagged. -/
theorem retags_iff (t : Tag) : (t == 0 || t == 1 || t == 2) = decide (t.toNat ≤ 2) := by
  revert t
  decide

theorem shortRetag_run {t : TWord} (h : t.tag.toNat ≤ 2) (tg : Tag) (ht : viewAt v 0 = t) :
    (shortRetag c v tg).run s = .ok (sPush 1 [⟨t.data, tg⟩]) s := by
  subst ht
  unfold shortRetag
  refine congrArg (fun p : NM SRes => p.run s) (if_neg ?_)
  rw [retags_iff]
  simp [h]

theorem shortRetag_faults {t : TWord} (h : 2 < t.tag.toNat) (tg : Tag) (ht : viewAt v 0 = t) :
    (shortRetag c v tg).run s = .error (nF c 4 (tagStatus c t.tag 0 0xB)) s := by
  subst ht
  unfold shortRetag
  refine (congrArg (fun p : NM SRes => p.run s) (if_pos ?_)).trans rfl
  rw [retags_iff]
  simp [h]

end

section
variable {e : EngineId} {s s1 : State} {t a b : TWord} {r : List TWord}

/-- A short operation that is a retag of T. -/
theorem runShort_retag {o : ShortOp} {tg : Tag} (ho : ∀ c v, shortEval c v o = nEng c >>= fun _ => shortRetag c v tg)
    (hc : shortCycles o = 2) (hu : shortUse o = (1, 1, 1)) (h : shortReady e o s = some (t :: r, s1)) :
    (t.tag.toNat ≤ 2 → runPair e o .nop s = engNext s1 e (fun x => nextWord 2 { x with ds := ⟨t.data, tg⟩ :: x.ds.drop 1 })) ∧
    (2 < t.tag.toNat → runPair e o .nop s = .next (syncFault e
      ⟨4, 1, BitVec.ofNat 64 (shortMinor o * 2 ^ 18 + 2 ^ 16 + t.tag.toNat * 2 ^ 12 + 0xB)⟩ s1)) := by
  have hl : (shortUse o).1 ≤ (t :: r).length := by rw [hu]; exact Nat.le_add_left 1 r.length
  refine ⟨fun ht => ?_, fun ht => ?_⟩
  · refine runShort_engNext h hl (r := sPush 1 [⟨t.data, tg⟩]) ?_ (by rw [hc]; rfl) (fun x => rfl)
    rw [ho]
    exact (run_bind_ok (nEng_run _ _)).trans (shortRetag_run ht tg rfl)
  · have hst : tagStatus (ctxA e o .nop) t.tag 0 0xB = BitVec.ofNat 64 (shortMinor o * 2 ^ 18 + 2 ^ 16 + t.tag.toNat * 2 ^ 12 + 0xB) := by
      simp [tagStatus, ctxA]
    rw [← hst]
    refine runShort_faults h hl (s2 := s1) (f := nF (ctxA e o .nop) 4 (tagStatus (ctxA e o .nop) t.tag 0 0xB)) ?_
    rw [ho]
    exact (run_bind_ok (nEng_run _ _)).trans (shortRetag_faults ht tg rfl)

theorem codeOff_eq (w : Word) : codeOff w = w.toNat % 2 ^ 48 := rfl

theorem ofNat_codeOff (w : Word) : BitVec.ofNat 64 (codeOff w) = w &&& BitVec.ofNat 64 (2 ^ 48 - 1) := by
  apply BitVec.eq_of_toNat_eq
  have hm : (BitVec.ofNat 64 (2 ^ 48 - 1)).toNat = 2 ^ 48 - 1 := by decide
  rw [BitVec.toNat_and, hm, Nat.and_two_pow_sub_one_eq_mod, codeOff_eq, BitVec.toNat_ofNat]
  omega

theorem codeSeg_setWidth (w : Word) : (codeSeg w).setWidth 64 = w >>> 52 := by
  apply BitVec.eq_of_toNat_eq
  have := w.isLt
  simp only [codeSeg, BitVec.toNat_setWidth, BitVec.extractLsb'_toNat, BitVec.toNat_ushiftRight, Nat.shiftRight_eq_div_pow]
  omega

theorem codeSeg_eq_iff (a b : Word) : codeSeg a = codeSeg b ↔ a >>> 52 = b >>> 52 := by
  rw [← codeSeg_setWidth, ← codeSeg_setWidth]
  refine ⟨fun h => by rw [h], fun h => ?_⟩
  have hn := congrArg BitVec.toNat h
  have ha := (codeSeg a).isLt
  have hb := (codeSeg b).isLt
  simp only [BitVec.toNat_setWidth] at hn
  exact BitVec.eq_of_toNat_eq (by omega)

/-- An access report of an ADDR's own segment and offset is the ADDR with KIND in bits 51 to 48 (R175). -/
theorem accRep_codeSeg (w : Word) (kind : Nat) (hk : kind < 16) :
    accRep (codeSeg w).toNat kind (codeOff w) = (w &&& ~~~ BitVec.ofNat 64 (15 * 2 ^ 48)) ||| BitVec.ofNat 64 (kind * 2 ^ 48) := by
  have hsum : (codeSeg w).toNat * 2 ^ 52 + kind * 2 ^ 48 + codeOff w % 2 ^ 48 =
      2 ^ 48 * (2 ^ 4 * (w.toNat / 2 ^ 52) + kind) + w.toNat % 2 ^ 48 := by
    have hw := w.isLt
    simp only [codeSeg, BitVec.extractLsb'_toNat, Nat.shiftRight_eq_div_pow, codeOff_eq]
    omega
  apply BitVec.eq_of_getLsbD_eq
  intro i hi
  simp only [accRep, hsum, BitVec.getLsbD_or, BitVec.getLsbD_and, BitVec.getLsbD_not, BitVec.getLsbD_ofNat, hi, decide_true, Bool.true_and]
  rw [Nat.testBit_two_pow_mul_add _ (Nat.mod_lt _ (by decide)), Nat.testBit_two_pow_mul_add _ (show kind < 2 ^ 4 from hk),
    show (15 : Nat) = 2 ^ 4 - 1 from rfl, Nat.testBit_mul_two_pow, Nat.testBit_two_pow_sub_one, Nat.testBit_mul_two_pow,
    Nat.testBit_mod_two_pow, Nat.testBit_div_two_pow, BitVec.testBit_toNat]
  by_cases h1 : i < 48
  · simp [h1, Nat.not_le.mpr h1]
  · have h48 : 48 ≤ i := Nat.le_of_not_lt h1
    by_cases h2 : i - 48 < 4
    · simp [h1, h2, h48]
    · have hk2 : kind.testBit (i - 48) = false :=
        Nat.testBit_lt_two_pow (Nat.lt_of_lt_of_le hk (Nat.pow_le_pow_right (n := 2) (by decide) (Nat.le_of_not_lt h2)))
      simp [h1, h2, hk2, BitVec.testBit_toNat, show i - 48 - 4 + 52 = i by omega]

theorem exec_aoff (ha : a.tag = 3) (h : shortReady e .aoff s = some (a :: r, s1)) :
    exec (.aoff e) s =
      engNext s1 e (fun x => nextWord 2 { x with ds := ⟨a.data &&& BitVec.ofNat 64 (2 ^ 48 - 1), 1⟩ :: x.ds.drop 1 }) := by
  show runPair e .aoff .nop s = _
  rw [← ofNat_codeOff]
  exact runShort_engNext h (Nat.le_add_left 1 r.length) (r := sPush 1 [⟨BitVec.ofNat 64 (codeOff a.data), 1⟩])
    ((run_bind_ok (nEng_run _ _)).trans (run_bind_ok (viewTag_run ha rfl))) rfl (fun x => rfl)

theorem exec_aseg (ha : a.tag = 3) (h : shortReady e .aseg s = some (a :: r, s1)) :
    exec (.aseg e) s = engNext s1 e (fun x => nextWord 2 { x with ds := ⟨a.data >>> 52, 1⟩ :: x.ds.drop 1 }) := by
  show runPair e .aseg .nop s = _
  rw [← codeSeg_setWidth]
  exact runShort_engNext h (Nat.le_add_left 1 r.length) (r := sPush 1 [⟨(codeSeg a.data).setWidth 64, 1⟩])
    ((run_bind_ok (nEng_run _ _)).trans (run_bind_ok (viewTag_run ha rfl))) rfl (fun x => rfl)

/-- ADIFF of two ADDRs up to its own check, that their segments are the same. -/
theorem shortEval_adiff {c : WCtx} (ha : a.tag = 3) (hb : b.tag = 3) :
    (shortEval c (a :: b :: r) .adiff).run s =
      if codeSeg b.data = codeSeg a.data then
        .ok (sPush 2 [⟨BitVec.ofInt 64 ((codeOff b.data : Int) - codeOff a.data), 1⟩]) s
      else .error (nF c 7 (accRep (codeSeg a.data).toNat 5 (codeOff a.data))) s := by
  refine (run_bind_ok (nEng_run _ _)).trans ((run_bind_ok (viewTag_run ha rfl)).trans ((run_bind_ok (viewTag_run hb rfl)).trans ?_))
  by_cases h : codeSeg b.data = codeSeg a.data
  · rw [if_pos h]
    exact congrArg (fun p : NM SRes => p.run s) (if_neg (by simp [h]))
  · rw [if_neg h]
    exact (congrArg (fun p : NM SRes => p.run s) (if_pos (by simp [h]))).trans rfl

theorem exec_adiff (ha : a.tag = 3) (hb : b.tag = 3) (h : shortReady e .adiff s = some (a :: b :: r, s1)) :
    exec (.adiff e) s =
      if b.data >>> 52 = a.data >>> 52 then
        engNext s1 e (fun x => nextWord 3 { x with ds := ⟨BitVec.ofInt 64 ((codeOff b.data : Int) - codeOff a.data), 1⟩ :: x.ds.drop 2 })
      else .next (syncFault e ⟨7, 1, (a.data &&& ~~~ BitVec.ofNat 64 (15 * 2 ^ 48)) ||| BitVec.ofNat 64 (5 * 2 ^ 48)⟩ s1) := by
  have hl : (shortUse .adiff).1 ≤ (a :: b :: r).length := Nat.le_add_left 2 r.length
  show runPair e .adiff .nop s = _
  split
  next hseg =>
    exact runShort_engNext h hl ((shortEval_adiff ha hb).trans (if_pos ((codeSeg_eq_iff _ _).mpr hseg))) rfl (fun x => rfl)
  next hseg =>
    rw [← accRep_codeSeg a.data 5 (by decide)]
    exact runShort_faults h hl ((shortEval_adiff ha hb).trans (if_neg (fun heq => hseg ((codeSeg_eq_iff _ _).mp heq))))

end

/-- Settles O7: the three retags by one lemma over their tag, the parts of an ADDR by their checks and results. -/
theorem retagsAndParts : Obligations.RetagsAndParts := by
  refine ⟨fun e s s1 t r k => ?_, fun e s s1 a b r ha => ⟨exec_aoff ha, exec_aseg ha, fun h hb => exec_adiff ha hb h⟩⟩
  match k with
  | 0 => exact runShort_retag (fun _ _ => rfl) rfl rfl
  | 1 => exact runShort_retag (fun _ _ => rfl) rfl rfl
  | 2 => exact runShort_retag (fun _ _ => rfl) rfl rfl

end Sys2Proof.Machine

/-! PROOFS. The bit fields and the byte permute (R117 to R120). -/
namespace Sys2Proof.Machine

open Sys2Proof

/-! ### The functions of the bit fields and the byte permute, bit by bit and byte by byte (R117 to R120) -/

theorem extField_getLsbD (sx : Bool) (v : Word) (pos : Nat) {w : Nat} (h0 : 0 < w) (hw : w ≤ 64) {i : Nat} (hi : i < 64) :
    (extField sx v pos w).getLsbD i = if i < w then v.getLsbD (pos + i) else sx && v.getLsbD (pos + w - 1) := by
  have hbit (j : Nat) : ((v >>> pos).toNat % 2 ^ w).testBit j = (decide (j < w) && v.getLsbD (pos + j)) := by
    rw [Nat.testBit_mod_two_pow, BitVec.testBit_toNat, BitVec.getLsbD_ushiftRight]
  have hsign : ((v >>> pos).toNat % 2 ^ w).testBit (w - 1) = v.getLsbD (pos + w - 1) := by
    rw [hbit, decide_eq_true (by omega : w - 1 < w), Bool.true_and, Nat.add_sub_assoc h0]
  have hlt : (v >>> pos).toNat % 2 ^ w < 2 ^ w := Nat.mod_lt _ (Nat.two_pow_pos w)
  unfold extField
  simp only [hsign]
  split
  next hs =>
    have hsum : (v >>> pos).toNat % 2 ^ w + 2 ^ 64 - 2 ^ w = 2 ^ w * (2 ^ (64 - w) - 1) + (v >>> pos).toNat % 2 ^ w := by
      have hpow : 2 ^ w * 2 ^ (64 - w) = 2 ^ 64 := by rw [← Nat.pow_add, Nat.add_sub_cancel' hw]
      have hle : 2 ^ w ≤ 2 ^ 64 := Nat.pow_le_pow_right (by decide) hw
      rw [Nat.mul_sub, hpow]
      omega
    rw [hs, hsum, BitVec.getLsbD_ofNat, decide_eq_true hi, Bool.true_and, Nat.testBit_two_pow_mul_add _ hlt, hbit,
      Nat.testBit_two_pow_sub_one]
    by_cases h : i < w
    · simp [h]
    · simp [h, show i - w < 64 - w by omega]
  next hs =>
    rw [BitVec.getLsbD_ofNat, decide_eq_true hi, Bool.true_and, hbit]
    by_cases h : i < w
    · simp [h]
    · simpa [h] using hs

theorem insField_getLsbD (d f : Word) (pos w : Nat) {i : Nat} (hi : i < 64) :
    (insField d f pos w).getLsbD i = if pos ≤ i ∧ i < pos + w then f.getLsbD (i - pos) else d.getLsbD i := by
  have hm : (BitVec.ofNat 64 ((2 ^ w - 1) * 2 ^ pos)).getLsbD i = decide (pos ≤ i ∧ i < pos + w) := by
    rw [BitVec.getLsbD_ofNat, decide_eq_true hi, Bool.true_and, Nat.testBit_mul_two_pow, Nat.testBit_two_pow_sub_one, ← Bool.decide_and]
    exact decide_eq_decide.mpr (by omega)
  unfold insField
  simp only [BitVec.getLsbD_or, BitVec.getLsbD_and, BitVec.getLsbD_not, BitVec.getLsbD_shiftLeft, hm, hi, decide_true, Bool.true_and]
  by_cases h : pos ≤ i ∧ i < pos + w
  · simp [h]
  · simp [h]

/-- The bits that a control word of EXT or INS may have set (R119). -/
theorem ctlMask_getLsbD : ∀ i, i < 64 → ((BitVec.ofNat 64 0x13F3F).getLsbD i = true ↔ i < 6 ∨ (8 ≤ i ∧ i < 14) ∨ i = 16) := by
  decide

theorem ctlOk_iff (c : Word) : ctlOk c = true ↔ ∀ i, i < 64 → c.getLsbD i = true → i < 6 ∨ (8 ≤ i ∧ i < 14) ∨ i = 16 := by
  unfold ctlOk
  rw [beq_iff_eq]
  change _ = 0#64 ↔ _
  refine ⟨fun h i hi hc => (ctlMask_getLsbD i hi).mp ?_, fun h => BitVec.eq_of_getLsbD_eq (fun i hi => ?_)⟩
  · have hz := congrArg (fun x : Word => x.getLsbD i) h
    simpa only [BitVec.getLsbD_and, BitVec.getLsbD_not, BitVec.getLsbD_zero, hi, hc, decide_true, Bool.true_and,
      Bool.not_eq_false'] using hz
  · rw [BitVec.getLsbD_and, BitVec.getLsbD_not, BitVec.getLsbD_zero]
    by_cases hc : c.getLsbD i = true
    · rw [(ctlMask_getLsbD i hi).mpr (h i hi hc)]
      simp
    · simp [hc]

theorem bperm_byte_lt (s2 s1 t : Word) (k : Nat) : bperm.byte s2 s1 t k < 256 := by
  unfold bperm.byte
  dsimp only
  split
  · exact Nat.mod_lt _ (by decide)
  · exact Nat.mod_lt _ (by decide)

theorem bperm_go_lt (s2 s1 t : Word) (n : Nat) : bperm.go s2 s1 t n < 2 ^ (8 * n) := by
  induction n with
  | zero => exact Nat.one_pos
  | succ n ih =>
    have hb := Nat.mul_le_mul_right (2 ^ (8 * n)) (Nat.le_of_lt_succ (bperm_byte_lt s2 s1 t n))
    rw [bperm.go, show 8 * (n + 1) = 8 * n + 8 from rfl, Nat.pow_add]
    omega

/-- Byte k of the words put together so far. -/
theorem bperm_go_byte (s2 s1 t : Word) {n k : Nat} (hk : k < n) : bperm.go s2 s1 t n / 2 ^ (8 * k) % 256 = bperm.byte s2 s1 t k := by
  induction n with
  | zero => omega
  | succ n ih =>
    rw [bperm.go]
    by_cases h : k = n
    · subst h
      rw [Nat.add_mul_div_right _ _ (Nat.two_pow_pos _), Nat.div_eq_of_lt (bperm_go_lt s2 s1 t k), Nat.zero_add,
        Nat.mod_eq_of_lt (bperm_byte_lt s2 s1 t k)]
    · have hkn : k < n := by omega
      have hpow : bperm.byte s2 s1 t n * 2 ^ (8 * n) = 256 * (bperm.byte s2 s1 t n * 2 ^ (8 * (n - k - 1))) * 2 ^ (8 * k) := by
        rw [show (256 : Nat) = 2 ^ 8 from rfl, Nat.mul_left_comm, Nat.mul_assoc, Nat.mul_assoc, ← Nat.pow_add, ← Nat.pow_add,
          show 8 + (8 * (n - k - 1) + 8 * k) = 8 * n by omega]
      rw [hpow, Nat.add_mul_div_right _ _ (Nat.two_pow_pos _), Nat.add_mul_mod_self_left, ih hkn]

theorem bperm_byte_of (s2 s1 t : Word) {k : Nat} (hk : k < 8) :
    (bperm s2 s1 t).toNat / 256 ^ k % 256 =
      if t.toNat / 16 ^ k % 16 < 8 then s1.toNat / 256 ^ (t.toNat / 16 ^ k % 16) % 256
      else s2.toNat / 256 ^ (t.toNat / 16 ^ k % 16 - 8) % 256 := by
  have h256 (j : Nat) : 256 ^ j = 2 ^ (8 * j) := by rw [Nat.pow_mul]
  have h16 (j : Nat) : 16 ^ j = 2 ^ (4 * j) := by rw [Nat.pow_mul]
  have hlt : bperm.go s2 s1 t 8 < 2 ^ 64 := bperm_go_lt s2 s1 t 8
  rw [bperm, BitVec.toNat_ofNat, Nat.mod_eq_of_lt hlt]
  simp only [h256, h16]
  rw [bperm_go_byte s2 s1 t hk]
  rfl

/-! ### The words -/
section
variable {e : EngineId} {s s1 : State} {t a b : TWord} {r : List TWord} {sx : Bool} {pos wm1 : BitVec 6}

/-- The tag of a result of three data operands (R89). -/
def threeInt (a b t : TWord) : Tag := if a.tag = 1 ∧ b.tag = 1 ∧ t.tag = 1 then 1 else 0

theorem numTag_eq_threeInt (a b t : TWord) : numTag b.tag (numTag a.tag t.tag) = threeInt a b t := by
  have horder : (b.tag = 1 ∧ a.tag = 1 ∧ t.tag = 1) = (a.tag = 1 ∧ b.tag = 1 ∧ t.tag = 1) :=
    propext ⟨fun ⟨hb, ha, ht⟩ => ⟨ha, hb, ht⟩, fun ⟨ha, hb, ht⟩ => ⟨hb, ha, ht⟩⟩
  rw [numTag_numTag]
  exact ite_congr horder (fun _ => rfl) (fun _ => rfl)

theorem exec_exti (ht : numeric t) (h : longReady e (wspec 0x38 (bfBits sx pos wm1) 3 1 1 1) s = some s1) (hds : (getEng s1 e).ds = t :: r) :
    exec (.exti e sx pos wm1) s = engNext s1 e (resultAbove r 3 (extField sx t.data pos.toNat (wm1.toNat + 1)) t.tag) := by
  change execExti e sx pos wm1 s = _
  unfold execExti
  refine runLong_result (ops := [t]) h hds ?_
  refine (run_bind_ok (needNum_run ht hds rfl)).trans ?_
  exact putResult_run 1 ⟨extField sx t.data pos.toNat (wm1.toNat + 1), t.tag⟩

theorem exec_insi (ht : numeric t) (ha : numeric a)
    (h : longReady e { wspec 0x39 (bfBits false pos wm1) 3 2 2 1 with illegal := fun _ => false } s = some s1)
    (hds : (getEng s1 e).ds = t :: a :: r) :
    exec (.insi e false pos wm1) s =
      engNext s1 e (resultAbove r 3 (insField a.data t.data pos.toNat (wm1.toNat + 1)) (bothInt a t)) := by
  rw [← numTag_eq_bothInt]
  change execInsi e false pos wm1 s = _
  unfold execInsi
  refine runLong_result (ops := [t, a]) h hds ?_
  refine (run_bind_ok (needNum_run ht hds rfl)).trans ((run_bind_ok (needNum_run ha hds rfl)).trans ?_)
  exact putResult_run 2 ⟨insField a.data t.data pos.toNat (wm1.toNat + 1), numTag a.tag t.tag⟩

theorem exec_ext (ht : numeric t) (ha : numeric a) (h : longReady e (wspec 0x3A 0 4 2 2 1) s = some s1)
    (hds : (getEng s1 e).ds = t :: a :: r) :
    exec (.ext e) s =
      if !ctlOk t.data then .next (syncFault e ⟨5, 0, t.data⟩ s1)
      else engNext s1 e (resultAbove r 4 (extField (ctlS t.data) a.data (ctlPos t.data) (ctlW t.data)) (bothInt a t)) := by
  rw [← numTag_eq_bothInt]
  change execExt e s = _
  unfold execExt
  refine runLong_checked (ops := [t, a]) h hds ?_
  refine (run_bind_ok (needNum_run ht hds rfl)).trans ((run_bind_ok (needNum_run ha hds rfl)).trans (rangeCheck_run.trans ?_))
  exact ite_congr rfl (fun _ => rfl) (fun _ => putResult_run 2 ⟨extField (ctlS t.data) a.data (ctlPos t.data) (ctlW t.data), numTag a.tag t.tag⟩)

theorem exec_ins (ht : numeric t) (ha : numeric a) (hb : numeric b) (h : longReady e (wspec 0x3B 0 4 3 3 1) s = some s1)
    (hds : (getEng s1 e).ds = t :: a :: b :: r) :
    exec (.ins e) s =
      if !ctlOk t.data || ctlS t.data then .next (syncFault e ⟨5, 0, t.data⟩ s1)
      else engNext s1 e (resultAbove r 4 (insField b.data a.data (ctlPos t.data) (ctlW t.data)) (threeInt a b t)) := by
  rw [← numTag_eq_threeInt]
  change execIns e s = _
  unfold execIns
  refine runLong_checked (ops := [t, a, b]) h hds ?_
  refine (run_bind_ok (needNum_run ht hds rfl)).trans ((run_bind_ok (needNum_run ha hds rfl)).trans
    ((run_bind_ok (needNum_run hb hds rfl)).trans (rangeCheck_run.trans ?_)))
  exact ite_congr rfl (fun _ => rfl)
    (fun _ => putResult_run 3 ⟨insField b.data a.data (ctlPos t.data) (ctlW t.data), numTag b.tag (numTag a.tag t.tag)⟩)

theorem exec_bperm (ht : numeric t) (ha : numeric a) (hb : numeric b) (h : longReady e (wspec 0x3C 0 4 3 3 1) s = some s1)
    (hds : (getEng s1 e).ds = t :: a :: b :: r) :
    exec (.bperm e) s =
      if 2 ^ 32 ≤ t.data.toNat then .next (syncFault e ⟨5, 0, t.data⟩ s1)
      else engNext s1 e (resultAbove r 4 (bperm b.data a.data t.data) (threeInt a b t)) := by
  rw [← numTag_eq_threeInt]
  change execBperm e s = _
  unfold execBperm
  refine runLong_checked (ops := [t, a, b]) h hds ?_
  refine (run_bind_ok (needNum_run ht hds rfl)).trans ((run_bind_ok (needNum_run ha hds rfl)).trans
    ((run_bind_ok (needNum_run hb hds rfl)).trans (rangeCheck_run.trans ?_)))
  exact ite_congr rfl (fun _ => rfl) (fun _ => putResult_run 3 ⟨bperm b.data a.data t.data, numTag b.tag (numTag a.tag t.tag)⟩)

end

/-- Settles O12: each word by its checks and result, each result bit by bit or byte by byte. -/
theorem bitFields : Obligations.BitFields := by
  intro e s s1 t a b r sx pos wm1 ht ha hb put three extracted inserted cw cp legal
  have hcw : ctlW t.data ≤ 64 := Nat.succ_le_of_lt (Nat.mod_lt _ (by decide))
  have hw : wm1.toNat + 1 ≤ 64 := wm1.isLt
  have hlegal : ctlOk t.data = true ↔ legal := ctlOk_iff t.data
  refine ⟨fun h hds => ⟨_, ?_, exec_exti ht h hds⟩, fun h hds => ⟨_, ?_, exec_insi ht ha h hds⟩, fun h hds => ⟨?_, ?_⟩,
    fun h hds => ⟨?_, ?_⟩, fun h hds => ⟨?_, ?_⟩⟩
  · exact fun i hi => extField_getLsbD sx t.data pos.toNat (Nat.succ_pos _) hw hi
  · exact fun i hi => insField_getLsbD a.data t.data pos.toNat (wm1.toNat + 1) hi
  · exact fun hl => ⟨_, fun i hi => extField_getLsbD _ a.data cp (Nat.succ_pos _) hcw hi,
      (exec_ext ht ha h hds).trans (if_neg (by simp [hlegal.mpr hl]))⟩
  · exact fun hl => (exec_ext ht ha h hds).trans (if_pos (by simpa using fun hok => hl (hlegal.mp hok)))
  · exact fun hl hs => ⟨_, fun i hi => insField_getLsbD b.data a.data cp cw hi,
      (exec_ins ht ha hb h hds).trans (if_neg (by rw [hlegal.mpr hl, show ctlS t.data = false from hs]; decide))⟩
  · refine fun hl => (exec_ins ht ha hb h hds).trans (if_pos ?_)
    rcases hl with hl | hs
    · simp [Bool.eq_false_iff.mpr (fun hok => hl (hlegal.mp hok))]
    · rw [show ctlS t.data = true from hs, Bool.or_true]
  · exact fun hlt => ⟨_, fun k hk => bperm_byte_of b.data a.data t.data hk, (exec_bperm ht ha hb h hds).trans (if_neg (Nat.not_le.mpr hlt))⟩
  · exact fun hle => (exec_bperm ht ha hb h hds).trans (if_pos hle)

end Sys2Proof.Machine

/-! PROOFS. The prism map (R327, R328). -/
namespace Sys2Proof.Machine

open Sys2Proof

/-! ### Lines at a stride (R328): which of their bits the count sets -/
section
variable {w k l0 i : Nat}

/-- A line whose first has w zero bits from bit k: the count fills them, between the bits above and below, which the first has. -/
theorem line_eq_of_gap (i : Nat) (hgap : l0 / 2 ^ k % 2 ^ w = 0) :
    l0 + i * 2 ^ k = 2 ^ k * (2 ^ w * (l0 / 2 ^ k / 2 ^ w) + i) + l0 % 2 ^ k := by
  have hhigh : 2 ^ w * (l0 / 2 ^ k / 2 ^ w) = l0 / 2 ^ k := Nat.mul_div_cancel' (Nat.dvd_of_mod_eq_zero hgap)
  rw [hhigh, Nat.mul_add, Nat.mul_comm i, Nat.add_right_comm, Nat.div_add_mod]

theorem line_testBit (hgap : l0 / 2 ^ k % 2 ^ w = 0) (hi : i < 2 ^ w) (n : Nat) :
    (l0 + i * 2 ^ k).testBit n =
      if n < k then (l0 % 2 ^ k).testBit n
      else if n - k < w then i.testBit (n - k) else (l0 / 2 ^ k / 2 ^ w).testBit (n - k - w) := by
  rw [line_eq_of_gap i hgap, Nat.testBit_two_pow_mul_add _ (Nat.mod_lt _ (Nat.two_pow_pos k)), Nat.testBit_two_pow_mul_add _ hi]

theorem line_testBit_of_count (hgap : l0 / 2 ^ k % 2 ^ w = 0) (hi : i < 2 ^ w) {c : Nat} (hc : c < w) :
    (l0 + i * 2 ^ k).testBit (k + c) = i.testBit c := by
  rw [line_testBit hgap hi, if_neg (Nat.not_lt.mpr (Nat.le_add_right k c)), Nat.add_sub_cancel_left, if_pos hc]

theorem line_testBit_of_first (hgap : l0 / 2 ^ k % 2 ^ w = 0) (hi : i < 2 ^ w) {j : Nat} (hj : j < 2 ^ w) {n : Nat}
    (hn : n < k ∨ k + w ≤ n) : (l0 + i * 2 ^ k).testBit n = (l0 + j * 2 ^ k).testBit n := by
  rw [line_testBit hgap hi, line_testBit hgap hj]
  rcases hn with hlow | hhigh
  · rw [if_pos hlow, if_pos hlow]
  · have hk : ¬ n < k := by omega
    have hw : ¬ n - k < w := by omega
    simp only [if_neg hk, if_neg hw]

end

/-! ### The map as an exclusive OR of fields of one width (R327) -/

/-- The exclusive OR of the lowest f fields of w bits. -/
def prismFold (w : Nat) : Nat → Nat → Nat
  | 0, _ => 0
  | f + 1, l => prismFold w f l ^^^ (l / 2 ^ (w * f) % 2 ^ w)

/-- The last field of the LOCAL map has 6 bits, L[26:21]. -/
theorem prismLocal_eq_prismFold (l : Nat) : prismLocal l = prismFold 7 4 (l % 2 ^ 27) := by
  generalize hm : l % 2 ^ 27 = m
  have h0 : l % 128 = m % 128 := by omega
  have h1 : l / 128 % 128 = m / 128 % 128 := by omega
  have h2 : l / 16384 % 128 = m / 16384 % 128 := by omega
  have h3 : l / 2097152 % 64 = m / 2097152 % 128 := by omega
  simp [prismLocal, prismFold, h0, h1, h2, h3]

theorem prismGlobal_eq_prismFold (l : Nat) : prismGlobal l = prismFold 10 3 (l % 2 ^ 30) := by
  generalize hm : l % 2 ^ 30 = m
  have h0 : l % 1024 = m % 1024 := by omega
  have h1 : l / 1024 % 1024 = m / 1024 % 1024 := by omega
  have h2 : l / 1048576 % 1024 = m / 1048576 % 1024 := by omega
  simp [prismGlobal, prismFold, h0, h1, h2]

theorem prismFold_lt (w f l : Nat) : prismFold w f l < 2 ^ w := by
  induction f with
  | zero => exact Nat.two_pow_pos w
  | succ f ih => exact Nat.xor_lt_two_pow ih (Nat.mod_lt _ (Nat.two_pow_pos w))

theorem prismFold_succ_testBit {w t : Nat} (ht : t < w) (f l : Nat) :
    (prismFold w (f + 1) l).testBit t = ((prismFold w f l).testBit t ^^ l.testBit (w * f + t)) := by
  rw [prismFold, Nat.testBit_xor, Nat.testBit_mod_two_pow, Nat.testBit_div_two_pow, decide_eq_true ht, Bool.true_and, Nat.add_comm t]

/-- Output bit t reads bit t of each field and no other bit. -/
theorem prismFold_testBit_congr {w t f x y : Nat} (ht : t < w) (hxy : ∀ q < f, x.testBit (w * q + t) = y.testBit (w * q + t)) :
    (prismFold w f x).testBit t = (prismFold w f y).testBit t := by
  induction f with
  | zero => rfl
  | succ f ih =>
    rw [prismFold_succ_testBit ht, prismFold_succ_testBit ht, hxy f (Nat.lt_succ_self f), ih (fun q hq => hxy q (Nat.lt_succ_of_lt hq))]

/-- Output bit t gives back bit t of field p when bit t of every other field is known. -/
theorem testBit_eq_of_prismFold {w t f p x y : Nat} (ht : t < w) (hp : p < f)
    (hxy : ∀ q < f, q ≠ p → x.testBit (w * q + t) = y.testBit (w * q + t))
    (h : (prismFold w f x).testBit t = (prismFold w f y).testBit t) : x.testBit (w * p + t) = y.testBit (w * p + t) := by
  induction f with
  | zero => exact absurd hp (Nat.not_lt_zero p)
  | succ f ih =>
    rw [prismFold_succ_testBit ht, prismFold_succ_testBit ht] at h
    by_cases hpf : p = f
    · subst hpf
      have hbelow : (prismFold w p x).testBit t = (prismFold w p y).testBit t :=
        prismFold_testBit_congr ht (fun q hq => hxy q (Nat.lt_succ_of_lt hq) (Nat.ne_of_lt hq))
      rw [hbelow] at h
      exact Bool.xor_right_inj.mp h
    · rw [hxy f (Nat.lt_succ_self f) (Ne.symm hpf)] at h
      exact ih (by omega) (fun q hq => hxy q (Nat.lt_succ_of_lt hq)) (Bool.xor_left_inj.mp h)

/-! ### The lines of a stride lie apart (R328) -/

/-- Of the bits that land on one output bit, the count sets one only: two of them are at least w apart. -/
theorem column_outside_count {w k c q : Nat} (hc : c < w) (hq : q ≠ (k + c) / w) :
    w * q + (k + c) % w < k ∨ k + w ≤ w * q + (k + c) % w := by
  have hpos : w * ((k + c) / w) + (k + c) % w = k + c := Nat.div_add_mod (k + c) w
  rcases Nat.lt_or_gt_of_ne hq with hlt | hgt
  · have hstep : w * (q + 1) ≤ w * ((k + c) / w) := Nat.mul_le_mul_left w hlt
    rw [Nat.mul_succ] at hstep
    omega
  · have hstep : w * ((k + c) / w + 1) ≤ w * q := Nat.mul_le_mul_left w hgt
    rw [Nat.mul_succ] at hstep
    omega

/-- Lines at a stride of 2 ^ k whose counts lie in the b bits that enter the map have distinct outputs. -/
theorem prismFold_line_inj {w f b k l0 i j : Nat} (hkb : k + w ≤ b) (hb : b ≤ w * f) (hgap : l0 / 2 ^ k % 2 ^ w = 0)
    (hi : i < 2 ^ w) (hj : j < 2 ^ w)
    (h : prismFold w f ((l0 + i * 2 ^ k) % 2 ^ b) = prismFold w f ((l0 + j * 2 ^ k) % 2 ^ b)) : i = j := by
  refine Nat.eq_of_testBit_eq (fun c => ?_)
  by_cases hc : c < w
  · have hfield : (k + c) / w < f := Nat.div_lt_of_lt_mul (by omega)
    have hbit := testBit_eq_of_prismFold (Nat.mod_lt (k + c) (Nat.zero_lt_of_lt hc)) hfield
      (fun q _ hq => by
        rw [Nat.testBit_mod_two_pow, Nat.testBit_mod_two_pow, line_testBit_of_first hgap hi hj (column_outside_count hc hq)])
      (congrArg (fun p => p.testBit ((k + c) % w)) h)
    have hcb : k + c < b := by omega
    simpa only [Nat.div_add_mod, Nat.testBit_mod_two_pow, hcb, decide_true, Bool.true_and, line_testBit_of_count hgap hi hc,
      line_testBit_of_count hgap hj hc] using hbit
  · have hle : 2 ^ w ≤ 2 ^ c := Nat.pow_le_pow_right (by decide) (Nat.le_of_not_lt hc)
    rw [Nat.testBit_lt_two_pow (Nat.lt_of_lt_of_le hi hle), Nat.testBit_lt_two_pow (Nat.lt_of_lt_of_le hj hle)]

theorem prismLocal_line_inj {k l0 i j : Nat} (hk : k ≤ 20) (hgap : l0 / 2 ^ k % 128 = 0) (hi : i < 128) (hj : j < 128)
    (h : prismLocal (l0 + i * 2 ^ k) = prismLocal (l0 + j * 2 ^ k)) : i = j := by
  rw [prismLocal_eq_prismFold, prismLocal_eq_prismFold] at h
  exact prismFold_line_inj (w := 7) (f := 4) (b := 27) (by omega) (by decide) hgap hi hj h

theorem prismGlobal_line_inj {k l0 i j : Nat} (hk : k ≤ 20) (hgap : l0 / 2 ^ k % 1024 = 0) (hi : i < 1024) (hj : j < 1024)
    (h : prismGlobal (l0 + i * 2 ^ k) = prismGlobal (l0 + j * 2 ^ k)) : i = j := by
  rw [prismGlobal_eq_prismFold, prismGlobal_eq_prismFold] at h
  exact prismFold_line_inj (w := 10) (f := 3) (b := 30) (by omega) (by decide) hgap hi hj h

/-! ### The pseudo-channel of a line (R326, R327) -/
section
variable {d : Desc} (l : Nat)

theorem prismLocal_lt : prismLocal l < 128 := prismLocal_eq_prismFold l ▸ prismFold_lt 7 4 _

theorem prismGlobal_lt : prismGlobal l < 1024 := prismGlobal_eq_prismFold l ▸ prismFold_lt 10 3 _

theorem linePlace_local (hd : d.global = false) : (linePlace d l).1 = 128 * d.homedie.toNat + prismLocal l := by
  simp [linePlace, hd]

theorem linePlace_global (hd : d.global = true) : (linePlace d l).1 = prismGlobal l := by
  simp [linePlace, hd]

end

/-- Settles O35: each bit of the count lands on an output bit of its own, where every other bit is of the first line. -/
theorem prismSpread : Obligations.PrismSpread := by
  intro d k l0 i j hk
  refine ⟨fun hd hgap hi hj h => ?_, fun hd hgap hi hj h => ?_, fun hd => ?_, fun hd => ?_⟩
  · rw [linePlace_local _ hd, linePlace_local _ hd] at h
    exact prismLocal_line_inj hk hgap hi hj (Nat.add_left_cancel h)
  · rw [linePlace_global _ hd, linePlace_global _ hd] at h
    exact prismGlobal_line_inj hk hgap hi hj h
  · rw [linePlace_local _ hd, Nat.mul_add_div (by decide), Nat.div_eq_of_lt (prismLocal_lt l0), Nat.add_zero]
  · rw [linePlace_global _ hd]
    exact prismGlobal_lt l0

end Sys2Proof.Machine
